-- ==== Sys2Proof/Word.lean ====
section
/-! DEFINITION. The word types of the SW7: bytes, rows, packets, core names. -/

namespace Sys2Proof

/-- One byte (R8: multi-byte data is little-endian). -/
abbrev Byte := BitVec 8

/-- One scratchpad row or one data flit of 64 bytes (R51, R25); byte k is bits [8k+7:8k]. -/
abbrev Row := BitVec 512

/-- A map from numbers to values, kept as a list with strictly rising keys in which no entry equals the map's default. -/
abbrev AMap (α : Type) := List (Nat × α)

/-- A byte memory: (address, byte) cells, addresses strictly rising, no cell equal to the byte an unlisted address reads as (0). -/
abbrev Mem := List Host.Cell

/-- A logical core (F, row, col) (R10). -/
structure CoreId where
  field : Nat
  row : Nat
  col : Nat
  deriving DecidableEq, Repr

/-- The packing of a logical core: field in [16:10], row in [9:5], column in [4:0] (R206). -/
def CoreId.key (c : CoreId) : Nat := c.field * 1024 + c.row * 32 + c.col

/-- The logical core of a packed key. -/
def CoreId.ofKey (k : Nat) : CoreId := ⟨k / 1024, k / 32 % 32, k % 32⟩

/-- A name of one of the 46 080 logical cores (R10): 80 fields of 24 by 24. -/
def CoreId.valid (c : CoreId) : Bool := c.field < 80 && c.row < 24 && c.col < 24

/-- A bulk-network packet: its source (a core key, 2^17 plus an endpoint id, or 2^18 for firmware), its header (R29) and its data flits. -/
structure Packet where
  src : Nat
  hdr : BitVec 64
  flits : List Row
  deriving DecidableEq, Repr

end Sys2Proof
end

