-- ==== Sys2Proof/Config.lean ====
section
/-! DEFINITION. What the stepping fixes, and the free values: opaque constants with no body that stand for what the spec leaves open. -/

namespace Sys2Proof

/-- Stepping A0 (scope; R8 onward): 0 on A0, 1 on B0. -/
def Config.stepping : Nat := 0

/-- Native latencies of stepping A0, classes 0x00 to 0x0E (R179). -/
def Config.nativeLatency : List Nat := [2, 4, 1, 2, 9, 2, 4, 6, 8, 3, 3, 16, 12, 2, 24]

/-- FREE VALUE. What FEXP computes, before the bound of R88 is applied (FP32 lanes). -/
opaque Config.fexp32 : BitVec 32 → BitVec 32
/-- FREE VALUE. What FRCP computes, before the bound of R88 is applied (FP32 lanes). -/
opaque Config.frcp32 : BitVec 32 → BitVec 32
/-- FREE VALUE. What FRSQ computes, before the bound of R88 is applied (FP32 lanes). -/
opaque Config.frsq32 : BitVec 32 → BitVec 32
/-- FREE VALUE. What FSIG computes, before the bound of R88 is applied (FP32 lanes). -/
opaque Config.fsig32 : BitVec 32 → BitVec 32
/-- FREE VALUE. What FEXP computes on BF16 lanes. -/
opaque Config.fexp16 : BitVec 16 → BitVec 16
/-- FREE VALUE. What FRCP computes on BF16 lanes. -/
opaque Config.frcp16 : BitVec 16 → BitVec 16
/-- FREE VALUE. What FRSQ computes on BF16 lanes. -/
opaque Config.frsq16 : BitVec 16 → BitVec 16
/-- FREE VALUE. What FSIG computes on BF16 lanes. -/
opaque Config.fsig16 : BitVec 16 → BitVec 16

/-- FREE VALUE. The n-th random 48-bit draw of M5 (R283), before the two address bits are forced. -/
opaque Config.randomMac : Nat → BitVec 48
/-- FREE VALUE. SHAKE256 of the boot ROM (R307): the ROM's content is not given. -/
opaque Config.romDigest : BitVec 256
/-- FREE VALUE. SHAKE256 of the verified firmware image in flash slot 0 (A) or 1 (B) as the module leaves manufacture (R307, R315). -/
opaque Config.fwDigest : Nat → BitVec 256
/-- FREE VALUE. FW_VERSION of the image in flash slot 0 or 1 at power-on (R315, R321). -/
opaque Config.fwVersion : Nat → BitVec 32
/-- FREE VALUE. The own minimum version of the image in flash slot 0 or 1 at power-on (R315, R317). -/
opaque Config.fwMinimum : Nat → BitVec 32
/-- FREE VALUE. The Krevin root key in the mask boot ROM (R315), as a 68-byte public key, little-endian. -/
opaque Config.rootKey : BitVec 544
/-- FREE VALUE. One LSB of the converter of sense pair n, in microvolts (R411: the limit is half of it). -/
opaque Config.senseLsb : Nat → BitVec 32
/-- FREE VALUE. Whether the wafer at the far end of a chip link reports an object's digest in one of its slots (R209): no command of the table tells it. -/
opaque Config.neighbourHolds : Nat → List (BitVec 8) → Bool
/-- FREE VALUE. The tumbler core, and the position slot of its sorter, that the LM-head templates of a choreography give position j of a pass issued at a beat phase (R243): tumbler * 32 + slot, taken modulo 768.  Arguments: model slot, phase, j. -/
opaque Config.candidatePlace : Nat → Nat → Nat → Nat
/-- FREE VALUE. The tumbler core that carries out a duty of firmware (R242), by duty, taken modulo 24. -/
opaque Config.tumblerFor : Nat → Nat
/-- FREE VALUE. The arrival counter that a firmware write advances where the spec names none: 0 the return of a fetch descriptor, 1 the write of a fetch-ring entry, 2 the write of a select entry; by core. -/
opaque Config.firmwareCtr : Nat → Nat → BitVec 5
/-- FREE VALUE. The scratch row and the HBM address (in 64-byte units) of an idle fetch descriptor, by core (R168). -/
opaque Config.idleRow : Nat → BitVec 16
opaque Config.idleAddr : Nat → BitVec 29
/-- FREE VALUE. What a firmware message on a chip link holds from byte 12 of its envelope slot on (R262), by kind (0 ready report, 1 hold complete, 2 resume beat, 3 start beat, 4 escalation record, 5 hello, 6 abort of a start, 7 wafer time at the next 1PPS edge, 8 the group is broken, 9 the raised rungs of a wide pass, 10 a paused request) and content. -/
opaque Config.firmwareSlot : Nat → List Nat → BitVec 512
/-- FREE VALUE. The escalation record that a firmware slot carries, if it carries one. -/
opaque Config.firmwareRecord : BitVec 512 → Option (BitVec 128)
/-- FREE VALUE. The kind and the content, as 32-bit words, of a firmware message that orders something at once: 6 and the mismatching member, 8, 9 and a PSEQ with its raised units, or 10 and an entry with its bytes and list words. -/
opaque Config.firmwareOrder : List (BitVec 512) → Option (Nat × List (BitVec 32))
/-- FREE VALUE. TRACE_CATALOGUE of a firmware image, by its digest (R320). -/
opaque Config.traceCatalogue : List (BitVec 8) → List (BitVec 8)
/-- FREE VALUE. The segments of a firmware image, for M0 to M5 and the tumbler firmware in that order; none where its segment table is not well formed (R315: the table's layout is not given). -/
opaque Config.segments : List (BitVec 8) → Option (List (List (BitVec 8)))
/-- FREE VALUE. SHAKE256 of a segment of the image in flash slot 0 or 1 as the module leaves manufacture. -/
opaque Config.segmentDigest : Nat → Nat → BitVec 256
/-- FREE VALUE. How many ns of lines the console holds back before it drops one (R333). -/
opaque Config.consoleDepth : Nat
/-- FREE VALUE. The console line that tells how many lines were dropped (R333). -/
opaque Config.droppedLine : Nat → List (BitVec 8)
/-- FREE VALUE. The console line of M0's boot progress (R333) at a step of a start, by kind of start and step. -/
opaque Config.bootLine : Nat → Nat → List (BitVec 8)
/-- FREE VALUE. The uncalibrated default of a calibration item (R411), by group and item: two FP32 words, the first in [31:0]. -/
opaque Config.calDefault : Nat → Nat → BitVec 64
/-- FREE VALUE. The scratchpad-row field of a VOID log entry (R57, code 0x43) whose cause names no row, by fault code, core and beat. -/
opaque Config.voidRow : Nat → Nat → Nat → BitVec 16
/-- FREE VALUE. The n-th value that the spec leaves open and that no other constant names. -/
opaque Config.free : Nat → BitVec 64

/-- FREE VALUE. The code of a log entry that the spec orders but gives no code (R98, R45, R46, R49, R263, R267, R387), by kind of event. -/
opaque Config.logCode : Nat → BitVec 8
/-- FREE VALUE. The severity of such an entry, taken modulo 6. -/
opaque Config.logSev : Nat → BitVec 8
/-- FREE VALUE. The payload of such an entry where the spec gives none. -/
opaque Config.logPayload : Nat → List Byte

end Sys2Proof
end

