-- ==== Sys2Proof/Machine/Bits.lean ====
section
/-! DEFINITION. Bit fields, little-endian byte strings, ordered maps and byte memories. -/

namespace Sys2Proof.Machine

/-- Bits [hi:lo] of a number. -/
def bits (w hi lo : Nat) : Nat := w / 2 ^ lo % 2 ^ (hi + 1 - lo)
/-- Bit i of a number. -/
def bit (w i : Nat) : Bool := w / 2 ^ i % 2 == 1

def boolNat (b : Bool) : Nat := if b then 1 else 0

/-- A w-bit field read as two's complement. -/
def signed (w n : Nat) : Int := if n % 2 ^ w ≥ 2 ^ (w - 1) then (n % 2 ^ w : Int) - 2 ^ w else (n % 2 ^ w : Int)

/-- The w-bit two's complement of an integer. -/
def twos (w : Nat) (i : Int) : Nat := (i % (2 ^ w : Nat)).toNat

/-- Little-endian bytes of a number, n of them (R8). -/
def leBytes : Nat → Nat → List Byte
  | 0, _ => []
  | n + 1, v => BitVec.ofNat 8 v :: leBytes n (v / 256)

/-- The number of a little-endian byte string (R8). -/
def leNat : List Byte → Nat
  | [] => 0
  | b :: bs => b.toNat + 256 * leNat bs

/-- Big-endian bytes of a number (published standards only, R306). -/
def beBytes (n v : Nat) : List Byte := (leBytes n v).reverse

def rowOfBytes (bs : List Byte) : Row := BitVec.ofNat 512 (leNat (bs.take 64))
def rowBytes (r : Row) : List Byte := leBytes 64 r.toNat
/-- Bytes [lo, lo+n) of a row, as a little-endian number. -/
def rowField (r : Row) (lo n : Nat) : Nat := bits r.toNat (8 * lo + 8 * n - 1) (8 * lo)

/-- A row whose fields are given as (first byte, size in bytes, value). -/
def rowOfFields (fs : List (Nat × Nat × Nat)) : Row :=
  BitVec.ofNat 512 (fs.foldl (fun acc f => acc + f.2.2 % 256 ^ f.2.1 * 256 ^ f.1) 0)

/-- n bytes of a byte string from an offset, zeros past its end. -/
def slice (bs : List Byte) (off n : Nat) : List Byte :=
  let t := (bs.drop off).take n
  t ++ List.replicate (n - t.length) 0

/-- The little-endian field of n bytes at an offset of a byte string. -/
def field (bs : List Byte) (off n : Nat) : Nat := leNat (slice bs off n)

/-- ASCII text. -/
def ascii (s : String) : List Byte := s.toList.map fun c => BitVec.ofNat 8 c.toNat

def ceilDiv (a b : Nat) : Nat := (a + b - 1) / b

/-- Replaces bits [hi:lo]. -/
def setBits (w hi lo v : Nat) : Nat := w - bits w hi lo * 2 ^ lo + v % 2 ^ (hi + 1 - lo) * 2 ^ lo

end Sys2Proof.Machine

namespace Sys2Proof

/-- The header of a packet as a number (R29). -/
def Packet.h (p : Packet) : Nat := p.hdr.toNat

/-! ### Ordered maps -/

/-- The value at a key; an unlisted key has the default. -/
def AMap.get {α : Type} (d : α) : AMap α → Nat → α
  | [], _ => d
  | (k, v) :: m, key => if key = k then v else AMap.get d m key

/-- Whether a key is listed. -/
def AMap.has {α : Type} (m : AMap α) (key : Nat) : Bool := m.any fun kv => kv.1 == key

def AMap.erase {α : Type} (m : AMap α) (key : Nat) : AMap α := m.filter fun kv => kv.1 != key

/-- Inserts in key order. -/
def AMap.insert {α : Type} : AMap α → Nat → α → AMap α
  | [], key, v => [(key, v)]
  | (k, w) :: m, key, v =>
    if key < k then (key, v) :: (k, w) :: m
    else if key = k then (key, v) :: m
    else (k, w) :: AMap.insert m key v

/-- Sets a key; setting the default removes the entry, so equal maps are equal lists. -/
def AMap.put {α : Type} [DecidableEq α] (d : α) (m : AMap α) (key : Nat) (v : α) : AMap α :=
  if v = d then AMap.erase m key else AMap.insert m key v

/-- The canonical form: keys strictly rising, no entry equal to the default. -/
def AMap.wf {α : Type} [DecidableEq α] (d : α) : AMap α → Bool
  | [] => true
  | (_, v) :: [] => decide (v ≠ d)
  | (k, v) :: (k', v') :: m => decide (v ≠ d) && decide (k < k') && AMap.wf d ((k', v') :: m)

def AMap.keys {α : Type} (m : AMap α) : List Nat := m.map (·.1)

/-- Changes one key. -/
def AMap.modify {α : Type} [DecidableEq α] (d : α) (m : AMap α) (key : Nat) (f : α → α) : AMap α :=
  AMap.put d m key (f (AMap.get d m key))

/-! ### Byte memories -/

/-- One byte; an unlisted address reads as zero. -/
def Mem.byte (m : Mem) (a : Nat) : Byte := AMap.get (0 : Byte) m a
/-- Stores one byte. -/
def Mem.put (m : Mem) (a : Nat) (b : Byte) : Mem := AMap.put (0 : Byte) m a b
/-- The canonical form of a byte memory. -/
def Mem.wf (m : Mem) : Bool := AMap.wf (0 : Byte) m
/-- n bytes from an address. -/
def Mem.read (m : Mem) (a : Nat) : Nat → List Byte
  | 0 => []
  | n + 1 => Mem.byte m a :: Mem.read m (a + 1) n
/-- Stores a byte string. -/
def Mem.write (m : Mem) (a : Nat) : List Byte → Mem
  | [] => m
  | b :: bs => Mem.write (Mem.put m a b) (a + 1) bs
/-- A little-endian number of n bytes. -/
def Mem.nat (m : Mem) (a n : Nat) : Nat := Machine.leNat (Mem.read m a n)
/-- Row n of a memory of 64-byte rows. -/
def Mem.row (m : Mem) (n : Nat) : Row := BitVec.ofNat 512 (Mem.nat m (64 * n) 64)

end Sys2Proof
end

