-- ==== Sys2Proof/Syntax.lean ====
section
/-! DEFINITION. The commands and events of the SW7: one constructor per row of spec/opcode_table.json. -/

namespace Sys2Proof

/-- Where a packet command takes its packet: the oldest one in flight from a source, or one that the environment (a neighbour, firmware, a tumbler core) brings. -/
inductive PktSource where
  | inFlight (src : Nat)
  | given (p : Packet)
  deriving DecidableEq, Repr

/-- A router port in the fixed order of R32. -/
inductive Port where
  | local | west | east | north | south
  deriving DecidableEq, Repr

/-- A requester of the service crossbar (R43). -/
inductive Requester where
  | tumbler (n : Nat)
  | mcore (n : Nat)
  | rxDma (e : Nat)
  | txDma (e : Nat)
  | root
  deriving DecidableEq, Repr

/-- What a control-network word of a core stands for (R35, R36, R72, R425).  The spec gives no register-word numbers, so the register is named. -/
inductive CtlReg where
  | windowRow | windowOffset | windowData
  | figureStore (word part : Nat)
  | handle (i part : Nat)
  | reduction (rid part : Nat)
  | exitTable (ep part : Nat)
  | pins (part : Nat)
  | counterLow (k : Nat) | counterHigh (k : Nat)
  | eccCorrected
  | faultCode
  deriving DecidableEq, Repr

/-- A client's session on COL (R288): generation in [31:16], index in [15:0]. -/
abbrev Sid := Nat

/-- One entry of a COL READ (R292). -/
structure ReadEntry where
  idx : Nat
  sub : Nat
  offset : Nat
  maxLen : Nat
  deriving DecidableEq, Repr

/-- One entry of a COL WRITE (R292). -/
structure WriteEntry where
  idx : Nat
  sub : Nat
  value : List Byte
  deriving DecidableEq, Repr

/-- Where a datagram came from: device port, remote address, remote UDP port (R289). -/
structure Path where
  port : Nat
  addr : Nat
  udp : Nat
  deriving DecidableEq, Repr

/-- The header fields of a received sequenced datagram that the session rules use (R286, R290). -/
structure Rx where
  sid : Sid
  seq : Nat
  ack : Nat
  path : Path
  deriving DecidableEq, Repr

/-- The payload of one REQUEST message (R299). -/
structure ReqMsg where
  tag : Nat
  prio : Nat
  flags : Nat
  kreq : Nat
  tenant : Nat
  samp : Nat
  ttftDl : Nat
  endDl : Nat
  tbtTgt : Nat
  prompt : Nat
  maxPos : Nat
  offset : Nat
  ids : List Nat
  deriving DecidableEq, Repr

/-- What the tests and samples of one cold start find (R384, R387, R389): dead positions (field, prow, pcol), fields unusable as a whole, failed converters, failed phases (domain, phase), HBM stacks, link ports and Ethernet blocks, whether a block of the edge ring that stops the start failed, whether each flash slot's image reads back and verifies; ENROLL held, TEST_EN high, CALV in mV, the connectors that hold a cable, how long before the root PLL locks the last PPS edge came, in ns, and the two readings of each field diode just before its field is powered, in milli-degrees C (R409). -/
structure BistReport where
  deadPositions : List (Nat × Nat × Nat)
  badFields : List Nat
  badConverters : List Nat
  badPhases : List (Nat × Nat)
  badHbm : List Nat
  badLinks : List Nat
  badPorts : List Nat
  edgeFailed : Bool
  imageOk : Bool × Bool
  enroll : Bool
  testEn : Bool
  calvMv : Nat
  cables : Nat
  ppsAgo : Nat
  diodes : List (Int × Int)
  deriving DecidableEq, Repr

/-- A start that finds nothing wrong. -/
def BistReport.clean : BistReport := ⟨[], [], [], [], [], [], [], false, (true, true), false, false, 0, 0, 0, []⟩

/-- What COLD_START tells of (R332, R334, R382): power or the input's return, a START written before, RESET_N going low, RESET_N released so many ms later, ENROLL held outside a start. -/
inductive Trigger where
  | power
  | start
  | resetLow
  | resetHigh (lowMs : Nat)
  | enrollHeld
  deriving DecidableEq, Repr

/-- A cold start: its cause, for how many ms the input has stayed at or above 51 V (R324), and what the start finds. -/
structure ColdCause where
  cause : Trigger
  heldMs : Nat
  report : BistReport
  deriving DecidableEq, Repr

/-- A control-network access as it arrives (R35): a 32-bit read or write, or one with a parity error. -/
inductive CtlOp where
  | read
  | write (v : BitVec 32)
  | parityError
  deriving DecidableEq, Repr

/-- Where a flash update stands (R316, R317): the inactive slot is erased; or its programming has ended, with the programs of 256 bytes that were complete at the last hold-up check of the image, that check's time, and the time of the boot record's check, in us. -/
inductive FlashEvent where
  | erased
  | programmed (pieces imageUs recordUs : Nat)
  deriving DecidableEq, Repr

/-- A received chip-link frame after FEC (R261): whether every codeword was correctable, its control field, its slots, and the corrected codewords. -/
structure Frame where
  good : Bool
  control : BitVec 40
  slots : List Row
  corrected : Nat
  deriving DecidableEq, Repr

/-- The outcome of a link bring-up (R268): the step at which it failed (0: none), the far end's hello (group id and size, member, link), and what the timed exchanges measured. -/
structure Bringup where
  failedStep : Nat
  groupId : Nat
  size : Nat
  peer : Nat
  far : Nat
  retryNs : Nat
  syncNs : Nat
  offsetPs : Int
  deriving DecidableEq, Repr

/-- The averages of one 1 ms tick (R352): input in mV and mA, each domain's sense code in thousandths of a code (D000 first), each segment's current in mA (SG00 first, SGE last), and the domain whose calibration source was on, with I_CAL in mA (R413). -/
structure PowerReading where
  inputMv : Nat
  inputMa : Nat
  codes : List Int
  segmentMa : List Nat
  source : Option (Nat × Nat)
  deriving DecidableEq, Repr

/-- What one run of a calibration item reads (R409, R410), by group.  CURRENT: I_CAL in uA, the difference of sense codes of each pair of windows that is not discarded, and the shorted code, in thousandths.  VSENSE: the two bus voltages in uV (`windows`), and the codes at the lower and at the higher, in thousandths.  DIODE: a reading in milli-degrees C, and the ideality in millionths.  MARGIN: of a monitor the code at which the test figure first fails, of a field's trim the voltages in mV at which it fails at steps 0 to 6.  TIMEBASE: the count over 2 s, and the TCXO temperature in milli-degrees C. -/
structure CalRun where
  ref : Nat
  windows : List Int
  a : Int
  b : Int
  fails : List Nat
  deriving DecidableEq, Repr

/-- One item of a calibration run with its two complete runs (R408, R411). -/
structure CalItem where
  group : Nat
  item : Nat
  run1 : CalRun
  run2 : CalRun
  deriving DecidableEq, Repr

/-- One command or event of the SW7, a row of spec/opcode_table.json. -/
inductive Instr where
  -- matrix array (R81)
  | mnop (c : CoreId)
  | mload (c : CoreId) (h : BitVec 6) (x : BitVec 3) (wb : Bool) (out : BitVec 2)
  | mmul (c : CoreId) (h : BitVec 6) (x : BitVec 3) (wb ab z : Bool) (v1 : BitVec 6)
  | mout (c : CoreId) (h : BitVec 6) (x : BitVec 3) (ab bf : Bool) (v1 : BitVec 6) (pred : BitVec 3)
  -- vector unit, memory form (R86, R87)
  | vnop (c : CoreId)
  | vld (c : CoreId) (vr : BitVec 4) (h : BitVec 6) (x : BitVec 3) (imm : BitVec 8) (sub : BitVec 2)
  | vst (c : CoreId) (vr : BitVec 4) (h : BitVec 6) (x : BitVec 3) (imm : BitVec 8) (sub : BitVec 2) (pred : BitVec 3)
  | vlds (c : CoreId) (h : BitVec 6) (x : BitVec 3) (imm : BitVec 8)
  | vsst (c : CoreId) (h : BitVec 6) (x : BitVec 3) (imm : BitVec 8) (pred : BitVec 3)
  | vldq (c : CoreId) (vr : BitVec 4) (h : BitVec 6) (x : BitVec 3) (imm : BitVec 8)
  | vqst (c : CoreId) (vr : BitVec 4) (h : BitVec 6) (x : BitVec 3) (imm : BitVec 8) (sub : BitVec 2) (pred : BitVec 3)
  | vspin (c : CoreId) (h : BitVec 6) (x : BitVec 3) (imm : BitVec 8)
  -- vector unit, arithmetic form (R86, R87)
  | vqend (c : CoreId) (imm : BitVec 9)
  | fadd (c : CoreId) (vd va vb : BitVec 4) (w : Bool)
  | fsub (c : CoreId) (vd va vb : BitVec 4) (w : Bool)
  | fmul (c : CoreId) (vd va vb : BitVec 4) (w : Bool)
  | fma (c : CoreId) (vd va vb vc : BitVec 4) (w : Bool)
  | fmax (c : CoreId) (vd va vb : BitVec 4) (w : Bool)
  | fmin (c : CoreId) (vd va vb : BitVec 4) (w : Bool)
  | fexp (c : CoreId) (vd va : BitVec 4) (w : Bool)
  | frcp (c : CoreId) (vd va : BitVec 4) (w : Bool)
  | frsq (c : CoreId) (vd va : BitVec 4) (w : Bool)
  | fsig (c : CoreId) (vd va : BitVec 4) (w : Bool)
  | vsum (c : CoreId) (vd va : BitVec 4) (w : Bool)
  | vmaxr (c : CoreId) (vd va : BitVec 4) (w : Bool)
  | vbcst (c : CoreId) (vd va : BitVec 4) (w : Bool) (lane : BitVec 7)
  | vtopk (c : CoreId) (vd va : BitVec 4)
  | fcvt (c : CoreId) (vd va : BitVec 4) (widen : Bool)
  -- attention pipe (R91)
  | anop (c : CoreId)
  | acfg (c : CoreId) (arg : BitVec 2)
  | aqld (c : CoreId) (h : BitVec 6) (x : BitVec 3)
  | arst (c : CoreId) (slot : Bool)
  | apage (c : CoreId) (h : BitVec 6) (x : BitVec 3) (causal slot : Bool)
  | aout (c : CoreId) (h : BitVec 6) (x : BitVec 3) (slot : Bool)
  | amrg (c : CoreId) (h : BitVec 6) (x : BitVec 3) (slot : Bool)
  | anorm (c : CoreId) (h : BitVec 6) (x : BitVec 3) (slot : Bool)
  -- data mover (R96)
  | dnop (c : CoreId)
  | dcpy (c : CoreId) (hs : BitVec 6) (xs : BitVec 3) (hd : BitVec 6) (xd : BitVec 3) (n1 : BitVec 6) (pred : BitVec 3)
  | dsend (c : CoreId) (hs : BitVec 6) (xs : BitVec 3) (route : BitVec 6) (xd : BitVec 3) (len : BitVec 4) (pred : BitVec 3)
  | dred (c : CoreId) (hs : BitVec 6) (xs : BitVec 3) (route : BitVec 6) (xd : BitVec 3) (pred : BitVec 3)
  | dqget (c : CoreId) (hs : BitVec 6) (xs : BitVec 3) (route : BitVec 6) (xd : BitVec 3) (pred : BitVec 3)
  | dqput (c : CoreId) (hs : BitVec 6) (xs : BitVec 3) (route : BitVec 6) (xd : BitVec 3) (len : BitVec 4) (pred : BitVec 3)
  | dscat (c : CoreId) (hs : BitVec 6) (xs : BitVec 3) (route : BitVec 6) (hi : BitVec 6) (xi : BitVec 3) (pred : BitVec 3)
  | dnw (c : CoreId) (hs : BitVec 6) (xs : BitVec 3) (hd : BitVec 6) (xd : BitVec 3) (a b : BitVec 2) (pred : BitVec 3)
  | dctr (c : CoreId) (h : BitVec 6) (x : BitVec 3) (sel : BitVec 2) (pred : BitVec 3)
  -- sequencer and sync (R100, R102)
  | nop (c : CoreId)
  | wait (c : CoreId) (ctr : BitVec 5) (inc : BitVec 7)
  | cset (c : CoreId) (ctr : BitVec 5) (v : BitVec 7)
  | tset (c : CoreId) (ctr : BitVec 5) (v : BitVec 7)
  | tadd (c : CoreId) (ctr : BitVec 5) (v : BitVec 7)
  | rel (c : CoreId) (h : BitVec 6)
  | loop (c : CoreId) (d : BitVec 4)
  | xset (c : CoreId) (x : BitVec 3) (v : BitVec 9)
  | xadd (c : CoreId) (x : BitVec 3) (v : BitVec 9)
  | pset (c : CoreId) (p : BitVec 2) (v : Bool)
  | arrive (c : CoreId) (e : BitVec 5)
  | bwait (c : CoreId) (e : BitVec 5)
  | cadd (c : CoreId) (e : BitVec 5) (imm : BitVec 5)
  | cwait (c : CoreId) (e : BitVec 5)
  | beat (c : CoreId) (n : BitVec 10)
  | done (c : CoreId)
  -- events of a core
  | waitSatisfied (c : CoreId)
  | syncRelease (c : CoreId)
  | guardedReadRelease (c : CoreId)
  | egressRoom (c : CoreId)
  | guardTimeout (c : CoreId)
  | waitTimeout (c : CoreId)
  | egressTimeout (c : CoreId)
  -- bulk network, HBM queue pairs, routers, gather buffer
  | write (p : PktSource) (dst : CoreId)
  | qdata (p : PktSource) (dst : CoreId)
  | qput (p : PktSource) (ep : Nat)
  | hbmReadDone (ep : Nat)
  | hbmWriteDone (ep : Nat)
  | reduceCapture (r : CoreId) (port : Port) (src : Nat)
  | reduceCombine (r : CoreId) (rid : BitVec 4)
  | parkRelease (c : CoreId)
  | gatherFlush (c : CoreId)
  -- control network and service crossbar
  | controlAccess (m pf prow pcol : Nat) (reg : CtlReg) (op : CtlOp)
  | smRead (rq : Requester) (addr len : Nat)
  | smWrite (rq : Requester) (addr : Nat) (bytes : List Byte) (mask : Nat)
  | smCas (rq : Requester) (addr : Nat) (expect new : BitVec 64)
  | smFetchAdd (rq : Requester) (addr : Nat) (d : BitVec 64)
  | smFence (rq : Requester)
  | stagingRecord (c : CoreId)
  | coreSilent (c : CoreId)
  -- beats and holds
  | onTrackSample (edge : Nat)
  | beatEdge (edge : Nat) (cycleErr : List (Nat × Int))
  | holdRequest
  | holdComplete (mismatch : List (Nat × Nat × Nat))
  | resumeEdge (edge : Nat)
  -- tumbler cores
  | candidateRow (t : Nat) (p : PktSource)
  | candidateMissing (t slot : Nat)
  | issueRecord (t : Nat) (p : PktSource)
  | issueSlot (lead : Bool)
  | issueEntryWrite (lead : Bool) (n : Nat) (c : CoreId)
  | fetchRingWrite (lead : Bool) (m : Nat) (c : CoreId)
  | batchDeliver (pseq : Nat)
  | transmitRecord (port : Nat)
  | requestTake
  | admissionScan
  | queuedResend (e : Nat)
  | passRetire (pseq : Nat)
  | pauseImageDone (e : Nat)
  | pageReloadDone (lead : Bool) (f : Nat)
  | entryReclaimTimeout (e : Nat)
  | escalationReport
  | escalationClose (pseq : Nat)
  | selectEntryWrite (c : CoreId) (w : Nat)
  | clampScan
  -- chip links and groups
  | linkPacketSend (l : Nat) (p : PktSource)
  | linkFrame (l : Nat) (f : Frame)
  | linkDown (l : Nat)
  | linkBringupDone (l : Nat) (b : Bringup)
  | groupEdgeDecision (edge : Nat)
  | holdCompleteReport (m : Nat)
  | memberReadyReport (m : Nat) (main lead manifest : BitVec 256) (beat cadence : Nat)
  | groupFormTimeout
  | groupForm (sid : Sid) (id size member : Nat)
  | groupLeave (sid : Sid)
  | linkRestore (sid : Sid) (l : Nat)
  | linkEnable (sid : Sid) (mask : BitVec 32)
  -- loading
  | load (sid : Sid) (slot : Nat) (digest : BitVec 256) (sources : Nat) (links : BitVec 32)
  | unload (sid : Sid) (slot : Nat)
  | swap (sid : Sid)
  | drainEnd (slot : Nat)
  | modelStart (slot : Nat)
  | shardTimeout
  | fetchRangeTimeout (xid : Nat)
  | data (from_ : Path) (xid off : Nat) (bytes : List Byte)
  | notfound (from_ : Path) (xid : Nat)
  | pushAck (xid got : Nat)
  | pushRetry (xid : Nat)
  | pushTimeout (xid : Nat)
  | tableLoad (sid : Sid) (kind id len : Nat) (digest : BitVec 256)
  | tableBodyTimeout
  | pauseExport (sid : Sid) (e : Nat)
  | pauseImport (sid : Sid) (e : Nat)
  | tenantSaltSet (sid : Sid) (tenant : BitVec 16) (salt : BitVec 128)
  | prefixFlush (sid : Sid) (tenant : BitVec 16)
  | tenantLimitSet (sid : Sid) (tenant limit : BitVec 16)
  -- COL
  | colOpen (path : Path) (version : BitVec 16) (features : BitVec 64) (level : Nat)
  | colClose (rx : Rx)
  | colAck (rx : Rx)
  | colRead (rx : Rx) (tag : Nat) (entries : List ReadEntry)
  | colWrite (rx : Rx) (tag : Nat) (entries : List WriteEntry)
  | dictWrite (sid : Sid) (idx sub : Nat) (value : List Byte)
  | claim (rx : Rx) (rank : Nat)
  | heartbeat (rx : Rx)
  | handover (rx : Rx) (target : Sid)
  | release (rx : Rx)
  | unclaim (rx : Rx)
  | leaseExpiry
  | measure (rx : Rx) (nonce : BitVec 256)
  -- CSP
  | cspOpen (path : Path) (version : BitVec 16) (features : BitVec 64)
  | cspClose (rx : Rx)
  | cspAck (rx : Rx)
  | request (rx : Rx) (m : ReqMsg)
  | requestAssemblyTimeout (sid : Sid) (tag : Nat)
  | cancel (rx : Rx) (tag : Nat)
  | retransmitTimeout (csp : Bool) (sid : Sid) (seq : Nat)
  | ackTimer (csp : Bool) (sid : Sid)
  | sessionTimeout (csp : Bool) (sid : Sid)
  -- Ethernet ports
  | portDown (e : Nat)
  | portUp (e rate : Nat)
  | announce (e : Nat)
  | arpRequest (e : Nat) (target sender : BitVec 32)
  | neighborSolicitation (e : Nat) (target sender : BitVec 128)
  | echoRequest (e : Nat) (v6 : Bool) (dst src : BitVec 128) (payload : List Byte)
  | portRate (sid : Sid) (e v : Nat)
  | macsecMode (sid : Sid) (e v : Nat)
  | macsecSak (sid : Sid) (e dir an : Nat) (key : BitVec 256) (ssci : BitVec 32) (salt : BitVec 96)
  -- enrollment
  | keyEnroll (sid : Sid) (slot : Nat) (key : BitVec 544) (holdupUs : Nat)
  | keyRevoke (sid : Sid) (slot : Nat) (holdupUs : Nat)
  | enrollClose (sid : Sid)
  | enrollRelease
  | enrollWindowTimeout
  -- marionette complex
  | mailboxRequest (src dst : Nat) (req : Nat)
  | ledgerRequest (requester action : Nat) (unit arg : Nat)
  | ledgerLimit (sid : Sid) (v : BitVec 16)
  | watchdogTimeout (m : Nat)
  | mcoreTrap (m : Nat)
  | mcoreRestart (sid : Sid) (m : Nat)
  | mcoreServiceResume (m : Nat)
  | logAppend (src code sev : Nat) (payload : List Byte)
  | fwStage (sid : Sid) (off : Nat) (bytes : List Byte)
  | fwCommit (sid : Sid) (digest : BitVec 256)
  | fwCommitDone (e : FlashEvent)
  | fwConfirm (sid : Sid)
  -- starts, BIST
  | coldStart (r : ColdCause)
  | warmStart
  | start (sid : Sid) (kind : Nat)
  | startAssist (sid : Sid) (blob : List Byte)
  | assistWindowTimeout
  | fieldBist (sid : Sid) (pf force : Nat)
  | bistDone (dead : List (Nat × Nat)) (usable : Bool)
  | testEnChange (level : Bool)
  | cageModuleChange (e : Nat) (klass deciWatt : Nat)
  -- power
  | currentPublish (r : PowerReading)
  | fieldRampDone (pf : Nat)
  | stepRaiseWrite (pf : Nat)
  | stepMax (sid : Sid) (pf v : Nat)
  | inputFail (cause : Nat)
  | inputOvervoltage
  | inputLow (mv : Nat)
  | inputHigh (mv : Nat)
  | inputOvercurrent (ma : Nat)
  | converterFail (bc : Nat)
  | phaseFail (dom phase : Nat)
  | senseFault (pf rail pair : Nat)
  | catchFire (pf rail : Nat)
  | catchExhaust (pf rail : Nat)
  | catchRelease (pf : Nat)
  | railIsolated (pf cause : Nat)
  -- clocks and heat
  | diodeScan (readings : List (Nat × Int))
  | thermalTrip (sensor : Nat) (edge : Bool)
  | throttleEval
  | marginWarn (pf mon code : Nat)
  | marginCrit (pf mon code : Nat)
  | marginRelease (pf : Nat)
  | coolantRead (inlet outlet : Int) (dp : Nat)
  | coolingCheck
  | coolingBaseline (sid : Sid)
  | rainflowSample
  | rainflowLoad (sid : Sid) (counts : List Nat)
  | refLost (input : Nat)
  | refDetected (input : Nat)
  | ppsEdge (at_ : Nat)
  -- calibration
  | calRun (sid : Sid) (mask force : Nat)
  | calRestore (sid : Sid) (blob : List Byte)
  | calDone (items trims : List CalItem)
  | calIntervalExpiry
  -- performance counters
  | perfApply (sid : Sid)
  | perfSnapshot (sid : Sid) (b : Nat)
  | perfFigureRead (sid : Sid) (v : Nat)
  | sampleConfig (sid : Sid) (v : BitVec 32)
  | sampleTag (c : CoreId) (rec_ : BitVec 256)
  | sampleDrain
  | cablePresentChange (l : Nat) (present : Bool)
  | calvLost (mv : Nat)
  | tableRefetchTimeout (kind id : Nat)
  | droppedFrame (e : Nat)
  deriving DecidableEq, Repr

end Sys2Proof
end

