-- ==== Sys2Proof/Decode.lean ====
section
/-! DEFINITION. Step words (R75 to R102): the slots of a 128-bit word as commands of a core, reserved encodings refused, and the encoder of each slot.  The opcode table gives no row any bits, so no table word spells a command. -/

namespace Sys2Proof

open Sys2Proof.Machine (bits bit boolNat)

/-- The command that a word spells by the table's bits: the table gives its rows none. -/
def decodeTableWord (_nbits _w : Nat) : Option Instr := none

/-! ### Slots (R75) -/

def slotMa (w : Nat) : Nat := bits w 127 96
def slotVu (w : Nat) : Nat := bits w 95 64
def slotAp (w : Nat) : Nat := bits w 63 48
def slotDm (w : Nat) : Nat := bits w 47 16
def slotSq (w : Nat) : Nat := bits w 15 0

/-- A slot that is not a reserved encoding. -/
def keep (ok : Bool) (i : Instr) : Option Instr := if ok then some i else none

/-- The matrix-array slot (R81). -/
def decodeMa (c : CoreId) (w : Nat) : Option Instr :=
  let h := BitVec.ofNat 6 (bits w 27 22)
  let x := BitVec.ofNat 3 (bits w 21 19)
  match bits w 31 28 with
  | 0 => keep (w % 2 ^ 28 == 0) (.mnop c)
  | 1 => keep (bits w 15 0 == 0) (.mload c h x (bit w 18) (BitVec.ofNat 2 (bits w 17 16)))
  | 2 => keep (bits w 9 0 == 0) (.mmul c h x (bit w 18) (bit w 17) (bit w 16) (BitVec.ofNat 6 (bits w 15 10)))
  | 3 => keep (bits w 10 3 == 0) (.mout c h x (bit w 18) (bit w 17) (BitVec.ofNat 6 (bits w 16 11)) (BitVec.ofNat 3 (bits w 2 0)))
  | _ => none

/-- The vector slot (R86 to R89, R135).  PRED is zero in memory-form steps that do not store; the fields that a step does not name and that no rule calls zero or reserved, those of VNOP among them, are not judged (log 10). -/
def decodeVu (c : CoreId) (w : Nat) : Option Instr :=
  let v := BitVec.ofNat 4 (bits w 25 22)
  let h := BitVec.ofNat 6 (bits w 21 16)
  let x := BitVec.ofNat 3 (bits w 15 13)
  let imm := BitVec.ofNat 8 (bits w 12 5)
  let sub := BitVec.ofNat 2 (bits w 4 3)
  let pred := BitVec.ofNat 3 (bits w 2 0)
  let va := BitVec.ofNat 4 (bits w 21 18)
  let vb := BitVec.ofNat 4 (bits w 17 14)
  let vc := BitVec.ofNat 4 (bits w 13 10)
  let wd := bit w 9
  match bits w 31 26 with
  | 0x00 => some (.vnop c)
  | 0x01 => keep (bits w 2 0 == 0 && bits w 4 3 < 2) (.vld c v h x imm sub)
  | 0x02 => keep (bits w 4 3 < 2) (.vst c v h x imm sub pred)
  | 0x03 => keep (bits w 2 0 == 0) (.vlds c h x imm)
  | 0x04 => some (.vsst c h x imm pred)
  | 0x05 => keep (bits w 2 0 == 0) (.vldq c v h x imm)
  | 0x06 => some (.vqst c v h x imm sub pred)
  | 0x07 => keep (bits w 25 22 == 0 && bits w 4 0 == 0) (.vspin c h x imm)
  | 0x08 => keep (bits w 25 9 == 0 && bits w 3 0 == 0 && (bit w 4 || bits w 6 5 != 0)) (.vqend c (BitVec.ofNat 9 (bits w 8 0)))
  | 0x10 => some (.fadd c v va vb wd)
  | 0x11 => some (.fsub c v va vb wd)
  | 0x12 => some (.fmul c v va vb wd)
  | 0x13 => some (.fma c v va vb vc wd)
  | 0x14 => some (.fmax c v va vb wd)
  | 0x15 => some (.fmin c v va vb wd)
  | 0x18 => some (.fexp c v va wd)
  | 0x19 => some (.frcp c v va wd)
  | 0x1A => some (.frsq c v va wd)
  | 0x1B => some (.fsig c v va wd)
  | 0x1C => some (.vsum c v va wd)
  | 0x1D => some (.vmaxr c v va wd)
  | 0x1E => keep (bits w 8 7 == 0 && (wd || !bit w 6)) (.vbcst c v va wd (BitVec.ofNat 7 (bits w 6 0)))
  | 0x1F => some (.vtopk c v va)
  | 0x20 => some (.fcvt c v va (bit w 0))
  | _ => none

/-- The attention slot (R91).  Argument bits that a step does not name, those of ANOP among them, are not judged (log 10). -/
def decodeAp (c : CoreId) (w : Nat) : Option Instr :=
  let h := BitVec.ofNat 6 (bits w 11 6)
  let x := BitVec.ofNat 3 (bits w 5 3)
  match bits w 15 12 with
  | 0 => some (.anop c)
  | 1 => keep (bits w 11 3 == 0) (.acfg c (BitVec.ofNat 2 (bits w 1 0)))
  | 2 => some (.aqld c h x)
  | 3 => some (.arst c (bit w 0))
  | 4 => some (.apage c h x (bit w 1) (bit w 0))
  | 5 => some (.aout c h x (bit w 0))
  | 6 => some (.amrg c h x (bit w 0))
  | 7 => some (.anorm c h x (bit w 0))
  | _ => none

/-- The data-mover slot (R96, R99). -/
def decodeDm (c : CoreId) (w : Nat) : Option Instr :=
  let h := BitVec.ofNat 6 (bits w 26 21)
  let xs := BitVec.ofNat 3 (bits w 20 18)
  let d := BitVec.ofNat 6 (bits w 17 12)
  let xd := BitVec.ofNat 3 (bits w 11 9)
  let len := BitVec.ofNat 4 (bits w 8 5)
  let pred := BitVec.ofNat 3 (bits w 2 0)
  match bits w 31 27 with
  | 0 => keep (w % 2 ^ 27 == 0) (.dnop c)
  | 1 => some (.dcpy c h xs d xd (BitVec.ofNat 6 (bits w 8 3)) pred)
  | 2 => keep (bits w 4 3 == 0) (.dsend c h xs d xd len pred)
  | 3 => keep (bits w 8 3 == 0) (.dred c h xs d xd pred)
  | 4 => keep (bits w 8 3 == 0) (.dqget c h xs d xd pred)
  | 5 => keep (bits w 4 3 == 0) (.dqput c h xs d xd len pred)
  | 6 => some (.dscat c h xs d (BitVec.ofNat 6 (bits w 11 6)) (BitVec.ofNat 3 (bits w 5 3)) pred)
  | 7 => keep (bits w 4 3 == 0) (.dnw c h xs d xd (BitVec.ofNat 2 (bits w 8 7)) (BitVec.ofNat 2 (bits w 6 5)) pred)
  | 8 => keep (bits w 15 3 == 0 && bits w 17 16 != 3) (.dctr c h xs (BitVec.ofNat 2 (bits w 17 16)) pred)
  | _ => none

/-- The sequencer slot (R100, R102).  The imm5 of a sync step other than CADD is not judged (log 10). -/
def decodeSq (c : CoreId) (w : Nat) : Option Instr :=
  let ctr := BitVec.ofNat 5 (bits w 11 7)
  let v := BitVec.ofNat 7 (bits w 6 0)
  let e := BitVec.ofNat 5 (bits w 9 5)
  match bits w 15 12 with
  | 0 => keep (w % 2 ^ 12 == 0) (.nop c)
  | 1 => some (.wait c ctr v)
  | 2 => some (.cset c ctr v)
  | 3 => some (.tset c ctr v)
  | 4 => some (.tadd c ctr v)
  | 5 => keep (bits w 5 0 == 0) (.rel c (BitVec.ofNat 6 (bits w 11 6)))
  | 6 => keep (bits w 7 0 == 0) (.loop c (BitVec.ofNat 4 (bits w 11 8)))
  | 7 => some (.xset c (BitVec.ofNat 3 (bits w 11 9)) (BitVec.ofNat 9 (bits w 8 0)))
  | 8 => some (.xadd c (BitVec.ofNat 3 (bits w 11 9)) (BitVec.ofNat 9 (bits w 8 0)))
  | 9 => keep (bits w 8 0 == 0 && bits w 11 10 != 0) (.pset c (BitVec.ofNat 2 (bits w 11 10)) (bit w 9))
  | 10 =>
    match bits w 11 10 with
    | 0 => some (.arrive c e)
    | 1 => some (.bwait c e)
    | 2 => some (.cadd c e (BitVec.ofNat 5 (bits w 4 0)))
    | _ => some (.cwait c e)
  | 11 => keep (bits w 11 10 == 0) (.beat c (BitVec.ofNat 10 (bits w 9 0)))
  | 12 => keep (w % 2 ^ 12 == 0) (.done c)
  | _ => none

/-- The five steps of a word, matrix array first; none when a slot is a reserved encoding (R79). -/
def decodeWord (c : CoreId) (w : Nat) : Option (List Instr) :=
  match decodeMa c (slotMa w), decodeVu c (slotVu w), decodeAp c (slotAp w), decodeDm c (slotDm w), decodeSq c (slotSq w) with
  | some a, some b, some d, some e, some f => some [a, b, d, e, f]
  | _, _, _, _, _ => none

/-! ### The encoder -/

/-- The bits of a matrix-array step; none for any other command. -/
def encodeMa : Instr → Option Nat
  | .mnop _ => some (0)
  | .mload _ h x wb out => some (2 ^ 28 + h.toNat * 2 ^ 22 + x.toNat * 2 ^ 19 + boolNat wb * 2 ^ 18 + out.toNat * 2 ^ 16)
  | .mmul _ h x wb ab z v1 =>
    some (2 * 2 ^ 28 + h.toNat * 2 ^ 22 + x.toNat * 2 ^ 19 + boolNat wb * 2 ^ 18 + boolNat ab * 2 ^ 17 + boolNat z * 2 ^ 16 + v1.toNat * 2 ^ 10)
  | .mout _ h x ab bf v1 pred =>
    some (3 * 2 ^ 28 + h.toNat * 2 ^ 22 + x.toNat * 2 ^ 19 + boolNat ab * 2 ^ 18 + boolNat bf * 2 ^ 17 + v1.toNat * 2 ^ 11 + pred.toNat)
  | _ => none

/-- The bits of a vector memory-form step; none for any other command. -/
def encodeVuM : Instr → Option Nat
  | .vnop _ => some (0)
  | .vld _ vr h x imm sub =>
    some (1 * 2 ^ 26 + vr.toNat * 2 ^ 22 + h.toNat * 2 ^ 16 + x.toNat * 2 ^ 13 + imm.toNat * 2 ^ 5 + sub.toNat * 2 ^ 3)
  | .vst _ vr h x imm sub pred =>
    some (2 * 2 ^ 26 + vr.toNat * 2 ^ 22 + h.toNat * 2 ^ 16 + x.toNat * 2 ^ 13 + imm.toNat * 2 ^ 5 + sub.toNat * 2 ^ 3 + pred.toNat)
  | .vlds _ h x imm => some (3 * 2 ^ 26 + h.toNat * 2 ^ 16 + x.toNat * 2 ^ 13 + imm.toNat * 2 ^ 5)
  | .vsst _ h x imm pred => some (4 * 2 ^ 26 + h.toNat * 2 ^ 16 + x.toNat * 2 ^ 13 + imm.toNat * 2 ^ 5 + pred.toNat)
  | .vldq _ vr h x imm => some (5 * 2 ^ 26 + vr.toNat * 2 ^ 22 + h.toNat * 2 ^ 16 + x.toNat * 2 ^ 13 + imm.toNat * 2 ^ 5)
  | .vqst _ vr h x imm sub pred =>
    some (6 * 2 ^ 26 + vr.toNat * 2 ^ 22 + h.toNat * 2 ^ 16 + x.toNat * 2 ^ 13 + imm.toNat * 2 ^ 5 + sub.toNat * 2 ^ 3 + pred.toNat)
  | .vspin _ h x imm => some (7 * 2 ^ 26 + h.toNat * 2 ^ 16 + x.toNat * 2 ^ 13 + imm.toNat * 2 ^ 5)
  | .vqend _ imm => some (8 * 2 ^ 26 + imm.toNat)
  | _ => none

/-- The bits of a vector arithmetic step; none for any other command. -/
def encodeVuA : Instr → Option Nat
  | .fadd _ vd va vb w => some (0x10 * 2 ^ 26 + vd.toNat * 2 ^ 22 + va.toNat * 2 ^ 18 + vb.toNat * 2 ^ 14 + boolNat w * 2 ^ 9)
  | .fsub _ vd va vb w => some (0x11 * 2 ^ 26 + vd.toNat * 2 ^ 22 + va.toNat * 2 ^ 18 + vb.toNat * 2 ^ 14 + boolNat w * 2 ^ 9)
  | .fmul _ vd va vb w => some (0x12 * 2 ^ 26 + vd.toNat * 2 ^ 22 + va.toNat * 2 ^ 18 + vb.toNat * 2 ^ 14 + boolNat w * 2 ^ 9)
  | .fma _ vd va vb vc w =>
    some (0x13 * 2 ^ 26 + vd.toNat * 2 ^ 22 + va.toNat * 2 ^ 18 + vb.toNat * 2 ^ 14 + vc.toNat * 2 ^ 10 + boolNat w * 2 ^ 9)
  | .fmax _ vd va vb w => some (0x14 * 2 ^ 26 + vd.toNat * 2 ^ 22 + va.toNat * 2 ^ 18 + vb.toNat * 2 ^ 14 + boolNat w * 2 ^ 9)
  | .fmin _ vd va vb w => some (0x15 * 2 ^ 26 + vd.toNat * 2 ^ 22 + va.toNat * 2 ^ 18 + vb.toNat * 2 ^ 14 + boolNat w * 2 ^ 9)
  | .fexp _ vd va w => some (0x18 * 2 ^ 26 + vd.toNat * 2 ^ 22 + va.toNat * 2 ^ 18 + boolNat w * 2 ^ 9)
  | .frcp _ vd va w => some (0x19 * 2 ^ 26 + vd.toNat * 2 ^ 22 + va.toNat * 2 ^ 18 + boolNat w * 2 ^ 9)
  | .frsq _ vd va w => some (0x1A * 2 ^ 26 + vd.toNat * 2 ^ 22 + va.toNat * 2 ^ 18 + boolNat w * 2 ^ 9)
  | .fsig _ vd va w => some (0x1B * 2 ^ 26 + vd.toNat * 2 ^ 22 + va.toNat * 2 ^ 18 + boolNat w * 2 ^ 9)
  | .vsum _ vd va w => some (0x1C * 2 ^ 26 + vd.toNat * 2 ^ 22 + va.toNat * 2 ^ 18 + boolNat w * 2 ^ 9)
  | .vmaxr _ vd va w => some (0x1D * 2 ^ 26 + vd.toNat * 2 ^ 22 + va.toNat * 2 ^ 18 + boolNat w * 2 ^ 9)
  | .vbcst _ vd va w lane => some (0x1E * 2 ^ 26 + vd.toNat * 2 ^ 22 + va.toNat * 2 ^ 18 + boolNat w * 2 ^ 9 + lane.toNat)
  | .vtopk _ vd va => some (0x1F * 2 ^ 26 + vd.toNat * 2 ^ 22 + va.toNat * 2 ^ 18)
  | .fcvt _ vd va widen => some (0x20 * 2 ^ 26 + vd.toNat * 2 ^ 22 + va.toNat * 2 ^ 18 + boolNat widen)
  | _ => none

/-- The bits of an attention step; none for any other command. -/
def encodeAp : Instr → Option Nat
  | .anop _ => some (0)
  | .acfg _ arg => some (1 * 2 ^ 12 + arg.toNat)
  | .aqld _ h x => some (2 * 2 ^ 12 + h.toNat * 2 ^ 6 + x.toNat * 2 ^ 3)
  | .arst _ slot => some (3 * 2 ^ 12 + boolNat slot)
  | .apage _ h x causal slot => some (4 * 2 ^ 12 + h.toNat * 2 ^ 6 + x.toNat * 2 ^ 3 + boolNat causal * 2 + boolNat slot)
  | .aout _ h x slot => some (5 * 2 ^ 12 + h.toNat * 2 ^ 6 + x.toNat * 2 ^ 3 + boolNat slot)
  | .amrg _ h x slot => some (6 * 2 ^ 12 + h.toNat * 2 ^ 6 + x.toNat * 2 ^ 3 + boolNat slot)
  | .anorm _ h x slot => some (7 * 2 ^ 12 + h.toNat * 2 ^ 6 + x.toNat * 2 ^ 3 + boolNat slot)
  | _ => none

/-- The bits of a data-mover step; none for any other command. -/
def encodeDm : Instr → Option Nat
  | .dnop _ => some (0)
  | .dcpy _ hs xs hd xd n1 pred =>
    some (1 * 2 ^ 27 + hs.toNat * 2 ^ 21 + xs.toNat * 2 ^ 18 + hd.toNat * 2 ^ 12 + xd.toNat * 2 ^ 9 + n1.toNat * 2 ^ 3 + pred.toNat)
  | .dsend _ hs xs route xd len pred =>
    some (2 * 2 ^ 27 + hs.toNat * 2 ^ 21 + xs.toNat * 2 ^ 18 + route.toNat * 2 ^ 12 + xd.toNat * 2 ^ 9 + len.toNat * 2 ^ 5 + pred.toNat)
  | .dred _ hs xs route xd pred =>
    some (3 * 2 ^ 27 + hs.toNat * 2 ^ 21 + xs.toNat * 2 ^ 18 + route.toNat * 2 ^ 12 + xd.toNat * 2 ^ 9 + pred.toNat)
  | .dqget _ hs xs route xd pred =>
    some (4 * 2 ^ 27 + hs.toNat * 2 ^ 21 + xs.toNat * 2 ^ 18 + route.toNat * 2 ^ 12 + xd.toNat * 2 ^ 9 + pred.toNat)
  | .dqput _ hs xs route xd len pred =>
    some (5 * 2 ^ 27 + hs.toNat * 2 ^ 21 + xs.toNat * 2 ^ 18 + route.toNat * 2 ^ 12 + xd.toNat * 2 ^ 9 + len.toNat * 2 ^ 5 + pred.toNat)
  | .dscat _ hs xs route hi xi pred =>
    some (6 * 2 ^ 27 + hs.toNat * 2 ^ 21 + xs.toNat * 2 ^ 18 + route.toNat * 2 ^ 12 + hi.toNat * 2 ^ 6 + xi.toNat * 2 ^ 3 + pred.toNat)
  | .dnw _ hs xs hd xd a b pred =>
    some (7 * 2 ^ 27 + hs.toNat * 2 ^ 21 + xs.toNat * 2 ^ 18 + hd.toNat * 2 ^ 12 + xd.toNat * 2 ^ 9 + a.toNat * 2 ^ 7 + b.toNat * 2 ^ 5 + pred.toNat)
  | .dctr _ h x sel pred => some (8 * 2 ^ 27 + h.toNat * 2 ^ 21 + x.toNat * 2 ^ 18 + sel.toNat * 2 ^ 16 + pred.toNat)
  | _ => none

/-- The bits of a sequencer step; none for any other command. -/
def encodeSq : Instr → Option Nat
  | .nop _ => some (0)
  | .wait _ ctr inc => some (1 * 2 ^ 12 + ctr.toNat * 2 ^ 7 + inc.toNat)
  | .cset _ ctr v => some (2 * 2 ^ 12 + ctr.toNat * 2 ^ 7 + v.toNat)
  | .tset _ ctr v => some (3 * 2 ^ 12 + ctr.toNat * 2 ^ 7 + v.toNat)
  | .tadd _ ctr v => some (4 * 2 ^ 12 + ctr.toNat * 2 ^ 7 + v.toNat)
  | .rel _ h => some (5 * 2 ^ 12 + h.toNat * 2 ^ 6)
  | .loop _ d => some (6 * 2 ^ 12 + d.toNat * 2 ^ 8)
  | .xset _ x v => some (7 * 2 ^ 12 + x.toNat * 2 ^ 9 + v.toNat)
  | .xadd _ x v => some (8 * 2 ^ 12 + x.toNat * 2 ^ 9 + v.toNat)
  | .pset _ p v => some (9 * 2 ^ 12 + p.toNat * 2 ^ 10 + boolNat v * 2 ^ 9)
  | .arrive _ e => some (10 * 2 ^ 12 + e.toNat * 2 ^ 5)
  | .bwait _ e => some (10 * 2 ^ 12 + 1 * 2 ^ 10 + e.toNat * 2 ^ 5)
  | .cadd _ e imm => some (10 * 2 ^ 12 + 2 * 2 ^ 10 + e.toNat * 2 ^ 5 + imm.toNat)
  | .cwait _ e => some (10 * 2 ^ 12 + 3 * 2 ^ 10 + e.toNat * 2 ^ 5)
  | .beat _ n => some (11 * 2 ^ 12 + n.toNat)
  | .done _ => some (12 * 2 ^ 12)
  | _ => none

/-- The slot a step stands in (0 matrix array to 4 sequencer) and its bits; none for a command that is no step of a figure. -/
def encodeSlot (i : Instr) : Option (Nat × Nat) :=
  match encodeMa i with
  | some w => some (0, w)
  | none =>
    match encodeVuM i with
    | some w => some (1, w)
    | none =>
      match encodeVuA i with
      | some w => some (1, w)
      | none =>
        match encodeAp i with
        | some w => some (2, w)
        | none =>
          match encodeDm i with
          | some w => some (3, w)
          | none => (encodeSq i).map fun w => (4, w)

/-- The step that stands in a slot of a word. -/
def decodeSlot (c : CoreId) (slot w : Nat) : Option Instr :=
  match slot with
  | 0 => decodeMa c w
  | 1 => decodeVu c w
  | 2 => decodeAp c w
  | 3 => decodeDm c w
  | 4 => decodeSq c w
  | _ => none

end Sys2Proof
end

