-- ==== Sys2Proof/Machine/Float.lean ====
section
/-! DEFINITION. FP32 and BF16 arithmetic (R88, R112): exact dyadic and rational values, one rounding to nearest-even, subnormals kept, canonical NaN. -/

namespace Sys2Proof.Machine

/-- A binary interchange format: width, significand bits below the hidden one. -/
structure Fmt where
  exp : Nat
  man : Nat
  deriving DecidableEq, Repr

/-- IEEE 754 binary32. -/
def Fmt.fp32 : Fmt := ⟨8, 23⟩
/-- BF16: bits [31:16] of a binary32 (R112). -/
def Fmt.bf16 : Fmt := ⟨8, 7⟩
def Fmt.bias (f : Fmt) : Nat := 2 ^ (f.exp - 1) - 1
def Fmt.width (f : Fmt) : Nat := 1 + f.exp + f.man
/-- The exponent of the least significant bit of a subnormal. -/
def Fmt.emin (f : Fmt) : Int := 1 - (f.bias : Int) - (f.man : Int)

/-- A decoded value: NaN, an infinity, or (-1)^neg * m * 2^e. -/
inductive FVal where
  | nan
  | inf (neg : Bool)
  | fin (neg : Bool) (m : Nat) (e : Int)
  deriving DecidableEq, Repr

/-- Decodes a bit pattern. -/
def Fmt.decode (f : Fmt) (b : Nat) : FVal :=
  let neg := b / 2 ^ (f.exp + f.man) % 2 == 1
  let e := b / 2 ^ f.man % 2 ^ f.exp
  let m := b % 2 ^ f.man
  if e == 2 ^ f.exp - 1 then (if m == 0 then .inf neg else .nan)
  else if e == 0 then .fin neg m f.emin
  else .fin neg (m + 2 ^ f.man) (f.emin + ((e : Int) - 1))

/-- The canonical NaN: 0x7FC0_0000 in FP32, 0x7FC0 in BF16 (R88). -/
def Fmt.qnan (f : Fmt) : Nat := (2 ^ f.exp - 1) * 2 ^ f.man + 2 ^ (f.man - 1)
def Fmt.infBits (f : Fmt) (neg : Bool) : Nat :=
  (if neg then 2 ^ (f.exp + f.man) else 0) + (2 ^ f.exp - 1) * 2 ^ f.man
def Fmt.signBit (f : Fmt) (neg : Bool) : Nat := if neg then 2 ^ (f.exp + f.man) else 0

/-- Integer division rounded to nearest, ties to even. -/
def divRne (n d : Nat) : Nat :=
  let q := n / d
  let r := n % d
  if 2 * r > d || (2 * r == d && q % 2 == 1) then q + 1 else q

/-- Floor of log2 of a positive rational n/d. -/
def ratLog2 (n d : Nat) : Int :=
  let k : Int := (Nat.log2 n : Int) - (Nat.log2 d : Int)
  -- 2^k <= n/d or not
  let le : Bool := if k ≥ 0 then d * 2 ^ k.toNat ≤ n else d ≤ n * 2 ^ (-k).toNat
  if le then k else k - 1

/-- Rounds the magnitude (n/d) * 2^e to the format, nearest-even, subnormals kept; past the largest finite value it is an infinity. -/
def Fmt.roundMag (f : Fmt) (n d : Nat) (e : Int) : Nat :=
  if n == 0 then 0 else
  let l := ratLog2 n d + e
  -- exponent of the result's least significant bit
  let q : Int := max f.emin (l - (f.man : Int))
  let s := e - q
  let m := if s ≥ 0 then divRne (n * 2 ^ s.toNat) d else divRne n (d * 2 ^ (-s).toNat)
  -- the hidden bit carries into the exponent by itself
  let biased : Nat := (q - f.emin).toNat
  let bits := biased * 2 ^ f.man + m
  if bits ≥ (2 ^ f.exp - 1) * 2 ^ f.man then (2 ^ f.exp - 1) * 2 ^ f.man else bits

def Fmt.round (f : Fmt) (neg : Bool) (n d : Nat) (e : Int) : Nat :=
  f.signBit neg + f.roundMag n d e

/-- Encodes a signed dyadic number; zero is written with the sign given. -/
def Fmt.ofInt (f : Fmt) (zeroNeg : Bool) (m : Int) (e : Int) : Nat :=
  if m == 0 then f.signBit zeroNeg else f.round (m < 0) m.natAbs 1 e

def sgn (neg : Bool) (m : Nat) : Int := if neg then -(m : Int) else (m : Int)

/-- The exact sum of two dyadic numbers on the smaller exponent. -/
def addDyadic (m1 : Int) (e1 : Int) (m2 : Int) (e2 : Int) : Int × Int :=
  let e := min e1 e2
  (m1 * 2 ^ (e1 - e).toNat + m2 * 2 ^ (e2 - e).toNat, e)

/-- Addition with one rounding (R88); opposite infinities give NaN; an exact zero is +0 unless both terms are -0. -/
def Fmt.addV (f : Fmt) : FVal → FVal → Nat
  | .nan, _ => f.qnan
  | _, .nan => f.qnan
  | .inf a, .inf b => if a == b then f.infBits a else f.qnan
  | .inf a, _ => f.infBits a
  | _, .inf b => f.infBits b
  | .fin a m e, .fin b n g =>
    let r := addDyadic (sgn a m) e (sgn b n) g
    f.ofInt (m == 0 && n == 0 && a && b) r.1 r.2

def FVal.neg : FVal → FVal
  | .nan => .nan
  | .inf a => .inf (!a)
  | .fin a m e => .fin (!a) m e

/-- The exact product. -/
def FVal.mul : FVal → FVal → FVal
  | .nan, _ => .nan
  | _, .nan => .nan
  | .inf a, .inf b => .inf (a != b)
  | .inf a, .fin b n _ => if n == 0 then .nan else .inf (a != b)
  | .fin a m _, .inf b => if m == 0 then .nan else .inf (a != b)
  | .fin a m e, .fin b n g => .fin (a != b) (m * n) (e + g)

/-- Rounds an exact value into the format. -/
def Fmt.ofVal (f : Fmt) : FVal → Nat
  | .nan => f.qnan
  | .inf a => f.infBits a
  | .fin a m e => f.round a m 1 e

def Fmt.add (f : Fmt) (a b : Nat) : Nat := f.addV (f.decode a) (f.decode b)
def Fmt.sub (f : Fmt) (a b : Nat) : Nat := f.addV (f.decode a) (f.decode b).neg
def Fmt.mul (f : Fmt) (a b : Nat) : Nat := f.ofVal ((f.decode a).mul (f.decode b))
/-- a * b + c with one rounding (R87, FMA). -/
def Fmt.fma (f : Fmt) (a b c : Nat) : Nat := f.addV ((f.decode a).mul (f.decode b)) (f.decode c)

/-- Correctly rounded division (R151, R247). -/
def Fmt.div (f : Fmt) (a b : Nat) : Nat :=
  match f.decode a, f.decode b with
  | .nan, _ => f.qnan
  | _, .nan => f.qnan
  | .inf _, .inf _ => f.qnan
  | .inf x, .fin y _ _ => f.infBits (x != y)
  | .fin x _ _, .inf y => f.signBit (x != y)
  | .fin x m e, .fin y n g =>
    if n == 0 then (if m == 0 then f.qnan else f.infBits (x != y))
    else f.round (x != y) m n (e - g)

/-- A total order on the values: NaN below minus infinity, -0 below +0 (R88: VMAXR, VTOPK; R244). -/
def Fmt.orderKey (f : Fmt) (b : Nat) : Int :=
  match f.decode b with
  | .nan => -(2 ^ (f.width + 1) : Nat)
  | _ =>
    let mag := b % 2 ^ (f.exp + f.man)
    if b / 2 ^ (f.exp + f.man) % 2 == 1 then -(mag : Int) - 1 else (mag : Int)

def Fmt.isNan (f : Fmt) (b : Nat) : Bool := f.decode b == .nan

/-- FMAX: -0 below +0, canonical NaN if either is NaN (R88, R33). -/
def Fmt.max (f : Fmt) (a b : Nat) : Nat :=
  if f.isNan a || f.isNan b then f.qnan else if f.orderKey a ≥ f.orderKey b then a else b
/-- FMIN, likewise. -/
def Fmt.min (f : Fmt) (a b : Nat) : Nat :=
  if f.isNan a || f.isNan b then f.qnan else if f.orderKey a ≤ f.orderKey b then a else b
/-- The larger of two under the order of VMAXR, NaN least (R88); a NaN result is canonical. -/
def Fmt.maxTotal (f : Fmt) (a b : Nat) : Nat :=
  let r := if f.orderKey a ≥ f.orderKey b then a else b
  if f.isNan r then f.qnan else r

/-- Widening BF16 to FP32 is exact: BF16 is bits [31:16] of an FP32 value (R112). -/
def widen (b : Nat) : Nat := b % 65536 * 65536
/-- Widening as a step of the vector unit, whose NaN results are canonical (R88). -/
def widenLane (b : Nat) : Nat := if Fmt.bf16.isNan b then Fmt.fp32.qnan else widen b

/-- Narrowing FP32 to BF16 (R112): the result, and whether a finite value was clamped to the largest finite one. -/
def narrow (b : Nat) : Nat × Bool :=
  match Fmt.fp32.decode b with
  | .nan => (Fmt.bf16.qnan, false)
  | .inf a => (Fmt.bf16.infBits a, false)
  | .fin a m e =>
    let r := Fmt.bf16.roundMag m 1 e
    if r == 0x7F80 then (Fmt.bf16.signBit a + 0x7F7F, true) else (Fmt.bf16.signBit a + r, false)

/-! ### The functions of R88: within one unit in the last place of the exact result -/

/-- A positive or negative rational approximation num/den of an exact result, den > 0. -/
structure Approx where
  neg : Bool
  num : Nat
  den : Nat
  deriving DecidableEq, Repr

/-- Whether the finite value v lies within one unit in the last place of the exact result x. -/
def Fmt.withinUlp (f : Fmt) (v : Nat) (x : Approx) : Bool :=
  match f.decode v with
  | .fin neg m e =>
    let q : Int := if x.num == 0 then f.emin else Max.max f.emin (ratLog2 x.num x.den - (f.man : Int))
    -- |v - x| <= 2^q, scaled by den * 2^k
    let k : Int := Max.max 0 (Max.max (-e) (-q))
    let lhs := (sgn neg m * 2 ^ (e + k).toNat * (x.den : Int) - sgn x.neg x.num * 2 ^ k.toNat).natAbs
    lhs ≤ 2 ^ (q + k).toNat * x.den
  | _ => false

/-- The value the device's fixed function gives: any value within one unit in the last place, else the correctly rounded result. -/
def Fmt.bounded (f : Fmt) (free : Nat) (x : Approx) : Nat :=
  if f.withinUlp free x then free else f.round x.neg x.num x.den 0

/-- Where the spec states no result the value is free; a NaN is the canonical one (R88). -/
def Fmt.unstated (f : Fmt) (free : Nat) : Nat := if f.isNan free then f.qnan else free % 2 ^ f.width

/-- The fixed-point scale of the exponential: 2^200. -/
def expScale : Nat := 2 ^ 200
/-- ln 2 scaled by 2^200, from the series of 2 atanh (1/3). -/
def ln2Fix : Nat :=
  (List.range 70).foldl (fun acc k => acc + 2 * expScale / (3 ^ (2 * k + 1) * (2 * k + 1))) 0

/-- e^r for 0 <= r < 1, r = a / 2^200, by its power series, scaled by 2^200. -/
def expSeries (a : Nat) : Nat :=
  ((List.range 60).foldl (fun (st : Nat × Nat) k => (st.1 + st.2, st.2 * a / expScale / (k + 1))) (0, expScale)).1

/-- An approximation of e^x with a relative error far below one unit of FP32; none where x is so large or small that the result rounds to infinity or zero. -/
def expApprox (neg : Bool) (m : Nat) (e : Int) : Approx :=
  -- a = |x| in fixed point, capped at 2^11
  let a0 := if e ≥ 0 then m * 2 ^ e.toNat * expScale else m * expScale / 2 ^ (-e).toNat
  let a := min a0 (2048 * expScale)
  let k := a / ln2Fix
  let r := a % ln2Fix
  let p := expSeries r
  if neg then ⟨false, expScale, p * 2 ^ k⟩ else ⟨false, p * 2 ^ k, expScale⟩

/-- 1 / (1 + e^-x). -/
def sigApprox (neg : Bool) (m : Nat) (e : Int) : Approx :=
  let x := expApprox (!neg) m e
  ⟨false, x.den, x.den + x.num⟩

/-- FEXP: e^0 is 1, e^(-infinity) is +0 (R150); e^(+infinity) is not stated. -/
def Fmt.expF (f : Fmt) (free : Nat) (x : Nat) : Nat :=
  match f.decode x with
  | .nan => f.qnan
  | .inf true => 0
  | .inf false => f.unstated free
  | .fin neg m e => f.bounded free (if m == 0 then ⟨false, 1, 1⟩ else expApprox neg m e)

/-- FRCP: 1/x of a finite nonzero x; the result for a zero or an infinity is not stated. -/
def Fmt.rcpF (f : Fmt) (free : Nat) (x : Nat) : Nat :=
  match f.decode x with
  | .nan => f.qnan
  | .inf _ => f.unstated free
  | .fin neg m e =>
    if m == 0 then f.unstated free
    else f.bounded free (if e ≥ 0 then ⟨neg, 1, m * 2 ^ e.toNat⟩ else ⟨neg, 2 ^ (-e).toNat, m⟩)

/-- FRSQ: 1/sqrt x of a finite positive x; for a zero, a negative number or an infinity no result is stated. -/
def Fmt.rsqF (f : Fmt) (free : Nat) (x : Nat) : Nat :=
  match f.decode x with
  | .nan => f.qnan
  | .inf _ => f.unstated free
  | .fin neg m e =>
    if m == 0 || neg then f.unstated free
    else
      -- x = m * 2^e; 1/sqrt x = 2^200 / sqrt (m * 2^(e + 400)), e + 400 > 0 for both formats
      f.bounded free ⟨false, expScale, Nat.sqrt (m * 2 ^ (e + 400).toNat)⟩

/-- FSIG: 1/(1 + e^-x) of a finite x; for an infinity no result is stated. -/
def Fmt.sigF (f : Fmt) (free : Nat) (x : Nat) : Nat :=
  match f.decode x with
  | .nan => f.qnan
  | .inf _ => f.unstated free
  | .fin neg m e => f.bounded free (if m == 0 then ⟨false, 1, 2⟩ else sigApprox neg m e)

/-- E(x) of R150 and R247: the function FEXP computes on FP32. -/
def fexp32 (x : Nat) : Nat := Fmt.fp32.expF (Config.fexp32 (BitVec.ofNat 32 x)).toNat x

/-- The exact sum of values, rounded once (R125): canonical NaN for a NaN or opposite infinities, an exact zero is +0. -/
def Fmt.sumOnce (f : Fmt) (vs : List FVal) : Nat :=
  if vs.any (· == .nan) then f.qnan
  else if vs.any (· == .inf true) && vs.any (· == .inf false) then f.qnan
  else if vs.any (· == .inf true) then f.infBits true
  else if vs.any (· == .inf false) then f.infBits false
  else
    let r := vs.foldl (fun (acc : Int × Int) v =>
      match v with
      | .fin neg m e => addDyadic acc.1 acc.2 (sgn neg m) e
      | _ => acc) (0, 0)
    f.ofInt false r.1 r.2

end Sys2Proof.Machine
end

