-- ==== Sys2Proof/Machine/DictTable.lean ====
section
/-! DEFINITION. The object dictionary (R12 to R14): every entry the chapters list, with its type, access and the columns Default, Cold and Warm. -/

namespace Sys2Proof.Machine

/-- The type of an entry (R12, R294): a number, an array of numbers (sub 0 is its element count), bytes, text, or a command. -/
inductive RegKind where
  | num | arr | blob | str | cmd
  deriving DecidableEq, Repr

/-- Access (R14): read only, read and owner-write, read and any-write, owner command. -/
inductive RegAccess where
  | ro | rwo | rwa | cmd
  deriving DecidableEq, Repr

/-- What a start does to an entry: keeps it, sets it, or gives it the value that a step of the start finds (Sampled, Built, Tested, Counting, Measured, From flash). -/
inductive RegCol where
  | keep
  | to (v : Nat)
  | found
  deriving DecidableEq, Repr

/-- One entry: index, kind, bytes of one element, elements, access, default of every element, and the Cold and Warm columns. -/
structure RegRow where
  idx : Nat
  kind : RegKind
  bytes : Nat
  count : Nat
  access : RegAccess
  dflt : Nat
  cold : RegCol
  warm : RegCol
  deriving DecidableEq, Repr


/-- The entries 0x1000 to 0x1FFF, in index order. -/
def dictRows1 : List RegRow := [
  ⟨0x1000, .str, 0, 0, .ro, 0, .keep, .keep⟩, -- VENDOR
  ⟨0x1001, .str, 0, 0, .ro, 0, .keep, .keep⟩, -- PRODUCT
  ⟨0x1002, .num, 1, 1, .ro, 0, .keep, .keep⟩, -- STEPPING
  ⟨0x1003, .num, 4, 1, .ro, 0, .keep, .keep⟩, -- FW_VERSION
  ⟨0x1004, .num, 2, 1, .ro, 256, .to 256, .to 256⟩, -- PROTO_VERSION
  ⟨0x1010, .arr, 1, 15, .ro, 0, .keep, .keep⟩, -- NATIVE_LATENCY
  ⟨0x1011, .arr, 1, 15, .ro, 0, .to 0, .to 0⟩, -- LATENCY_PIN_MAIN
  ⟨0x1012, .arr, 1, 15, .ro, 0, .to 0, .to 0⟩, -- LATENCY_PIN_LEAD
  ⟨0x1020, .num, 2, 1, .ro, 0, .found, .found⟩, -- MODULE_INPUTS
  ⟨0x1021, .num, 4, 1, .ro, 0, .found, .found⟩, -- LINK_CABLE_PRESENT
  ⟨0x1022, .arr, 1, 2, .ro, 255, .found, .found⟩, -- PORT_MODULE_CLASS
  ⟨0x1100, .num, 8, 1, .ro, 511, .keep, .keep⟩, -- FEATURES_DEVICE
  ⟨0x1101, .num, 8, 1, .ro, 0, .keep, .keep⟩, -- FEATURES_SESSION
  ⟨0x1200, .num, 4, 1, .ro, 0, .to 0, .to 0⟩, -- OWNER_SID
  ⟨0x1201, .num, 1, 1, .ro, 255, .to 255, .to 255⟩, -- OWNER_RANK
  ⟨0x1202, .num, 2, 1, .ro, 0, .to 0, .to 0⟩, -- LEASE_REMAINING_MS
  ⟨0x1203, .num, 1, 1, .ro, 0, .to 0, .to 0⟩, -- CLAIMS_PENDING
  ⟨0x1204, .num, 8, 1, .ro, 0, .to 0, .keep⟩, -- OWNER_CHANGES_TOTAL
  ⟨0x1300, .num, 1, 1, .ro, 0, .found, .to 0⟩, -- ENROLL_WINDOW
  ⟨0x1301, .cmd, 0, 0, .cmd, 0, .to 0, .to 0⟩, -- KEY_ENROLL
  ⟨0x1302, .cmd, 0, 0, .cmd, 0, .to 0, .to 0⟩, -- KEY_REVOKE
  ⟨0x1303, .cmd, 0, 0, .cmd, 0, .to 0, .to 0⟩, -- ENROLL_CLOSE
  ⟨0x1304, .arr, 8, 16, .ro, 0, .found, .keep⟩, -- KEY_DIGESTS
  ⟨0x1400, .arr, 1, 2, .ro, 0, .to 0, .keep⟩, -- PORT_LINK
  ⟨0x1401, .arr, 1, 2, .rwo, 0, .to 0, .keep⟩, -- PORT_RATE
  ⟨0x1402, .arr, 8, 2, .rwo, 0, .found, .keep⟩, -- PORT_MAC
  ⟨0x1403, .arr, 2, 2, .rwo, 0, .to 0, .keep⟩, -- PORT_VLAN
  ⟨0x1404, .arr, 4, 2, .rwo, 0, .to 0, .keep⟩, -- PORT_IPV4
  ⟨0x1405, .arr, 1, 2, .rwo, 0, .to 0, .keep⟩, -- PORT_IPV4_PREFIX
  ⟨0x1406, .blob, 0, 0, .rwo, 0, .to 0, .keep⟩, -- PORT_IPV6
  ⟨0x1407, .num, 2, 1, .rwo, 9000, .to 9000, .keep⟩, -- MTU
  ⟨0x1408, .num, 2, 1, .rwo, 5000, .to 5000, .keep⟩, -- SESSION_TIMEOUT_MS
  ⟨0x1409, .blob, 0, 0, .rwo, 0, .to 0, .keep⟩, -- IMAGE_SOURCE
  ⟨0x1410, .arr, 1, 2, .rwo, 0, .to 0, .keep⟩, -- MACSEC_MODE
  ⟨0x1411, .cmd, 0, 0, .cmd, 0, .to 0, .to 0⟩, -- MACSEC_SAK
  ⟨0x1420, .arr, 8, 2, .ro, 0, .to 0, .keep⟩, -- RX_DROPS_TOTAL
  ⟨0x1421, .arr, 2, 2, .ro, 0, .to 0, .to 0⟩, -- SESSIONS_OPEN
  ⟨0x1422, .num, 8, 1, .ro, 0, .to 0, .keep⟩ ] -- PATH_SWITCHES_TOTAL

/-- The entries 0x2000 to 0x2FFF, in index order. -/
def dictRows2 : List RegRow := [
  ⟨0x2000, .num, 2, 1, .rwo, 520, .to 520, .keep⟩, -- LEDGER_LIMIT
  ⟨0x2001, .num, 4, 1, .ro, 0, .found, .found⟩, -- LEDGER_CAPACITY
  ⟨0x2002, .num, 4, 1, .ro, 0, .found, .found⟩, -- LEDGER_GRANTED
  ⟨0x2003, .num, 4, 1, .ro, 0, .to 0, .to 0⟩, -- LEDGER_RESERVED
  ⟨0x2004, .num, 8, 1, .ro, 0, .to 0, .keep⟩, -- LEDGER_REFUSALS_TOTAL
  ⟨0x2005, .num, 4, 1, .ro, 0, .found, .found⟩, -- INPUT_VOLTAGE
  ⟨0x2006, .num, 4, 1, .ro, 0, .found, .found⟩, -- INPUT_CURRENT
  ⟨0x2007, .num, 8, 1, .ro, 0, .to 0, .keep⟩, -- OVERDRAW_TOTAL
  ⟨0x2008, .arr, 1, 24, .ro, 1, .found, .keep⟩, -- CONVERTER_STATE
  ⟨0x2009, .arr, 4, 23, .ro, 0, .found, .found⟩, -- SEGMENT_CURRENT
  ⟨0x200A, .arr, 1, 220, .ro, 0, .found, .found⟩, -- DOMAIN_STATE
  ⟨0x200B, .arr, 1, 176, .ro, 12, .found, .keep⟩, -- PHASES_WORKING
  ⟨0x200C, .arr, 1, 88, .ro, 0, .found, .keep⟩, -- FIELD_STEP_CAP
  ⟨0x200D, .arr, 4, 88, .ro, 0, .to 0, .keep⟩, -- CATCH_FIRINGS
  ⟨0x200E, .arr, 1, 24, .ro, 0, .to 0, .to 0⟩, -- HBM_CLASS
  ⟨0x200F, .arr, 2, 7, .ro, 0, .keep, .keep⟩, -- VSET_MV
  ⟨0x2100, .num, 4, 1, .ro, 0, .found, .found⟩ ] -- DOMAIN_CURRENT

/-- The entries 0x3000 to 0x3FFF, in index order. -/
def dictRows3 : List RegRow := [
  ⟨0x3000, .num, 1, 1, .ro, 0, .found, .keep⟩, -- TIME_SOURCE
  ⟨0x3001, .num, 8, 1, .ro, 0, .found, .keep⟩, -- WAFER_TIME_NS
  ⟨0x3002, .num, 8, 1, .ro, 0, .found, .keep⟩, -- BEAT_NUMBER
  ⟨0x3003, .num, 2, 1, .ro, 1000, .to 1000, .to 1000⟩, -- BEAT_PERIOD_NS
  ⟨0x3004, .num, 4, 1, .ro, 0, .found, .keep⟩, -- PPS_OFFSET_NS
  ⟨0x3005, .arr, 1, 88, .ro, 6, .found, .found⟩, -- FIELD_STEP
  ⟨0x3006, .arr, 4, 88, .ro, 0, .found, .found⟩, -- FIELD_STEP_LIMITS
  ⟨0x3007, .arr, 1, 88, .rwo, 0, .to 0, .keep⟩, -- STEP_MAX
  ⟨0x3008, .arr, 4, 88, .ro, 0, .to 0, .keep⟩, -- MARGIN_WARNINGS
  ⟨0x3009, .num, 8, 1, .ro, 0, .to 0, .keep⟩, -- STEP_CHANGES_TOTAL
  ⟨0x300A, .num, 8, 1, .ro, 0, .to 0, .keep⟩, -- REF_LOSSES_TOTAL
  ⟨0x3040, .num, 8, 1, .ro, 0, .to 0, .keep⟩, -- BEATS_TAKEN_TOTAL
  ⟨0x3041, .num, 8, 1, .ro, 0, .to 0, .keep⟩, -- BEAT_SLIPS_TOTAL
  ⟨0x3042, .num, 8, 1, .ro, 0, .to 0, .keep⟩, -- BEAT_OVERRUNS_TOTAL
  ⟨0x3043, .num, 8, 1, .ro, 0, .to 0, .keep⟩, -- HOLD_BEATS_TOTAL
  ⟨0x3044, .arr, 4, 88, .ro, 0, .to 0, .keep⟩, -- FIELD_SLIPS
  ⟨0x3045, .arr, 4, 88, .ro, 0, .to 0, .keep⟩, -- FIELD_OVERRUNS
  ⟨0x3046, .num, 8, 1, .ro, 0, .to 0, .keep⟩, -- SLIP_LAST
  ⟨0x3047, .num, 8, 1, .ro, 0, .to 0, .keep⟩, -- REMOTE_SLIPS_TOTAL
  ⟨0x3800, .arr, 4, 88, .ro, 0, .found, .found⟩, -- FIELD_TEMP_C
  ⟨0x3801, .arr, 4, 44, .ro, 0, .found, .found⟩, -- EDGE_TEMP_C
  ⟨0x3802, .num, 1, 1, .rwo, 100, .to 100, .keep⟩, -- THROTTLE_C
  ⟨0x3803, .arr, 1, 352, .ro, 0, .to 0, .keep⟩, -- SENSOR_STATE
  ⟨0x3804, .num, 8, 1, .ro, 0, .to 0, .keep⟩, -- THERMAL_TRIPS_TOTAL
  ⟨0x3805, .num, 8, 1, .ro, 0, .to 0, .keep⟩, -- THROTTLE_EVENTS_TOTAL
  ⟨0x3810, .arr, 4, 1408, .ro, 0, .to 0, .keep⟩, -- FIELD_RAINFLOW
  ⟨0x3811, .cmd, 0, 0, .cmd, 0, .to 0, .to 0⟩, -- RAINFLOW_LOAD
  ⟨0x3880, .num, 4, 1, .ro, 0, .found, .found⟩, -- COOLANT_INLET_C
  ⟨0x3881, .num, 4, 1, .ro, 0, .found, .found⟩, -- COOLANT_OUTLET_C
  ⟨0x3882, .num, 4, 1, .ro, 0, .found, .found⟩, -- COOLANT_DP_KPA
  ⟨0x3883, .num, 4, 1, .ro, 0, .found, .found⟩, -- COOLANT_FLOW_LPM
  ⟨0x3884, .num, 4, 1, .rwo, 0x40f7df3b, .to 0x40F7DF3B, .keep⟩, -- COOLANT_FLOW_K
  ⟨0x3890, .num, 2, 1, .ro, 0, .to 0, .found⟩, -- COOLING_STATE
  ⟨0x3891, .num, 4, 1, .ro, 0, .to 0, .found⟩, -- RTH_MODULE
  ⟨0x3892, .num, 4, 1, .rwo, 0, .to 0, .keep⟩, -- RTH_BASELINE
  ⟨0x3893, .cmd, 0, 0, .cmd, 0, .to 0, .to 0⟩, -- COOLING_BASELINE
  ⟨0x3894, .arr, 4, 88, .ro, 0, .to 0, .keep⟩ ] -- FIELD_THETA

/-- The entries 0x4000 to 0x4FFF, in index order. -/
def dictRows4 : List RegRow := [
  ⟨0x4000, .num, 1, 1, .ro, 0, .found, .found⟩, -- HEALTH_STATE
  ⟨0x4001, .num, 1, 1, .ro, 0, .found, .to 2⟩, -- START_KIND
  ⟨0x4002, .num, 1, 1, .ro, 0, .found, .found⟩, -- START_STEP
  ⟨0x4003, .num, 4, 1, .ro, 0, .found, .found⟩, -- START_DURATION_MS
  ⟨0x4004, .cmd, 0, 0, .cmd, 0, .to 0, .to 0⟩, -- START
  ⟨0x4005, .cmd, 0, 0, .cmd, 0, .to 0, .to 0⟩, -- START_ASSIST
  ⟨0x4006, .blob, 0, 0, .ro, 0, .found, .keep⟩, -- REPAIR_MAP
  ⟨0x4007, .arr, 1, 80, .ro, 255, .found, .keep⟩, -- FIELD_MAP
  ⟨0x4008, .arr, 1, 80, .ro, 0, .found, .keep⟩, -- ROW_SPARES_FREE
  ⟨0x4009, .arr, 1, 80, .ro, 0, .found, .keep⟩, -- COL_SPARES_FREE
  ⟨0x400A, .arr, 1, 8, .ro, 0, .found, .keep⟩, -- SPARE_FIELD_FREE
  ⟨0x400B, .arr, 4, 3, .ro, 0, .to 0, .keep⟩, -- REPAIRS_TOTAL
  ⟨0x400C, .num, 8, 1, .ro, 0, .to 0, .keep⟩, -- VOIDS_TOTAL
  ⟨0x400D, .num, 8, 1, .ro, 0, .to 0, .keep⟩, -- PASSES_REISSUED_TOTAL
  ⟨0x400E, .num, 4, 1, .ro, 0, .to 0, .keep⟩, -- POSITIONS_FENCED_TOTAL
  ⟨0x400F, .num, 8, 1, .ro, 0, .to 0, .keep⟩, -- HOLD_LAST
  ⟨0x4010, .cmd, 0, 0, .cmd, 0, .to 0, .to 0⟩, -- FIELD_BIST
  ⟨0x4011, .num, 8, 1, .ro, 0, .to 0, .to 0⟩, -- BIST_RESULT
  ⟨0x4012, .arr, 1, 24, .ro, 0, .found, .keep⟩, -- HBM_PORT_STATE
  ⟨0x4020, .num, 8, 1, .ro, 0, .to 0, .keep⟩, -- SPAD_ECC_CORRECTED_TOTAL
  ⟨0x4021, .num, 8, 1, .ro, 0, .to 0, .keep⟩, -- SPAD_ECC_UNCORRECTABLE_TOTAL
  ⟨0x4022, .num, 8, 1, .ro, 0, .to 0, .keep⟩, -- SPAD_ECC_LAST_CORRECTED
  ⟨0x4023, .num, 8, 1, .ro, 0, .to 0, .keep⟩, -- SPAD_ECC_LAST_UNCORRECTABLE
  ⟨0x4024, .num, 4, 1, .ro, 0, .to 0, .keep⟩, -- CORE_FAULT_TOTAL
  ⟨0x4025, .num, 8, 1, .ro, 0, .to 0, .keep⟩ ] -- CORE_FAULT_LAST

/-- The entries 0x5000 to 0x5FFF, in index order. -/
def dictRows5 : List RegRow := [
  ⟨0x5000, .num, 2, 1, .rwo, 1024, .to 1024, .keep⟩, -- ACTIVE_MAX
  ⟨0x5001, .arr, 2, 8, .rwo, 2048, .to 2048, .keep⟩, -- QUEUE_LIMIT
  ⟨0x5002, .num, 2, 1, .rwo, 16384, .to 16384, .keep⟩, -- TENANT_DEFAULT_LIMIT
  ⟨0x5003, .cmd, 0, 0, .cmd, 0, .to 0, .keep⟩, -- TENANT_LIMIT_SET
  ⟨0x5004, .num, 4, 1, .rwo, 4250, .to 4250, .keep⟩, -- PREFILL_NS_PER_POS
  ⟨0x5005, .num, 4, 1, .ro, 0, .to 0, .to 0⟩, -- TRAVERSAL_US
  ⟨0x5006, .num, 1, 1, .rwo, 1, .to 1, .keep⟩, -- PREEMPT_ENABLE
  ⟨0x5007, .num, 2, 1, .rwo, 100, .to 100, .keep⟩, -- RESUME_GUARD_MS
  ⟨0x5010, .num, 2, 1, .rwa, 0, .to 0, .to 0⟩, -- ENTRY_SELECT
  ⟨0x5011, .blob, 0, 0, .ro, 0, .to 0, .to 0⟩, -- ENTRY_VIEW
  ⟨0x5012, .arr, 2, 7, .ro, 0, .found, .found⟩, -- COUNT_BY_STATE
  ⟨0x5013, .arr, 8, 8, .ro, 0, .to 0, .keep⟩, -- TERMINAL_TOTALS
  ⟨0x5014, .num, 8, 1, .ro, 0, .to 0, .keep⟩, -- LATE_TOKENS_TOTAL
  ⟨0x5015, .num, 8, 1, .ro, 0, .to 0, .keep⟩, -- PAUSES_TOTAL
  ⟨0x5016, .num, 8, 1, .ro, 0, .to 0, .keep⟩, -- CANCEL_TOO_LATE_TOTAL
  ⟨0x5017, .num, 8, 1, .ro, 0, .to 0, .keep⟩, -- CARD_ECC_TOTAL
  ⟨0x5020, .cmd, 0, 0, .cmd, 0, .to 0, .keep⟩, -- PAUSE_EXPORT
  ⟨0x5021, .cmd, 0, 0, .cmd, 0, .to 0, .keep⟩, -- PAUSE_IMPORT
  ⟨0x5300, .num, 8, 1, .ro, 0, .to 0, .keep⟩, -- VERDICT_INLINE_TOTAL
  ⟨0x5301, .num, 8, 1, .ro, 0, .to 0, .keep⟩, -- VERDICT_REPORTED_TOTAL
  ⟨0x5302, .num, 8, 1, .ro, 0, .to 0, .keep⟩, -- PASS_ESCALATED_TOTAL
  ⟨0x5303, .num, 2, 1, .ro, 0, .to 0, .keep⟩, -- WIDE_QUEUE_MAX
  ⟨0x5304, .num, 8, 1, .ro, 0, .to 0, .keep⟩, -- BF16_CLAMP_TOTAL
  ⟨0x5305, .num, 8, 1, .ro, 0, .to 0, .keep⟩, -- NUMERIC_EVENT_LAST
  ⟨0x5400, .num, 2, 1, .ro, 0, .to 0, .keep⟩, -- KV_WAYS
  ⟨0x5401, .num, 2, 1, .ro, 0, .to 0, .keep⟩, -- KV_HOT_SLOTS
  ⟨0x5402, .num, 2, 1, .ro, 0, .to 0, .keep⟩, -- KV_PAGES_HOT
  ⟨0x5403, .num, 4, 1, .ro, 0, .to 0, .keep⟩, -- KV_PAGES_COLD
  ⟨0x5404, .num, 8, 1, .ro, 0, .to 0, .keep⟩, -- KV_PAGES_RESTORED_TOTAL
  ⟨0x5405, .num, 8, 1, .ro, 0, .to 0, .keep⟩, -- KV_POSITIONS_RECOMPUTED_TOTAL
  ⟨0x5410, .num, 4, 1, .ro, 0, .to 0, .keep⟩, -- PREFIX_NODES_LIVE
  ⟨0x5411, .num, 8, 1, .ro, 0, .to 0, .keep⟩, -- PREFIX_PAGE_HITS_TOTAL
  ⟨0x5412, .num, 1, 1, .rwo, 16, .to 16, .keep⟩, -- PREFIX_COPY_MIN
  ⟨0x5413, .num, 8, 1, .ro, 0, .to 0, .keep⟩, -- PREFIX_COPIES_TOTAL
  ⟨0x5420, .cmd, 0, 0, .cmd, 0, .to 0, .keep⟩, -- TENANT_SALT_SET
  ⟨0x5421, .arr, 2, 64, .rwo, 0, .to 0, .keep⟩, -- PUBLISH_TENANTS
  ⟨0x5422, .cmd, 0, 0, .cmd, 0, .to 0, .keep⟩, -- PREFIX_FLUSH
  ⟨0x5500, .cmd, 0, 0, .cmd, 0, .to 0, .to 0⟩, -- TABLE_LOAD
  ⟨0x5501, .num, 8, 1, .ro, 0, .to 0, .to 0⟩, -- TABLE_RESULT
  ⟨0x5502, .num, 2, 1, .ro, 0, .to 0, .keep⟩, -- SAMPLING_TABLES_LOADED
  ⟨0x5503, .num, 8, 1, .ro, 0, .to 0, .keep⟩, -- SPEC_VERIFY_PASSES_TOTAL
  ⟨0x5504, .num, 8, 1, .ro, 0, .to 0, .keep⟩, -- SPEC_DRAFTS_TOTAL
  ⟨0x5505, .num, 8, 1, .ro, 0, .to 0, .keep⟩, -- SPEC_ACCEPTED_TOTAL
  ⟨0x5506, .num, 8, 1, .ro, 0, .to 0, .keep⟩, -- SPEC_DISABLES_TOTAL
  ⟨0x5507, .num, 8, 1, .ro, 0, .to 0, .keep⟩, -- GRAMMAR_FALLBACK_TOTAL
  ⟨0x5508, .num, 8, 1, .ro, 0, .to 0, .keep⟩ ] -- SAMPLE_NONFINITE_TOTAL

/-- The entries 0x6000 to 0x6FFF, in index order. -/
def dictRows6 : List RegRow := [
  ⟨0x6000, .num, 4, 1, .rwo, 0, .to 0, .to 0⟩, -- PERF_TARGET
  ⟨0x6001, .arr, 4, 8, .rwo, 0, .to 0, .to 0⟩, -- PERF_CORE_SELECT
  ⟨0x6002, .arr, 4, 8, .rwo, 0, .to 0, .to 0⟩, -- PERF_FIELD_SELECT
  ⟨0x6003, .cmd, 0, 0, .cmd, 0, .to 0, .to 0⟩, -- PERF_APPLY
  ⟨0x6004, .cmd, 0, 0, .cmd, 0, .to 0, .to 0⟩, -- PERF_SNAPSHOT
  ⟨0x6005, .num, 4, 1, .rwa, 0, .to 0, .to 0⟩, -- PERF_READ_SELECT
  ⟨0x6006, .blob, 0, 0, .ro, 0, .to 0, .to 0⟩, -- PERF_READ
  ⟨0x6007, .num, 1, 1, .rwo, 0, .to 0, .to 0⟩, -- PERF_FIGURE_READ
  ⟨0x6008, .num, 4, 1, .rwo, 12, .to 12, .to 12⟩, -- SAMPLE_CONFIG
  ⟨0x6009, .num, 8, 1, .rwo, 0, .to 0, .to 0⟩, -- SAMPLE_SEED
  ⟨0x600A, .arr, 4, 64, .rwo, 0, .to 0, .to 0⟩, -- SAMPLE_TARGETS
  ⟨0x600B, .num, 8, 1, .rwa, 0, .to 0, .to 0⟩, -- SAMPLE_SELECT
  ⟨0x600C, .blob, 0, 0, .ro, 0, .to 0, .to 0⟩, -- SAMPLE_VIEW
  ⟨0x600D, .num, 8, 1, .ro, 0, .to 0, .to 0⟩ ] -- SAMPLES_DROPPED_TOTAL

/-- The entries 0x7000 to 0x7FFF, in index order. -/
def dictRows7 : List RegRow := [
  ⟨0x7000, .num, 1, 1, .ro, 0, .to 0, .to 0⟩, -- CAL_STATE
  ⟨0x7001, .cmd, 0, 0, .cmd, 0, .to 0, .to 0⟩, -- CAL_RUN
  ⟨0x7002, .num, 8, 1, .ro, 0, .found, .keep⟩, -- CAL_RESULT
  ⟨0x7003, .blob, 0, 0, .ro, 0, .found, .keep⟩, -- CAL_SET
  ⟨0x7004, .cmd, 0, 0, .cmd, 0, .to 0, .to 0⟩, -- CAL_RESTORE
  ⟨0x7005, .num, 1, 1, .ro, 0, .found, .keep⟩, -- CAL_VALID
  ⟨0x7006, .num, 1, 1, .ro, 0, .to 0, .keep⟩, -- CAL_UNCHECKED
  ⟨0x7007, .arr, 4, 5, .ro, 0xffffffff, .found, .keep⟩, -- CAL_AGE_S
  ⟨0x7008, .num, 4, 1, .rwo, 3600, .to 3600, .keep⟩, -- CAL_INTERVAL_S
  ⟨0x7009, .num, 8, 1, .ro, 0, .to 0, .keep⟩, -- CAL_DISAGREE_TOTAL
  ⟨0x700A, .num, 4, 1, .ro, 0, .found, .found⟩ ] -- CALV_MEASURED

/-- The entries 0x8000 to 0x8FFF, in index order. -/
def dictRows8 : List RegRow := [
  ⟨0x8000, .num, 1, 1, .ro, 0, .found, .keep⟩, -- FW_ACTIVE_SLOT
  ⟨0x8001, .arr, 4, 2, .ro, 0, .found, .keep⟩, -- FW_SLOT_VERSION
  ⟨0x8002, .num, 1, 1, .ro, 0, .found, .keep⟩, -- FW_TRIAL
  ⟨0x8003, .num, 4, 1, .ro, 0, .found, .keep⟩, -- FW_MIN_VERSION
  ⟨0x8004, .cmd, 0, 0, .cmd, 0, .to 0, .to 0⟩, -- FW_STAGE
  ⟨0x8005, .cmd, 0, 0, .cmd, 0, .to 0, .to 0⟩, -- FW_COMMIT
  ⟨0x8006, .cmd, 0, 0, .cmd, 0, .to 0, .to 0⟩, -- FW_CONFIRM
  ⟨0x8007, .num, 1, 1, .ro, 0, .to 0, .to 0⟩, -- FW_UPDATE_STATE
  ⟨0x8008, .num, 4, 1, .ro, 0, .to 0, .keep⟩, -- HOLDUP_LAST
  ⟨0x8010, .arr, 1, 6, .ro, 0, .to 0, .to 0⟩, -- MCORE_STATE
  ⟨0x8011, .arr, 4, 6, .ro, 0, .to 0, .keep⟩, -- MCORE_RESTARTS_TOTAL
  ⟨0x8012, .cmd, 0, 0, .cmd, 0, .to 0, .to 0⟩, -- MCORE_RESTART
  ⟨0x8013, .arr, 4, 6, .ro, 0, .to 0, .keep⟩, -- KERNEL_DEADLINE_MISSES
  ⟨0x8020, .num, 1, 1, .rwo, 1, .to 1, .keep⟩, -- LOG_LEVEL
  ⟨0x8021, .num, 8, 1, .rwa, 0, .to 0, .to 0⟩, -- LOG_SELECT
  ⟨0x8022, .blob, 0, 0, .ro, 0, .to 0, .to 0⟩, -- LOG_VIEW
  ⟨0x8023, .num, 8, 1, .ro, 0, .to 0, .keep⟩, -- LOG_HEAD
  ⟨0x8030, .arr, 8, 28, .rwo, 0, .to 0, .keep⟩, -- TRACE_ENABLE
  ⟨0x8031, .num, 8, 1, .ro, 0, .to 0, .keep⟩, -- TRACE_DROPS_TOTAL
  ⟨0x8032, .blob, 0, 0, .ro, 0, .keep, .keep⟩ ] -- TRACE_CATALOGUE

/-- The entries 0x9000 to 0x9FFF, in index order. -/
def dictRows9 : List RegRow := [
  ⟨0x9000, .cmd, 0, 0, .cmd, 0, .to 0, .to 0⟩, -- GROUP_FORM
  ⟨0x9001, .cmd, 0, 0, .cmd, 0, .to 0, .to 0⟩, -- GROUP_LEAVE
  ⟨0x9002, .num, 4, 1, .ro, 0, .to 0, .to 0⟩, -- GROUP_ID
  ⟨0x9003, .num, 1, 1, .ro, 1, .to 1, .to 1⟩, -- GROUP_SIZE
  ⟨0x9004, .num, 1, 1, .ro, 0, .to 0, .to 0⟩, -- GROUP_MEMBER
  ⟨0x9005, .num, 1, 1, .ro, 0, .to 0, .to 0⟩, -- GROUP_STATE
  ⟨0x9006, .num, 8, 1, .ro, 0, .to 0, .to 0⟩, -- GROUP_RESULT
  ⟨0x9010, .arr, 1, 32, .ro, 0, .to 0, .to 0⟩, -- LINK_STATE
  ⟨0x9011, .arr, 1, 32, .ro, 255, .to 255, .to 255⟩, -- LINK_PEER
  ⟨0x9012, .arr, 2, 32, .ro, 0, .to 0, .to 0⟩, -- LINK_RETRY_NS
  ⟨0x9013, .arr, 2, 32, .ro, 0, .to 0, .to 0⟩, -- LINK_SYNC_NS
  ⟨0x9014, .arr, 4, 32, .ro, 0, .to 0, .to 0⟩, -- LINK_OFFSET_PS
  ⟨0x9015, .arr, 8, 32, .ro, 0, .to 0, .keep⟩, -- LINK_CORRECTED_TOTAL
  ⟨0x9016, .arr, 8, 32, .ro, 0, .to 0, .keep⟩, -- LINK_RETRIES_TOTAL
  ⟨0x9017, .arr, 8, 32, .ro, 0, .to 0, .keep⟩, -- LINK_DROPS_TOTAL
  ⟨0x9018, .num, 8, 1, .ro, 0, .to 0, .keep⟩, -- LINK_FAILS_TOTAL
  ⟨0x9019, .num, 8, 1, .ro, 0, .to 0, .keep⟩, -- LINK_SYNC_MISS_TOTAL
  ⟨0x9020, .num, 4, 1, .rwo, 0, .to 0, .to 0⟩, -- LINK_ENABLE
  ⟨0x9021, .cmd, 0, 0, .cmd, 0, .to 0, .to 0⟩ ] -- LINK_RESTORE

/-- The entries 0xA000 to 0xAFFF, in index order. -/
def dictRowsA : List RegRow := [
  ⟨0xA000, .cmd, 0, 0, .cmd, 0, .to 0, .to 0⟩, -- LOAD
  ⟨0xA001, .cmd, 0, 0, .cmd, 0, .to 0, .to 0⟩, -- UNLOAD
  ⟨0xA002, .cmd, 0, 0, .cmd, 0, .to 0, .to 0⟩, -- SWAP
  ⟨0xA003, .num, 1, 1, .ro, 0, .to 0, .to 0⟩, -- LOAD_STATE
  ⟨0xA004, .num, 8, 1, .ro, 0, .to 0, .to 0⟩, -- LOAD_RESULT
  ⟨0xA005, .num, 4, 1, .ro, 0, .to 0, .to 0⟩, -- LOAD_SHARDS_DONE
  ⟨0xA006, .num, 8, 1, .ro, 0, .to 0, .keep⟩, -- SHARD_RETRIES_TOTAL
  ⟨0xA010, .blob, 0, 0, .ro, 0, .to 0, .to 0⟩, -- MAIN_DIGEST
  ⟨0xA011, .blob, 0, 0, .ro, 0, .to 0, .to 0⟩, -- LEAD_DIGEST
  ⟨0xA012, .blob, 0, 0, .ro, 0, .to 0, .to 0⟩, -- STANDBY_DIGEST
  ⟨0xA013, .num, 8, 1, .ro, 0, .to 0, .to 0⟩, -- MAIN_START_BEAT
  ⟨0xA014, .num, 8, 1, .ro, 0, .to 0, .to 0⟩ ] -- LEAD_START_BEAT

/-- Every entry of the dictionary; DOMAIN_CURRENT stands for the 220 entries 0x2100 to 0x21DB. -/
def dictRows : List RegRow :=
  dictRows1 ++ dictRows2 ++ dictRows3 ++ dictRows4 ++ dictRows5 ++ dictRows6 ++ dictRows7 ++ dictRows8 ++ dictRows9 ++ dictRowsA

/-- The row of an index; none for an index of no entry. -/
def dictRow? (idx : Nat) : Option RegRow :=
  dictRows.find? fun r => r.idx == (if 0x2100 ≤ idx && idx ≤ 0x21DB then 0x2100 else idx)

/-- The key of a sub-index of an entry. -/
def regKey (idx sub : Nat) : Nat := idx * 65536 + sub

/-- Elements an array holds at reset: SAMPLE_TARGETS and PUBLISH_TENANTS are empty (R178, R431). -/
def arrCount (r : RegRow) : Nat := if r.idx = 0x600A || r.idx = 0x5421 then 0 else r.count

/-- The width in bits of the value at a key; a key of no entry holds nothing.  Sub-index 0 of an array holds its count. -/
def regWidth (key : Nat) : Nat :=
  match dictRow? (key / 65536) with
  | some r =>
    match r.kind with
    | .num => if key % 65536 == 0 then 8 * r.bytes else 0
    | .arr => if key % 65536 = 0 then 16 else if key % 65536 ≤ r.count then 8 * r.bytes else 0
    | .cmd => if key % 65536 == 0 then 8 else 0
    | _ => 0
  | none => 0

/-- The Default column of one element: the entries whose elements differ are listed (R179, R343, R347, R353). -/
def regDefault (r : RegRow) (i : Nat) : Nat :=
  if r.idx = 0x1010 then Config.nativeLatency.getD i 0
  else if r.idx = 0x200B then (if i < 88 then 12 else 6)
  else if r.idx = 0x200F then [720, 700, 680, 660, 630, 600, 550].getD i 0
  else if r.idx = 0x5012 then (if i = 0 then 16384 else 0)
  else if r.idx = 0x1002 then Config.stepping
  else r.dflt

/-- The elements of an entry as (key, value) pairs, those of value zero left out. -/
def regElems (r : RegRow) (f : Nat → Nat) : List (Nat × Nat) :=
  match r.kind with
  | .num => if f 0 = 0 then [] else [(regKey r.idx 0, f 0)]
  | .arr => (if arrCount r = 0 then [] else [(regKey r.idx 0, arrCount r)]) ++
      (List.range r.count).filterMap fun i => if f i = 0 then none else some (regKey r.idx (i + 1), f i)
  | _ => []

end Sys2Proof.Machine
end

