-- ==== Sys2Proof/Machine/State.lean ====
section
/-! DEFINITION. The state of the SW7: every register, memory, queue, buffer and mode the spec gives it, as plain data, and its value right after power is applied. -/

namespace Sys2Proof.Machine

/-- Why a command stops with a fault: the command names a thing that the device does not have.  All safe: no such command can reach the device. -/
inductive Fault where
  /-- A core outside the 46 080 logical cores (R10); raised by every command of a core. -/
  | noSuchCore (key : Nat)
  /-- A field, port, link, stack, domain, core, sensor, slot or session number outside the device's range; raised by the commands that carry one. -/
  | noSuchUnit (n : Nat)
  /-- An address outside the 256 MiB of shared memory (R43) or an access that crosses a 64-byte row; raised by the service-crossbar commands. -/
  | badAddress (a : Nat)
  deriving DecidableEq, Repr

/-- Why a command is refused. -/
inductive Refusal where
  /-- A command that this model gives no meaning yet (safe). -/
  | notModelled (mnemonic : String)
  /-- A step whose encoding the spec calls reserved (R79: the loader refuses a figure that holds it); raised by the step commands (safe). -/
  | reservedEncoding
  deriving DecidableEq, Repr

/-! ### A core -/

/-- The counts and side-row assembly of a quantisation tile set (R120, R121, R132). -/
structure Tile where
  sat : Nat
  zero : Nat
  ovf : Nat
  asm : List Nat
  side : Nat
  deriving DecidableEq, Repr

/-- A tile set at figure start. -/
def Tile.clear : Tile := ⟨0, 0, 0, [], 0⟩

/-- A matrix-array weight bank (R81 to R83): the FMT tag of the MLOAD handle (0: empty), outliers per block, and the bit strings of the weights, scales and side rows. -/
structure WBank where
  fmt : Nat
  out : Nat
  data : Nat
  scales : Nat
  side : Nat
  deriving DecidableEq, Repr

def WBank.empty : WBank := ⟨0, 0, 0, 0, 0⟩

/-- An attention state slot (R150): the running maximum, sum and output vectors of 16 heads, FP32 lanes. -/
structure ApSlot where
  m : List Nat
  l : List Nat
  o : List Nat
  deriving DecidableEq, Repr

/-- A slot after ARST (R150): every m is minus infinity; absent lanes of l and o read as +0. -/
def ApSlot.reset : ApSlot := ⟨[], [], []⟩

/-- One running loop (R101): its descriptor, the first word of its body, and the iterations left (none: no end). -/
structure LoopFrame where
  desc : Nat
  start : Nat
  left : Option Nat
  deriving DecidableEq, Repr

/-- One gather-buffer entry (R71): a row, its bytes and a 64-bit byte mask. -/
structure GatherEntry where
  row : Nat
  data : Row
  mask : Nat
  deriving DecidableEq, Repr

/-- What a held core waits for (R6): a guarded handle, egress room, an arrival counter, a barrier or a counter object. -/
inductive StallCause where
  | guard (h : Nat)
  | egress (flits : Nat)
  | arrival (ctr inc : Nat)
  | barrier (e : Nat)
  | counter (e : Nat)
  deriving DecidableEq, Repr

/-- A stalled core: the cause, the step that waits, and the wafer time in ns at which the stall began. -/
structure Stall where
  cause : StallCause
  step : Instr
  since : Nat
  deriving DecidableEq, Repr

/-- Where a core's figure stands (R73, R74, R103). -/
inductive RunState where
  /-- No figure runs. -/
  | idle
  /-- A figure is loaded and waits at word 0 for its start edge. -/
  | loaded
  /-- Words issue. -/
  | issuing
  /-- A BEAT has closed the segment; the next word waits for an edge. -/
  | waitEdge
  /-- DONE has stopped issue. -/
  | done
  /-- A void has stopped issue (R73). -/
  | voided
  /-- Stopped by a wafer hold at a word that waits (R74). -/
  | stopped
  deriving DecidableEq, Repr

/-- A latched copy of eight counters, and whether repair has cleared them since the latch before (R425, R426, R428). -/
structure PerfLatch where
  time : Nat
  beat : Nat
  values : List Nat
  sticky : Nat
  cleared : Bool
  deriving DecidableEq, Repr

/-- Eight 48-bit counters of a core or a field hub (R420 to R425): select words, values, sticky bits, a selection that waits for a segment start, the latched copy, a latch that waits for an edge number, whether repair has cleared them and no record has told it yet, and how many cycles of the present segment CYCLES has counted. -/
structure PerfSet where
  sel : AMap Nat
  ctr : AMap Nat
  sticky : Nat
  next : Option (List Nat)
  latch : Option PerfLatch
  wait : Option Nat
  cleared : Bool
  upTo : Nat
  deriving DecidableEq, Repr

def PerfSet.reset : PerfSet := ⟨[], [], 0, none, none, none, false, 0⟩

/-- The word a sampler has tagged (R429, R430): its address, the beat of its segment, the cycle at which it reached issue position, the cycles it was held, the hold causes, the predicates it saw, its suppressed steps and its no-operation steps (bit 0 MA to bit 3 DM), and whether it has issued or been ended by a hold. -/
structure SampleTag where
  pc : Nat
  beat : Nat
  ready : Nat
  hold : Nat
  causes : Nat
  preds : Nat
  suppressed : Nat
  noops : Nat
  issued : Bool
  deriving DecidableEq, Repr

/-- A row as it stood before the word at pc: its number, its bytes, whether it held an uncorrectable word, and how many corrected ones (R55, R56, R76). -/
structure OldRow where
  row : Nat
  data : Row
  bad : Bool
  corrected : Nat
  deriving DecidableEq, Repr

/-- Everything one logical core holds besides its scratchpad (R50 to R103, R131, R157, R182, R419). -/
structure Core where
  run : RunState
  pc : Nat
  /-- Words left in the current segment (R103). -/
  left : Nat
  /-- The slots of the word at pc whose steps have issued, bit n for slot n (R76). -/
  issued : Nat
  /-- The edge at which the segment it runs began, and the cycle of that segment at which the word at pc reaches issue position (R430). -/
  seg : Nat
  cycle : Nat
  /-- For a core that owes a segment: the edge of that segment, and the cycles from the one to the other. -/
  owedSeg : Nat
  owedCyc : Nat
  /-- Rows that steps of the word at pc have replaced, as they stood before the word. -/
  old : List OldRow
  /-- Rows that issued steps claim (R52, R53): the cycles from the word at pc on, and the row. -/
  claims : List (Nat × Nat)
  /-- Verdicts that VQEND steps give to predicates: predicate, verdict, and whether the word after the VQEND has issued (R87). -/
  verdicts : List (Nat × Bool × Bool)
  /-- Words of the next segment, set by the BEAT that closed the last one. -/
  next : Nat
  /-- An edge has been taken while the segment still ran (R38, R103). -/
  owes : Bool
  held : Option Stall
  /-- The other conditions that the held word still waits for (R76, R421). -/
  heldBy : List StallCause
  /-- Cycles of the present wait that the HELD counters have counted (R421). -/
  heldCnt : Nat
  store : AMap Nat
  words : Nat
  handles : AMap Nat
  x : AMap Nat
  p : AMap Nat
  tgt : AMap Nat
  ctr : AMap Nat
  loops : AMap Nat
  stack : List LoopFrame
  v : AMap Nat
  sa : Nat
  sp : Nat
  wb : AMap WBank
  ab : AMap (List Nat)
  apCfg : AMap Nat
  apSel : Nat
  query : List Nat
  queryPos : Nat
  aps : AMap ApSlot
  routes : AMap Nat
  sync : AMap Nat
  tileCfg : AMap Nat
  tiles : AMap Tile
  seeds : AMap Nat
  gather : List GatherEntry
  fifo : List Packet
  parked : List Packet
  /-- Handles that a release has returned to FILL while packets were parked for them, until those are written (R69). -/
  opened : List Nat
  egress : List Packet
  router : AMap Nat
  parts : AMap (Option Packet)
  staging : Nat
  /-- Records the staging engine has processed since figure start (R159). -/
  stagingDone : Nat
  /-- Arrival-counter advances of RCTR not yet taken by the engine, in rows (R159). -/
  stagingRows : Nat
  pins : Nat
  perf : PerfSet
  /-- PERF_FIGURE_READ as the field took it at its last segment start (R427). -/
  figureRead : Bool
  /-- The sampler's record buffer, up to 16 records (R429). -/
  samples : List (BitVec 256)
  /-- The cycle of the present segment at which the sampler's interval ends, and the word it has tagged (R429). -/
  tagAt : Option Nat
  tag : Option SampleTag
  /-- The upper halves held for counter reads over the control network, by counter (R36). -/
  ctlHigh : AMap Nat
  winRow : Nat
  winOff : Nat
  /-- Bits of the tile sets that reported in this beat (R140). -/
  reports : Nat
  /-- The segment, plus one, of a report made in a segment whose closing edge had been taken already (R38, R140), by tile set. -/
  lateReports : AMap Nat
  clamps : Nat
  inlineVerdicts : Nat
  reportCount : Nat
  corrected : Nat
  lastCorrected : Nat
  /-- Stored errors, by 8 * row + word: true is uncorrectable (R54 to R56). -/
  ecc : AMap (Option Bool)
  faultCode : Nat
  /-- Wafer time of the last void (R398). -/
  faultAt : Nat
  deriving DecidableEq, Repr

/-- A core that nothing has loaded or started: every register zero, P0 aside (R77's table), every table empty. -/
def Core.fresh : Core := {
  run := .idle, pc := 0, left := 0, issued := 0, seg := 0, cycle := 0, owedSeg := 0, owedCyc := 0, old := [], claims := [], verdicts := [], next := 0, owes := false, held := none, heldBy := [], heldCnt := 0, store := [], words := 0, handles := [], x := [],
  p := [], tgt := [], ctr := [], loops := [], stack := [], v := [], sa := 0, sp := 0, wb := [], ab := [], apCfg := [],
  apSel := 0, query := [], queryPos := 0, aps := [], routes := [], sync := [], tileCfg := [], tiles := [], seeds := [],
  gather := [], fifo := [], parked := [], opened := [], egress := [], router := [], parts := [], staging := 0, stagingDone := 0,
  stagingRows := 0, pins := 0, perf := PerfSet.reset, figureRead := false, samples := [], tagAt := none, tag := none, ctlHigh := [], winRow := 0,
  winOff := 0, reports := 0, lateReports := [], clamps := 0, inlineVerdicts := 0, reportCount := 0, corrected := 0, lastCorrected := 0,
  ecc := [], faultCode := 0, faultAt := 0 }

/-! ### Networks, memories and beats -/

/-- A sync object (R40): a barrier (expected and arrival counts, generation) or a counter (value). -/
structure SyncObj where
  counter : Bool
  expected : Nat
  arrived : Nat
  gen : Bool
  value : Nat
  deriving DecidableEq, Repr

/-- An object nobody has assigned. -/
def SyncObj.none : SyncObj := ⟨false, 0, 0, false, 0⟩

/-- The wafer hold (R39, R394): none; requested, so that edges are withheld; complete; released with a resume beat. -/
inductive HoldPhase where
  | none
  | requested
  | complete
  | released (resume : Nat)
  deriving DecidableEq, Repr

/-- A run of withheld edges with one lowest field off track (R191). -/
structure SlipRun where
  field : Nat
  step : Nat
  fields : Nat
  first : Nat
  beats : Nat
  deriving DecidableEq, Repr

/-- The decision of the sample before edge E (R38): the edge, whether it will be sent, and the physical fields that were on track. -/
structure Sampled where
  edge : Nat
  take : Bool
  onTrack : List Nat
  deriving DecidableEq, Repr

/-- What the slip counted at the last sample changed, until the edge is past: the edge, the values before of BEAT_SLIPS_TOTAL, SLIP_LAST and the FIELD_SLIPS elements it raised, and the run of slips that it joined (R39, R190). -/
structure SlipMark where
  edge : Nat
  total : Nat
  last : Nat
  fields : List (Nat × Nat)
  run : Option SlipRun
  deriving DecidableEq, Repr

/-- The sync-network root (R37 to R39, R139, R274). -/
structure Beat where
  /-- The last edge taken. -/
  last : Nat
  /-- Candidate edges already decided, up to this number. -/
  decided : Nat
  sampled : Option Sampled
  group : Option (Nat × Bool)
  /-- What the sync words say of the sampled edge: the edge, on track, hold (R274). -/
  word : Nat × Bool × Bool
  hold : HoldPhase
  slips : Option SlipRun
  slipMark : Option SlipMark
  /-- Taken-beat counts of the main (0) and lead (1) choreography since their start beats (R139). -/
  taken : AMap Nat
  /-- The cause of the hold in force or of the last one, its first withheld beat and its beats (R407, HOLD_LAST). -/
  holdCause : Nat
  holdFirst : Option Nat
  holdBeats : Nat
  /-- Wafer time at which the hold was requested, in ns. -/
  holdSince : Nat
  deriving DecidableEq, Repr

def Beat.reset : Beat := ⟨0, 0, none, none, (0, false, false), .none, none, none, [], 0, none, 0, 0⟩

/-- The repair map and the health records of positions (R21, R22, R391, R398): an unlisted fs is 10, an unlisted cs or rs is 24. -/
structure Repair where
  fs : AMap Nat
  cs : AMap Nat
  rs : AMap Nat
  /-- Dead or fenced positions, by (physical field * 32 + prow) * 32 + pcol. -/
  dead : AMap Bool
  /-- Positions found dead that a hold has yet to repair, and fields found lost (R393). -/
  todo : List Nat
  lost : List Nat
  unusable : AMap Bool
  dark : AMap Bool
  /-- Wafer times of the last three uncorrectable errors of a position (R398). -/
  errors : AMap (List Nat)
  deriving DecidableEq, Repr

def Repair.reset : Repair := ⟨[], [], [], [], [], [], [], [], []⟩

/-- One request of an HBM queue pair (R97, R98): the descriptor row, the write data and its arrival order. -/
structure HbmReq where
  desc : Row
  data : List Row
  deriving DecidableEq, Repr

/-- The answer a requester of the service crossbar got last (R43, R46). -/
structure SmReply where
  rq : Requester
  error : Bool
  bytes : List Byte
  deriving DecidableEq, Repr

/-- The answer of the control network to an M-core (R35, R36). -/
structure CtlReply where
  m : Nat
  error : Bool
  value : Nat
  deriving DecidableEq, Repr

/-! ### Management -/

/-- A frame the device has sent.  `proto` is the PROTO of a UDP datagram (R286); 0 stands for a frame that is none, whose `typ` is 1 for an ARP reply, 2 for a neighbour advertisement, 3 and 4 for an ICMP and ICMPv6 echo reply (R282). -/
structure Datagram where
  port : Nat
  addr : Nat
  udp : Nat
  proto : Nat
  typ : Nat
  flags : Nat
  sid : Nat
  seq : Nat
  ack : Nat
  payload : List Byte
  deriving DecidableEq, Repr

/-- A sequenced message that its client has not acknowledged (R290). -/
structure SentMsg where
  seq : Nat
  typ : Nat
  flags : Nat
  payload : List Byte
  /-- Retransmissions of this message, in all and on the current path. -/
  retx : Nat
  onPath : Nat
  sent : Nat
  deriving DecidableEq, Repr

/-- A COL or CSP session (R288 to R291). -/
structure Session where
  live : Bool
  gen : Nat
  features : Nat
  level : Nat
  /-- The path on each device port: remote address and UDP port. -/
  paths : AMap (Option (Nat × Nat))
  cur : Nat
  lastRx : Nat
  /-- The highest sequence number received in order. -/
  rxSeq : Nat
  /-- The last sequence number given to a message of the device. -/
  txSeq : Nat
  inflight : List SentMsg
  backlog : List (Nat × List Byte)
  /-- The last 256 responses: the request's SEQ, the response's type, flags and SEQ (type * 2^40 + flags * 2^32 + SEQ), its payload. -/
  responses : List (Nat × Nat × List Byte)
  ackDue : Option Nat
  eventWindow : Nat
  eventCount : Nat
  eventLost : Bool
  /-- The selectors of entries that a session reads through (LOG_SELECT, ENTRY_SELECT, PERF_READ_SELECT, SAMPLE_SELECT). -/
  sel : AMap Nat
  /-- The backlog would have overflowed: the session is lost. -/
  lost : Bool
  deriving DecidableEq, Repr

def Session.closed : Session :=
  ⟨false, 0, 0, 0, [], 0, 0, 0, 0, [], [], [], none, 0, 0, false, [], false⟩

/-- Ownership (R295, R296): the owner's SID (0: none), its lease's end, pending claims in arrival order, and how the lease stands while M4 restarts. -/
structure Owner where
  sid : Nat
  rank : Nat
  leaseEnd : Nat
  claims : List (Nat × Nat)
  deriving DecidableEq, Repr

def Owner.none : Owner := ⟨0, 0xFF, 0, []⟩

/-! ### Models -/

/-- A choreography held in a slot (R197, R203, R213 to R215): its digest (empty: no model), the image region, the length of the binary, the manifest, the start beat, whether it runs, whether it drains and its ledger grant in A(L). -/
structure Model where
  digest : List Byte
  region : Nat
  blen : Nat
  manifest : List Byte
  startBeat : Nat
  running : Bool
  draining : Bool
  grant : Nat
  deriving DecidableEq, Repr

def Model.none : Model := ⟨[], 0, 0, [], 0, false, false, 0⟩


/-! ### Clocks, heat and power -/

/-- What M2 and the field hardware keep for steps, margins, heat and time (R365 to R378). -/
structure Thermal where
  /-- A step written to a field's register, plus one, that takes effect at its next segment start (R195). -/
  stepReq : AMap Nat
  /-- A faster step on its way through M1: the time its set point was raised and the step (R367). -/
  raises : AMap (Option (Nat × Nat))
  /-- Set point of each field's logic rail and, from 88 on, of its array rail, mV (R345, R348). -/
  setPoint : AMap Nat
  /-- Last readings of the 352 field diodes and, from 352 on, of the 44 edge diodes, in milli-degrees C (R372). -/
  temps : AMap Int
  /-- Since when the two diodes of a hot spot differ by more than 4 C, and since when they agree, as time plus one (R373). -/
  apart : AMap Nat
  close : AMap Nat
  /-- Times within 24 h at which a diode became suspect (R373). -/
  suspects : AMap (List Nat)
  /-- Since when a field is at or above T_th since its last rise, and since when it is cool, as time plus one (R375). -/
  hotSince : AMap Nat
  coolSince : AMap Nat
  /-- Edge domains in an excursion at or above 100 C (R376), fields in an excursion at or above 110 C. -/
  edgeHot : AMap Bool
  alarmed : AMap Bool
  /-- Times of a field's margin warnings in the last hour, the last one first; fields whose MARGIN stays until a start (R368); the MARGIN of fields with an unsafe step, which stays until a cold start (R410). -/
  warns : AMap (List Nat)
  sticky : AMap Bool
  unsafeStep : AMap Nat
  ppsOut : Bool
  /-- The coolant sensors last read: inlet and outlet in milli-degrees C, pressure in Pa (R337). -/
  inlet : Int
  outlet : Int
  dp : Nat
  /-- Since when each raw cooling condition holds, and since when one in force has not held, as time plus one (R378). -/
  condSince : AMap Nat
  condGone : AMap Nat
  /-- Up to 60 samples, one a second: the module's thermal resistance in uK/kW and each field's in uK/W (R378). -/
  thetas : List (Int × List Int)
  /-- Seconds of valid samples towards a baseline; past 600 it has been captured (R378). -/
  baseline : Nat
  /-- The turning points of each field not yet closed, in milli-degrees C (R377). -/
  residue : AMap (List Int)
  rainUsed : Bool
  deriving DecidableEq, Repr

def Thermal.reset : Thermal := {
  stepReq := [], raises := [], setPoint := [], temps := [], apart := [], close := [], suspects := [], hotSince := [],
  coolSince := [], edgeHot := [], alarmed := [], warns := [], sticky := [], unsafeStep := [], ppsOut := false,
  inlet := 0, outlet := 0, dp := 0, condSince := [], condGone := [], thetas := [], baseline := 0, residue := [], rainUsed := false }

/-- What waits while M1, or M5, does not run (R312): a LEDGER_REQUEST, a FIELD_BIST, a CAL_RUN, a CAL_RESTORE, a run at the interval, a module in a cage, HBM stacks that firmware traffic needs, a LINK_RESTORE, a LINK_ENABLE, a GROUP_FORM. -/
inductive GrantWait where
  | request (requester action unit arg : Nat)
  | bist (pf force : Nat)
  | cal (mask force : Nat)
  | calRestore (blob : List Byte)
  | calDue
  | cage (e deciWatt : Nat)
  | wake
  | linkRestore (l : Nat)
  | linkEnable (mask : Nat)
  | form (id size m : Nat)
  | leave
  | darken (p : Nat)
  deriving DecidableEq, Repr

/-- What M1, the regulators and the always-on block keep (R340 to R360). -/
structure Power where
  /-- Grants and reservations in hundredths of A(L), by action * 1024 + unit (R353, R354). -/
  grants : AMap Nat
  reserved : AMap Nat
  /-- Requests that wait while M1 or M5 does not run (R312). -/
  waiting : List GrantWait
  /-- Field power-ups that wait: field, requester, time of the request, whether the price is reserved, whether the wait was logged (R358). -/
  powerups : List (Nat × Nat × Nat × Bool × Bool)
  /-- 1 ms averages of the input voltage in the last second: time, mV (R342). -/
  volts : List (Nat × Nat)
  inputMa : Nat
  /-- Last published feed currents of the 220 domains and the 23 segments, mA (R352). -/
  domainMa : List Nat
  segmentMa : List Nat
  lowLogged : Bool
  highLogged : Bool
  /-- Consecutive milliseconds above L, whether overdraw lowers steps, since when the current is at or below 95% of L, and the last lift (R359). -/
  overMs : Nat
  overdraw : Bool
  underSince : Option Nat
  lastLift : Nat
  /-- Since when the input is below L after an overcurrent; none: no request stands (R360). -/
  overcurrent : Bool
  ocBelow : Option Nat
  /-- Failed phases of each field rail (bit per phase) and excluded sense pairs (R347, R348). -/
  phases : AMap Nat
  pairs : AMap Nat
  /-- The last catch firing of each field, as time plus one (R349). -/
  lastFire : AMap Nat
  /-- Domain states, plus one, that came about while M1 did not run and that it has not read back, and the bus converters latched off meanwhile (R312, R351, R363). -/
  unseen : AMap Nat
  deadBc : List Nat
  deriving DecidableEq, Repr

def Power.reset : Power := {
  grants := [], reserved := [], waiting := [], powerups := [], volts := [], inputMa := 0, domainMa := [], segmentMa := [],
  lowLogged := false, highLogged := false, overMs := 0, overdraw := false, underSince := none, lastLift := 0,
  overcurrent := false, ocBelow := none, phases := [], pairs := [], lastFire := [], unseen := [], deadBc := [] }

/-! ### Samplers -/

/-- The samplers (R429): draws made, by core, and the records ever written to the sample ring. -/
structure Sampler where
  draws : AMap Nat
  head : Nat
  deriving DecidableEq, Repr

def Sampler.reset : Sampler := ⟨[], 0⟩

/-! ### Calibration -/

/-- Calibration (R408 to R415): the groups that run, how the run began (0 none, 1 CAL_RUN, 2 CAL_RESTORE, 3 at the interval, 4 at a start), the groups that wait for a drain, the values in force by group * 4096 + item (one more than two FP32 words, the first in [31:0]; absent: the default), the time of each group's last agreed run, plus one, the blob that is being restored, and when the last run ended, which values of an item are agreed, or were applied unchecked, by the same number (bit 0 the first, bit 1 the second: a diode's offset and ideality are measured apart), and the groups whose reference went away during the run. -/
structure Calib where
  mask : Nat
  mode : Nat
  waiting : Nat
  values : AMap Nat
  agreed : AMap Nat
  restoring : List Byte
  lastRun : Nat
  parts : AMap Nat
  lost : Nat
  deriving DecidableEq, Repr

def Calib.reset : Calib := ⟨0, 0, 0, [], [], [], 0, [], 0⟩

/-! ### The marionette complex and flash -/

/-- The M-cores (R309 to R313): when each stopped and why, the times of its restarts, its mailbox (sender, request), the request it took last, the head of the log when M4 stopped, and the trace entries of each writer in the present second. -/
structure Mcores where
  stopAt : AMap Nat
  cause : AMap Nat
  history : AMap (List Nat)
  mail : AMap (List (Nat × Nat))
  taken : AMap (Option (Nat × Nat))
  logHead : Nat
  traceSecond : AMap Nat
  traceCount : AMap Nat
  deriving DecidableEq, Repr

def Mcores.reset : Mcores := ⟨[], [], [], [], [], 0, [], []⟩

/-- A boot record (R314): sequence number, active slot, TRIAL, TRIES, MIN_VERSION. -/
structure BootRecord where
  seq : Nat
  active : Nat
  trial : Bool
  tries : Nat
  minVersion : Nat
  deriving DecidableEq, Repr

/-- Flash and M0's store (R314 to R317): the two image slots (none: as the module left manufacture; else the bytes programmed, none after an erase), the two copies of the boot record (none: as manufactured), the record in force with the number of the copy that holds it, a commit in progress (its digest), the owner keys by copy * 4 + slot (R306), the image that runs, its copy in the image store (none: as manufactured) with the digest of each segment, an enrollment (slot, key) or revocation (slot, empty key) that waits for M0, and whether a FW_CONFIRM waits. -/
structure Flash where
  image : AMap (Option (List Byte))
  boot : AMap (Option (List Byte))
  record : BootRecord
  copy : Nat
  commit : Option (List Byte)
  keys : AMap (List Byte)
  running : Nat
  store : Option (List Byte)
  digests : List (List Byte)
  enroll : Option (Nat × List Byte)
  confirm : Bool
  deriving DecidableEq, Repr

/-- As the module leaves manufacture: slot A active, no trial, no owner key. -/
def Flash.reset : Flash := ⟨[], [], ⟨1, 0, false, 0, 0⟩, 0, none, [], 0, none, [], none, false⟩

/-! ### The console (R333) -/

/-- The console: lines written, the latest first; when the last of them will have left; lines dropped since then. -/
structure Console where
  lines : List (List Byte)
  busyTo : Nat
  dropped : Nat
  deriving DecidableEq, Repr

def Console.reset : Console := ⟨[], 0, 0⟩

/-- The time of a line with its end at 115 200 baud, ten bits a character, in ns. -/
def lineNs (l : List Byte) : Nat := ((l.length + 1) * 10 * 1000000000 + 115199) / 115200

/-- A line goes out, after one that tells of dropped lines; where too much waits it is dropped. -/
def Console.put (c : Console) (now : Nat) (l : List Byte) : Console :=
  if c.busyTo > now + Config.consoleDepth then { c with dropped := c.dropped + 1 }
  else
    let head := if c.dropped = 0 then [] else [Config.droppedLine c.dropped]
    ⟨l :: (head ++ c.lines), max now c.busyTo + lineNs l + (head.map lineNs).foldl (· + ·) 0, 0⟩

/-! ### Ethernet ports (R282 to R285, R326) -/

/-- A MACsec association (R285): whether it holds a key, the key, SSCI, salt and the next packet number. -/
structure MacAssoc where
  valid : Bool
  key : Nat
  ssci : Nat
  salt : Nat
  pn : Nat
  deriving DecidableEq, Repr

def MacAssoc.none : MacAssoc := ⟨false, 0, 0, 0, 0⟩

/-- The Ethernet ports: associations by 4 * port + 2 * direction + AN, the transmit AN installed last plus one, ports whose transmit association has been found to run out, those of them whose event is still to be logged, the module power of a cage in tenths of a watt plus one (absent: no module), cages left in low-power mode, the MAC addresses drawn so far, and the best rate of each port's far end as PORT_UP last told it. -/
structure EthPorts where
  assoc : AMap MacAssoc
  tx : AMap Nat
  warned : AMap Bool
  sakDue : AMap Bool
  module : AMap Nat
  lowPower : AMap Bool
  draws : Nat
  best : AMap Nat
  deriving DecidableEq, Repr

def EthPorts.reset : EthPorts := ⟨[], [], [], [], [], [], 0, []⟩

/-! ### Starts (R382 to R387) -/

/-- Where a start stands: when the last one completed, plus one (0: none has); when the present one began; a START that waits for its 100 ms (kind 1 warm, 2 cold; its time); since when the assist window is open; the repair map that START_ASSIST brought; what the tests of the last cold start found; a requested BIST of a field (field, with 1 for a drain that is under way and 2 for a power-up that is awaited); since when RESET_N is low; the fields that step 5 has still to power and test, with whether the first has asked for its power; and whether steps 8 and 9 wait for M1. -/
structure Boot where
  doneAt : Nat
  began : Nat
  waiting : Option (Nat × Nat)
  assist : Option Nat
  map : List Byte
  report : BistReport
  bist : Option (Nat × Nat)
  lowSince : Option Nat
  todo : Option (Bool × List Nat)
  last : Bool
  deriving DecidableEq, Repr

def Boot.reset : Boot := ⟨0, 0, none, none, [], BistReport.clean, none, none, none, false⟩

/-! ### The image channel and loading (R206 to R215, R302 to R304) -/

/-- A transfer that the device fetches: XID, kind, object digest, shard or entry number, length (0: not yet known), how many sources have been tried, where its FETCH went, the times of its first request and of its last DATA, failed copies, the ranges that have arrived and, for kinds 1, 3 and 4, their bytes. -/
structure Xfer where
  xid : Nat
  kind : Nat
  digest : List Byte
  num : Nat
  len : Nat
  tried : Nat
  dest : Option Path
  first : Nat
  last : Nat
  failed : Nat
  runs : List (Nat × Nat)
  buf : Mem
  deriving DecidableEq, Repr

/-- A push of a pause image: XID, entry, HBM address, length, bytes acknowledged, time of the last progress or retry, time of the last progress, port of the last PUSH. -/
structure Push where
  xid : Nat
  entry : Nat
  addr : Nat
  len : Nat
  acked : Nat
  sent : Nat
  progress : Nat
  port : Nat
  deriving DecidableEq, Repr

/-- The image channel: live transfers, exports under way, the last XID and host port used. -/
structure ImageCh where
  xfers : List Xfer
  pushes : List Push
  xid : Nat
  port : Nat
  deriving DecidableEq, Repr

def ImageCh.reset : ImageCh := ⟨[], [], 0, 0⟩

/-- A LOAD (1), UNLOAD (2) or SWAP (3) in progress: its slot, source mask and link mask, the candidate model, shards verified, fields distributed, the start beat once chosen, members reported ready, and whether the binary has been accepted. -/
structure Load where
  op : Nat
  slot : Nat
  sources : Nat
  links : Nat
  cand : Model
  verified : List Nat
  fields : List Nat
  start : Option Nat
  ready : List (Nat × Nat × Nat × Nat)
  deriving DecidableEq, Repr

def Load.none : Load := ⟨0, 0, 0, 0, Model.none, [], [], Option.none, []⟩

/-- Decoding tables (R254): the body digest and the length of each loaded table by kind * 65536 + id, a TABLE_LOAD in progress (kind, id, length, digest, time), and tables that are fetched again after an uncorrectable word (kind, id, time). -/
structure Tables where
  digests : AMap (List Byte)
  lens : AMap Nat
  loading : Option (Nat × Nat × Nat × List Byte × Nat)
  refetch : List (Nat × Nat × Nat)
  deriving DecidableEq, Repr

def Tables.reset : Tables := ⟨[], [], none, []⟩

/-! ### Serving (R217 to R260) -/

/-- What the tumbler cores keep for a dance-card entry beside the card: hot slots and page ids still reserved by way in the main and the lead choreography; the lead's list words plus one; the next position to issue and the end of the positions to issue; the lead's next position; ranges to recompute; drafts of the present cycle with the lead's kept distribution of each; positions linked; times of the last delivery, of the base of the TBT deadline, of the pause and of the resume; the QUEUED status sent last; the request-ring record plus one, the prompt's run in the prompt pool, the port; the detail of its terminal status; whether that status is withheld; whether its session ended. -/
structure Req where
  live : Bool
  resv : AMap Nat
  leadResv : AMap Nat
  leadPages : AMap Nat
  issued : Nat
  upto : Nat
  resuming : Bool
  leadAt : Nat
  recompute : List (Nat × Nat)
  drafts : List (Nat × List (Nat × Nat))
  draftsDone : Bool
  linked : Nat
  lastAt : Option Nat
  base : Option Nat
  pausedAt : Nat
  resumedAt : Option Nat
  qpos : Nat
  qsent : Nat
  ring : Nat
  pool : Nat × Nat
  detail : Nat
  silent : Bool
  retiredAt : Nat
  deriving DecidableEq, Repr

def Req.none : Req := ⟨false, [], [], [], 0, 0, false, 0, [], [], false, 0, Option.none, Option.none, 0, Option.none, 0, 0, 0, (0, 0), 0, false, 0⟩

/-- A pass (R227, R255): PSEQ, model, issue slot and its taken beat, entry, positions, whether it yields candidates, whether it only recomputes, the drafts it verifies, whether it ran wide and with which rungs (by core * 1024 + unit), its complete candidate lists, the tokens decided and drafts accepted, whether it was dropped or delivered, its time of issue, and the cause and place of the void that dropped it. -/
structure Pass where
  pseq : Nat
  lead : Bool
  slot : Nat
  beat : Nat
  entry : Nat
  first : Nat
  count : Nat
  yields : Bool
  recompute : Bool
  drafts : List Nat
  wide : Bool
  rungs : List (Nat × Nat)
  lists : AMap (List (Nat × Nat))
  tokens : Option (List Nat)
  accepted : Nat
  dropped : Bool
  delivered : Bool
  at_ : Nat
  voided : Option (Nat × Nat)
  deriving DecidableEq, Repr

/-- The content of a decided issue slot (R202): PSEQ, entry, first position, positions, input tokens, list words, append headers (slot, position, page, generation). -/
structure SlotEntry where
  pseq : Nat
  entry : Nat
  first : Nat
  count : Nat
  tokens : List Nat
  words : List Nat
  headers : List (Nat × Nat × Nat × Nat)
  deriving DecidableEq, Repr

/-- An open position slot of a candidate sorter (R243): its pass, the position's index in the pass, rows counted, entries (id, value bits), the beat in which it completed. -/
structure SortSlot where
  pseq : Nat
  idx : Nat
  rows : Nat
  entries : List (Nat × Nat)
  complete : Option Nat
  deriving DecidableEq, Repr

/-- A REQUEST whose messages are arriving (R299): session, port, bytes 0 to 31, ranges of ids that have arrived, its run of the prompt pool, and when the first message came. -/
structure Partial where
  session : Nat
  port : Nat
  head : List Byte
  got : List (Nat × Nat)
  pool : Nat × Nat
  first : Nat
  deriving DecidableEq, Repr

/-- A pause image that another member than 0 keeps (R235): stack, byte address, bytes, where the bodies begin, the page indexes. -/
structure MemberImage where
  stack : Nat
  addr : Nat
  len : Nat
  body : Nat
  pages : List Nat
  deriving DecidableEq, Repr

/-- The tumbler cores' own state: requests by entry; passes; the last PSEQ; decided issue slots by 2 * slot + lead; the next slot to decide plus one; candidate slots by tumbler * 32 + slot; free hot slots by lead * 256 + way; allocated runs of the pools; directory runs; request-ring records in use; transmit records that wait; requests being assembled; the wide queue (pass, close); open attempts (PSEQ, layer, close, raised units); passes to issue again, dropped by a hold, or (marked dropped) by the close of an earlier pass of their request; descriptors that wait for each core's fetch ring, each with its page's key; pages whose reload or copy is under way, with the taken beat from which they may be named, plus one; recent retirements; nodes to flush; faults (place, time, entry); voids since the last hold (place, cause, PSEQ plus one, position); page ids by entry on a group member and its pause images; main pages whose directory entry has changed since an issue record carried them; on a group member the raised units of wide passes by PSEQ, and by entry the card entry and list words of a paused request, as member 0 told them; the taken beat at which a page became FULL, plus one, by page key. -/
structure Serving where
  reqs : AMap Req
  passes : List Pass
  pseq : Nat
  decided : AMap (Option SlotEntry)
  nextSlot : AMap Nat
  sorter : AMap (Option SortSlot)
  hotFree : AMap (List Nat)
  runs : AMap (List (Nat × Nat))
  dirBase : AMap Nat
  ring : AMap Nat
  outbox : List (List Byte)
  parts : List Partial
  wide : List (Pass × Nat)
  attempts : List (Nat × Nat × Nat × List Nat)
  reissue : List Pass
  fetchQ : AMap (List (Nat × Row))
  loading : AMap Nat
  retires : List Nat
  flushing : List Nat
  faults : List (Nat × Nat × Nat)
  voids : List (Nat × Nat × Nat × Nat)
  memberPages : AMap (List Nat)
  memberImages : AMap (Option MemberImage)
  dirChanges : List Nat
  memberRungs : AMap (List Nat)
  memberPaused : AMap (List Nat)
  fullAt : AMap Nat
  deriving DecidableEq, Repr

def Serving.reset : Serving := ⟨[], [], 0, [], [], [], [], [], [], [], [], [], [], [], [], [], [], [], [], [], [], [], [], [], [], [], []⟩

/-! ### Chip links (R261 to R281) -/

/-- A chip link: the next frame SEQ it sends and the next it expects, NAK set, failures of the expected SEQ in a row, the SEQ the far end asks for again plus one and how often in a row it was asked for, times of retries in the last millisecond, the time of the last correct frame, the queue of link packets with the times they joined it, the rest of the packet whose slots are being sent, and of the firmware message that takes one slot of each frame (R264), frames sent since the last maintenance frame, frames sent and not acknowledged, frames to send again, the frame sent last (control field, slots), the slots of a packet and of a firmware message that arrive, and the link that carries its endpoint plus one (0: itself). -/
structure Link where
  txSeq : Nat
  rxSeq : Nat
  nak : Bool
  naks : Nat
  asked : Nat
  askedTimes : Nat
  retries : List Nat
  lastGood : Nat
  queue : List (Nat × Packet)
  sending : List Row
  fwSending : List Row
  frames : Nat
  buffer : List (Nat × List Row)
  replay : List (Nat × List Row)
  out : Option (Nat × List Row)
  arriving : List Row
  fwArriving : List Row
  via : Nat
  deriving DecidableEq, Repr

def Link.reset : Link := ⟨0, 0, false, 0, 0, 0, [], 0, [], [], [], 0, [], [], none, [], [], 0⟩

/-- Group state (R274 to R277): links by number, sync words seen for an edge by member (edge, on track, hold), members that reported their hold complete, the deadline of a formation, the far ends' hellos (member by link, plus one), whether wafer time waits for member 0's at the next PPS edge, and on member 0 the escalation records of other members that wait for room in the ring (R48, R278). -/
structure Group where
  links : AMap Link
  sync : AMap (Nat × Bool × Bool)
  held : List Nat
  formBy : Option Nat
  hellos : AMap Nat
  align : Bool
  records : List (List Byte)
  deriving DecidableEq, Repr

def Group.reset : Group := ⟨[], [], [], none, [], false, []⟩

/-! ### The whole machine -/

/-- The state of the SW7. -/
structure State where
  /-- Commands waiting, first in, first out. -/
  pending : List Instr
  /-- Time in ns since power was applied; wafer time is counted from `epoch` (R369). -/
  now : Nat
  epoch : Nat
  /-- The model's own field: how many free values have been drawn. -/
  free : Nat
  /-- The dictionary's numeric entries (R12), by regKey; an unlisted key reads as zero. -/
  dict : AMap Nat
  /-- The dictionary's byte-string entries, by index. -/
  blobs : AMap (List Byte)
  cores : AMap Core
  /-- Scratchpads, by core key; byte addresses (R51). -/
  spads : AMap Mem
  /-- Packets in flight in the mesh and on the edge-ring bus, oldest first (R25 to R30). -/
  net : List Packet
  /-- Shared memory (R43, R47). -/
  sm : Mem
  /-- Shared-memory words with an uncorrectable error, by address div 8 (R46). -/
  smBad : AMap Bool
  smReply : Option SmReply
  /-- HBM: stack n at n * 2^36 (R97). -/
  hbm : Mem
  hbmBad : AMap Bool
  /-- Queue pairs, by endpoint id (R98). -/
  qps : AMap (List HbmReq)
  ctlReply : Option CtlReply
  objects : AMap SyncObj
  beat : Beat
  repair : Repair
  /-- Counters FC0 to FC7 of the physical field hubs (R420). -/
  hubs : AMap PerfSet
  /-- BF16 clamps of each logical field's routers since the last scan (R146). -/
  fieldClamps : AMap Nat
  /-- The exits that M3 last wrote into every field's exit table, by block of the edge ring (HBM ports, tumbler cores, links): field * 4 + side + 1 (R432). -/
  exitBase : AMap Nat
  /-- Exit-table entries written over them, by physical field * 1024 + endpoint: field * 4 + side + 1. -/
  exits : AMap Nat
  /-- Round-robin pointers of the routers' outputs, by router * 8 + output port: the input at which the next grant begins (R27). -/
  arb : AMap Nat
  /-- TEST_EN was high at the cold start (R335). -/
  testMode : Bool
  /-- The slots: 0 main, 1 lead, 2 standby (R206). -/
  models : AMap Model
  thermal : Thermal
  power : Power
  sampler : Sampler
  calib : Calib
  mcores : Mcores
  flash : Flash
  /-- The last tick of each periodic task (R310), by its kind. -/
  ticks : AMap Nat
  /-- Log entries that a stopped M-core writes when it returns: code, severity, payload (R312, R362). -/
  deferred : AMap (List (Nat × Nat × List Byte))
  /-- Commands that have not reached their status: by entry index and unit, the SIDs that wait, oldest first (R294). -/
  cmds : AMap (List Nat)
  col : AMap Session
  csp : AMap Session
  owner : Owner
  /-- Datagrams sent, the latest first. -/
  wire : List Datagram
  console : Console
  ports : EthPorts
  boot : Boot
  image : ImageCh
  load : Load
  tables : Tables
  serving : Serving
  group : Group
  deriving DecidableEq, Repr

/-- The dictionary at its Default column, in key order. -/
def dictReset : AMap Nat := dictRows.flatMap fun r => regElems r (regDefault r)

/-- Right after power is applied, before the cold start: the Default column of the dictionary, every memory empty, every core idle. -/
def State.reset : State := {
  pending := [], now := 0, epoch := 0, free := 0, dict := dictReset,
  blobs := [],
  cores := [], spads := [], net := [], sm := [], smBad := [], smReply := none, hbm := [], hbmBad := [], qps := [],
  ctlReply := none, objects := [], beat := Beat.reset, repair := Repair.reset, hubs := [], fieldClamps := [], exitBase := [], exits := [], arb := [], testMode := false, models := [], thermal := Thermal.reset,
  power := Power.reset, sampler := Sampler.reset, calib := Calib.reset, mcores := Mcores.reset, flash := Flash.reset, ticks := [], deferred := [], cmds := [], col := [], csp := [], owner := Owner.none, wire := [], console := Console.reset, ports := EthPorts.reset, boot := Boot.reset, image := ImageCh.reset, load := Load.none, tables := Tables.reset, serving := Serving.reset, group := Group.reset }

end Sys2Proof.Machine
end

