-- ==== Sys2Proof/Machine/Prog.lean ====
section
/-! DEFINITION. What a command may do: a program of state updates.  An update is plain data; no update touches the queue of waiting commands. -/

namespace Sys2Proof.Machine

/-- One change of the state. -/
inductive Update where
  /-- Sets a dictionary element; the value is cut to the element's width. -/
  | reg (key v : Nat)
  | blob (idx : Nat) (v : List Byte)
  | core (key : Nat) (c : Core)
  | spad (key addr : Nat) (bytes : List Byte)
  | spadAll (key : Nat) (m : List (Nat × List Byte))
  | net (ps : List Packet)
  | sm (addr : Nat) (bytes : List Byte)
  | smBad (word : Nat) (bad : Bool)
  | smClear
  | smReply (r : Option SmReply)
  | hbm (addr : Nat) (bytes : List Byte)
  | hbmBad (word : Nat) (bad : Bool)
  | hbmClear
  | qp (ep : Nat) (q : List HbmReq)
  | ctlReply (r : Option CtlReply)
  | object (n : Nat) (o : SyncObj)
  | beat (b : Beat)
  | repair (r : Repair)
  | hub (p : Nat) (x : PerfSet)
  | fieldClamp (f n : Nat)
  | exit (k v : Nat)
  /-- M3 writes every field's exit table: the exit of each block (R432). -/
  | exitsDefault (t : List (Nat × Nat))
  | arb (k v : Nat)
  | arbReset
  | testMode (b : Bool)
  | model (slot : Nat) (m : Model)
  | thermal (t : Thermal)
  | power (p : Power)
  | sampler (x : Sampler)
  | calib (x : Calib)
  | mcores (x : Mcores)
  | flash (x : Flash)
  | tick (kind t : Nat)
  | deferred (m : Nat) (l : List (Nat × Nat × List Byte))
  | cmd (key : Nat) (sids : List Nat)
  | col (i : Nat) (x : Session)
  | csp (i : Nat) (x : Session)
  | owner (o : Owner)
  | sent (d : Datagram)
  | line (l : List Byte)
  | ports (x : EthPorts)
  | boot (x : Boot)
  | image (x : ImageCh)
  | load (x : Load)
  | tables (x : Tables)
  | serving (x : Serving)
  | group (x : Group)
  | smZero (a n : Nat)
  /-- Replaces the whole dictionary; each value is cut to its element's width. -/
  | dict (d : List (Nat × Nat))
  /-- Time goes on to t; it never goes back. -/
  | time (t : Nat)
  | epoch (t : Nat)
  /-- One free value has been drawn. -/
  | drawn
  deriving DecidableEq, Repr

/-- A scratchpad made of runs of bytes. -/
def memOf (runs : List (Nat × List Byte)) : Mem := runs.foldl (fun m r => Mem.write m r.1 r.2) []

/-- The link of a port: 0 down, else its rate (R308). -/
def State.portLink (s : State) (e : Nat) : Nat := AMap.get 0 s.dict (regKey 0x1400 (e + 1))

/-- The largest payload of a datagram to an address, IPv4 below 2^32 (R287). -/
def State.lenMax (s : State) (addr : Nat) : Nat := min 8960 (AMap.get 0 s.dict (regKey 0x1407 0) - if addr < 2 ^ 32 then 48 else 68)

/-- A frame leaves on its port while the link is up; a datagram larger than the MTU allows does not leave (R287); ports from 2 on stand for the chip links of neighbours, whose frames are firmware messages (R209).  With MACsec on it takes a packet number of the association installed last; without one, or with its 32-bit numbers used up in mode 1, nothing leaves; the number 0xC000_0000 makes an event due (R285). -/
def State.sendFrame (s : State) (d : Datagram) : State :=
  let mode := AMap.get 0 s.dict (regKey 0x1410 (d.port + 1))
  let an := AMap.get 0 s.ports.tx d.port
  let k := 4 * d.port + (an - 1)
  let a := AMap.get MacAssoc.none s.ports.assoc k
  if d.port ≥ 2 then { s with wire := d :: s.wire }
  else if s.portLink d.port = 0 || (d.proto != 0 && d.payload.length > s.lenMax d.addr) then s
  else if mode = 0 then { s with wire := d :: s.wire }
  else if an = 0 || (mode = 1 && a.pn ≥ 2 ^ 32) then s
  else
    let due := mode = 1 && a.pn + 1 ≥ 0xC0000000 && !AMap.get false s.ports.warned d.port
    { s with wire := d :: s.wire
             ports := { s.ports with
               assoc := AMap.put MacAssoc.none s.ports.assoc k { a with pn := a.pn + 1 }
               warned := if due then AMap.put false s.ports.warned d.port true else s.ports.warned
               sakDue := if due then AMap.put false s.ports.sakDue d.port true else s.ports.sakDue } }

def State.apply (s : State) : Update → State
  | .reg k v => { s with dict := AMap.put 0 s.dict k (v % 2 ^ regWidth k) }
  | .blob i v => { s with blobs := AMap.put [] s.blobs i v }
  | .core k c => { s with cores := AMap.put Core.fresh s.cores k c }
  | .spad k a bs => { s with spads := AMap.put [] s.spads k (Mem.write (AMap.get [] s.spads k) a bs) }
  | .spadAll k m => { s with spads := AMap.put [] s.spads k (memOf m) }
  | .net ps => { s with net := ps }
  | .sm a bs => { s with sm := Mem.write s.sm a bs }
  | .smBad w b => { s with smBad := AMap.put false s.smBad w b }
  | .smClear => { s with sm := [], smBad := [] }
  | .smReply r => { s with smReply := r }
  | .hbm a bs => { s with hbm := Mem.write s.hbm a bs }
  | .hbmBad w b => { s with hbmBad := AMap.put false s.hbmBad w b }
  | .hbmClear => { s with hbm := [], hbmBad := [] }
  | .qp e q => { s with qps := AMap.put [] s.qps e q }
  | .ctlReply r => { s with ctlReply := r }
  | .object n o => { s with objects := AMap.put SyncObj.none s.objects n o }
  | .beat b => { s with beat := b }
  | .repair r => { s with repair := r }
  | .fieldClamp f n => { s with fieldClamps := AMap.put 0 s.fieldClamps f n }
  | .exit k v => { s with exits := AMap.put 0 s.exits k v }
  | .exitsDefault t => { s with exitBase := t.foldl (fun m kv => AMap.put 0 m kv.1 kv.2) [], exits := [] }
  | .arb k v => { s with arb := AMap.put 0 s.arb k v }
  | .arbReset => { s with arb := [] }
  | .hub p x => { s with hubs := AMap.put PerfSet.reset s.hubs p x }
  | .testMode b => { s with testMode := b }
  | .model i m => { s with models := AMap.put Model.none s.models i m }
  | .thermal t => { s with thermal := t }
  | .power p => { s with power := p }
  | .sampler x => { s with sampler := x }
  | .calib x => { s with calib := x }
  | .mcores x => { s with mcores := x }
  | .flash x => { s with flash := x }
  | .tick k t => { s with ticks := AMap.put 0 s.ticks k t }
  | .deferred m l => { s with deferred := AMap.put [] s.deferred m l }
  | .cmd i n => { s with cmds := AMap.put [] s.cmds i n }
  | .col i x => { s with col := AMap.put Session.closed s.col i x }
  | .csp i x => { s with csp := AMap.put Session.closed s.csp i x }
  | .owner o => { s with owner := o }
  | .sent d => s.sendFrame d
  | .line l => { s with console := s.console.put s.now l }
  | .ports x => { s with ports := x }
  | .boot x => { s with boot := x }
  | .image x => { s with image := x }
  | .load x => { s with load := x }
  | .tables x => { s with tables := x }
  | .serving x => { s with serving := x }
  | .group x => { s with group := x }
  | .smZero a n => { s with sm := s.sm.filter fun c => c.1 < a || a + n ≤ c.1, smBad := s.smBad.filter fun c => 8 * c.1 < a || a + n ≤ 8 * c.1 }
  | .dict d => { s with dict := d.foldl (fun m kv => AMap.put 0 m kv.1 (kv.2 % 2 ^ regWidth kv.1)) [] }
  | .time t => { s with now := max s.now t }
  | .epoch t => { s with epoch := t }
  | .drawn => { s with free := s.free + 1 }

/-- The effect of a command: a program that may read the state at any point. -/
inductive Prog where
  | done
  | get (k : State → Prog)
  | upd (u : Update) (k : Prog)
  | fault (f : Fault)
  | refuse (r : Refusal)

/-- Runs a program. -/
def Prog.run : Prog → State → Host.Outcome State Fault Refusal
  | .done, s => .next s
  | .get k, s => (k s).run s
  | .upd u k, s => k.run (s.apply u)
  | .fault f, _ => .fault f
  | .refuse r, _ => .refused r

/-- One program after another. -/
def Prog.andThen : Prog → Prog → Prog
  | .done, q => q
  | .get k, q => .get fun s => (k s).andThen q
  | .upd u p, q => .upd u (p.andThen q)
  | .fault f, _ => .fault f
  | .refuse r, _ => .refuse r

/-- Programs in order. -/
def Prog.seq : List Prog → Prog
  | [] => .done
  | p :: ps => p.andThen (Prog.seq ps)

/-- One update. -/
def Prog.one (u : Update) : Prog := .upd u .done

/-- Updates in order. -/
def Prog.ups : List Update → Prog
  | [] => .done
  | u :: us => .upd u (Prog.ups us)

def Prog.when (b : Bool) (p : Prog) : Prog := if b then p else .done

/-- A program for each element of a list, in order. -/
def Prog.each {α : Type} (xs : List α) (f : α → Prog) : Prog := Prog.seq (xs.map f)

end Sys2Proof.Machine
end

