-- ==== Sys2Proof/Machine/Ops.lean ====
section
/-! DEFINITION. The named operations over the state: dictionary registers, the repair map, messages and the log, holds and voids, the scratchpad and its gather buffer. -/

namespace Sys2Proof.Machine

/-! ### Registers of the dictionary -/

/-- One element of a dictionary entry (R12); a number is its own element 0, element k of an array is at sub-index k + 1. -/
def State.reg (s : State) (idx : Nat) (sub : Nat := 0) : Nat := AMap.get 0 s.dict (regKey idx sub)

def setReg (idx sub v : Nat) : Prog := .one (.reg (regKey idx sub) v)

/-- Adds to an element; it wraps at its width. -/
def addReg (idx sub n : Nat) : Prog := .get fun s => setReg idx sub (s.reg idx sub + n)

/-- Adds to an element that stops at its largest value (R191: FIELD_SLIPS and FIELD_OVERRUNS stop at 0xFFFF_FFFF). -/
def addRegSat (idx sub n : Nat) : Prog :=
  .get fun s => setReg idx sub (min (s.reg idx sub + n) (2 ^ regWidth (regKey idx sub) - 1))

def setRegs (idx : Nat) (vs : List Nat) : Prog :=
  .ups ((List.range vs.length).map fun i => .reg (regKey idx (i + 1)) (vs.getD i 0))

def State.blob (s : State) (idx : Nat) : List Byte := AMap.get [] s.blobs idx

/-! ### Time, beats, positions -/

/-- Wafer time in ns (R369). -/
def State.waferTime (s : State) : Nat := s.now - s.epoch

/-- The beat period in ns (R187). -/
def State.period (s : State) : Nat := s.reg 0x3003

/-- The present beat number: wafer time divided by the beat period (R37). -/
def State.beatNow (s : State) : Nat := s.waferTime / s.period

/-- The physical field of a logical field (R21); 255 when it is not live (R407). -/
def State.physField (s : State) (f : Nat) : Nat := s.reg 0x4007 (f + 1)

def State.fieldLive (s : State) (f : Nat) : Bool := s.physField f != 255

/-- The logical field at a physical field. -/
def State.logicalField (s : State) (p : Nat) : Option Nat := (List.range 80).find? fun f => s.physField f == p

/-- R21: the physical field of logical field f under a skip vector. -/
def mapField (r : Repair) (f : Nat) : Nat :=
  let k := f % 10
  f / 10 * 11 + (if k < AMap.get 10 r.fs (f / 10) then k else k + 1)

/-- R22: the physical position (prow, pcol) of logical core (f, r, c). -/
def mapCore (m : Repair) (f r c : Nat) : Nat × Nat :=
  let j := if c < AMap.get 24 m.cs (f * 32 + r) then c else c + 1
  (if r < AMap.get 24 m.rs (f * 32 + j) then r else r + 1, j)

/-- R22 read backwards: the logical row and column at a physical position; none for a position that holds no logical core. -/
def unmapCore (m : Repair) (f prow pcol : Nat) : Option (Nat × Nat) :=
  let r? := if prow < AMap.get 24 m.rs (f * 32 + pcol) then some prow
    else if prow == AMap.get 24 m.rs (f * 32 + pcol) then none else some (prow - 1)
  r?.bind fun r =>
    if r ≥ 24 then none
    else if pcol < AMap.get 24 m.cs (f * 32 + r) then (if pcol < 24 then some (r, pcol) else none)
    else if pcol == AMap.get 24 m.cs (f * 32 + r) then none else some (r, pcol - 1)

/-- The key of a physical position in the repair records. -/
def posKey (p prow pcol : Nat) : Nat := (p * 32 + prow) * 32 + pcol

/-- Clock of a step, MHz (R364). -/
def stepMhz (k : Nat) : Nat := [700, 650, 600, 550, 500, 450, 350].getD k 350

/-- The step a field runs. -/
def State.fieldStep (s : State) (p : Nat) : Nat := s.reg 0x3005 (p + 1)

/-- Cycles of a physical field in so many ns at its present step; a beat period has a whole number of them at every step (R187). -/
def State.cyclesIn (s : State) (p ns : Nat) : Nat := ns * stepMhz (s.fieldStep p) / 1000

/-- Cycles of a physical field from the last edge taken to this one, and to the present moment. -/
def State.edgeCycles (s : State) (p edge : Nat) : Nat := s.cyclesIn p ((edge - s.beat.last) * s.period)
def State.elapsed (s : State) (p : Nat) : Nat := s.cyclesIn p (s.waferTime - s.beat.last * s.period)

/-! ### Cores -/

def State.core (s : State) (k : Nat) : Core := AMap.get Core.fresh s.cores k
def State.spad (s : State) (k : Nat) : Mem := AMap.get [] s.spads k
/-- The stored row n of a core's scratchpad (R51). -/
def State.row (s : State) (k n : Nat) : Row := Mem.row (s.spad k) n

/-- Reads a core of the wafer; a name of no logical core stops (R10). -/
def withCore (c : CoreId) (k : Core → Prog) : Prog :=
  if c.valid then .get fun s => k (s.core c.key) else .fault (.noSuchCore c.key)

def setCore (k : Nat) (c : Core) : Prog := .one (.core k c)

/-- Index register x; X0 reads 0 (R77). -/
def Core.xreg (c : Core) (i : Nat) : Nat := if i = 0 then 0 else AMap.get 0 c.x i
/-- Predicate p; P0 is 1 (R77). -/
def Core.pred (c : Core) (i : Nat) : Bool := i = 0 || AMap.get 0 c.p i == 1
/-- A PRED field: bit 2 inverts the predicate that bits [1:0] select (R78). -/
def Core.commits (c : Core) (f : Nat) : Bool := c.pred (f % 4) != (f / 4 % 2 == 1)
def Core.setX (c : Core) (i v : Nat) : Core := if i = 0 then c else { c with x := AMap.put 0 c.x i (v % 65536) }
def Core.setP (c : Core) (i : Nat) (v : Bool) : Core := if i = 0 then c else { c with p := AMap.put 0 c.p i (boolNat v) }

/-! ### Performance counters (R420 to R424) -/

/-- Adds n to counter k and gives the wraps past 2^48. -/
def perfBump (v n : Nat) : Nat × Nat := ((v + n) % 2 ^ 48, (v + n) / 2 ^ 48)

/-- One event, n times: every enabled counter that selects it counts, chained counters count the wraps of the one before (R424). -/
def PerfSet.count (p : PerfSet) (event n : Nat) : PerfSet :=
  if p.sel.isEmpty then p
  else
    ((List.range 8).foldl (fun (st : PerfSet × Nat) k =>
      let w := AMap.get 0 st.1.sel k
      let chain := bit w 22
      let d := if !bit w 23 then 0 else if chain then st.2 else if bits w 31 24 == event then n else 0
      let r := perfBump (AMap.get 0 st.1.ctr k) d
      let next := AMap.get 0 p.sel (k + 1)
      let chained := k < 7 && bit next 22 && bit next 23
      ({ st.1 with ctr := AMap.put 0 st.1.ctr k r.1,
                   sticky := if r.2 > 0 && !chained && !bit st.1.sticky k then st.1.sticky + 2 ^ k else st.1.sticky }, r.2)) (p, 0)).1

/-- CYCLES counts up to cycle n of the present segment (R421, R422). -/
def PerfSet.toCycle (p : PerfSet) (n : Nat) : PerfSet :=
  if p.sel.isEmpty || n ≤ p.upTo then p else { p.count 0x01 (n - p.upTo) with upTo := n }

/-- The counters are latched; the copy tells whether repair cleared them, once (R425, R428). -/
def PerfSet.latchNow (p : PerfSet) (time beat : Nat) : PerfSet :=
  { p with latch := some ⟨time, beat, (List.range 8).map fun k => AMap.get 0 p.ctr k, p.sticky, p.cleared⟩, wait := none, cleared := false }

/-- Repair moves the core, so many cycles into its segment: its counters are cleared and keep their selection (R428). -/
def PerfSet.moved (p : PerfSet) (elapsed : Nat) : PerfSet := { p with ctr := [], sticky := 0, latch := none, cleared := true, upTo := elapsed }

def Core.event (c : Core) (event n : Nat) : Core := if n = 0 then c else { c with perf := c.perf.count event n }

/-- The HELD event of a cause (R421), and its bit among the hold causes of a sample (R430). -/
def StallCause.event : StallCause → Nat
  | .guard _ => 0x05
  | .egress _ => 0x06
  | .arrival _ _ => 0x03
  | .barrier _ => 0x04
  | .counter _ => 0x04
def StallCause.sampleBit : StallCause → Nat
  | .guard _ => 4
  | .egress _ => 8
  | .arrival _ _ => 1
  | .barrier _ => 2
  | .counter _ => 2

/-- Everything a held word still waits for (R76). -/
def Core.causes (c : Core) : List StallCause := match c.held with
  | some st => st.cause :: c.heldBy
  | none => []

/-- The word has been held for so many cycles in all: the event of each cause that holds it counts those not yet counted (R421). -/
def Core.countWait (c : Core) (cycles : Nat) : Core :=
  let events := if c.run == .waitEdge then [0x07] else (c.causes.map StallCause.event).eraseDups
  { events.foldl (fun c e => c.event e (cycles - c.heldCnt)) c with heldCnt := max c.heldCnt cycles }

/-- The cycles a held word of a core has waited, at least one (DESIGN CHOICE: cycles of the field's present step, from the stall's beginning in wafer time). -/
def State.heldCycles (s : State) (key : Nat) (c : Core) : Nat := match c.held with
  | some st => max 1 (s.cyclesIn (s.physField (key / 1024)) (s.now - st.since))
  | none => 0

/-- A word that its sampler has tagged and that has not issued is held for causes (R430). -/
def Core.tagHeld (c : Core) (causes : Nat) : Core :=
  { c with tag := c.tag.map fun t => if t.issued then t else { t with causes := t.causes ||| causes } }

/-- The word at pc has waited some cycles: it stands so much later in its segment, and what steps at work claim comes so much nearer (R53, R76). -/
def Core.advanceCycles (c : Core) (n : Nat) : Core :=
  { c with cycle := c.cycle + n, claims := c.claims.filterMap (fun a => if a.1 < n then none else some (a.1 - n, a.2)),
           tag := c.tag.map fun t => if t.issued then t else { t with hold := t.hold + n } }

/-- The wait of a word is ended by a hold: its sample is complete, with cause bit 5 (R74, R430). -/
def Core.tagEnded (c : Core) : Core :=
  { c with tag := c.tag.map fun t => if t.issued then t else { t with causes := t.causes ||| 32, issued := true } }

/-- A step issued with a false predicate is counted (R421, PRED_SUPPRESSED). -/
def Core.suppressed (c : Core) (f : Nat) : Core := c.event 0x0C (boolNat (!c.commits f))

/-- One event of a physical field's hub; the counters of a dark field stand still (R428). -/
def hubEvent (p event n : Nat) : Prog :=
  .get fun s => .when (n > 0 && !AMap.get false s.repair.dark p && !(AMap.get PerfSet.reset s.hubs p).sel.isEmpty)
    (.one (.hub p ((AMap.get PerfSet.reset s.hubs p).count event n)))

/-! ### Messages (R286 to R291) -/

def State.session (s : State) (csp : Bool) (i : Nat) : Session := AMap.get Session.closed (if csp then s.csp else s.col) i
def setSession (csp : Bool) (i : Nat) (x : Session) : Prog := .one (if csp then .csp i x else .col i x)
def protoOf (csp : Bool) : Nat := if csp then 0xC1 else 0xC0
/-- A session id: generation in [31:16], index in [15:0] (R286). -/
def Session.sid (x : Session) (i : Nat) : Nat := x.gen % 65536 * 65536 + i
def Session.usable (x : Session) : Bool := x.live && !x.lost

/-- One datagram on a session's present path. -/
def datagram (csp : Bool) (i : Nat) (x : Session) (typ flags seq : Nat) (payload : List Byte) : Update :=
  let a := (AMap.get none x.paths x.cur).getD (0, 0)
  .sent ⟨x.cur, a.1, a.2, protoOf csp, typ, flags, x.sid i, seq, x.rxSeq, payload⟩

/-- Sends a sequenced message: at once while fewer than 256 are unacknowledged, else from the backlog of 4 096 (R290); a backlog past that loses the session (R291). -/
def sendMsg (csp : Bool) (i typ flags : Nat) (payload : List Byte) : Prog :=
  .get fun s =>
    let x := s.session csp i
    if !x.usable then .done
    else if x.inflight.length < 256 then
      let seq := (x.txSeq + 1) % 2 ^ 32
      .seq [.one (datagram csp i x typ flags seq payload),
        setSession csp i { x with txSeq := seq, ackDue := none, inflight := x.inflight ++ [⟨seq, typ, flags, payload, 0, 0, s.now⟩] }]
    else if x.backlog.length < 4096 then setSession csp i { x with backlog := x.backlog ++ [(typ + 256 * flags, payload)] }
    else setSession csp i { x with lost := true }

/-- Sends an unsequenced message. -/
def sendPlain (csp : Bool) (i typ : Nat) (payload : List Byte) : Prog :=
  .get fun s => .seq [.one (datagram csp i (s.session csp i) typ 0 0 payload), setSession csp i { s.session csp i with ackDue := none }]

/-- Moves waiting messages of the backlog into flight while there is room; called with the room that is left. -/
def pumpBacklog (csp : Bool) (i : Nat) : Nat → Prog
  | 0 => .done
  | n + 1 => .get fun s =>
    let x := s.session csp i
    match x.backlog with
    | [] => .done
    | (t, p) :: rest =>
      if x.inflight.length < 256 then
        (setSession csp i { x with backlog := rest }).andThen ((sendMsg csp i (t % 256) (t / 256) p).andThen (pumpBacklog csp i n))
      else .done

/-! ### The log (R318, R319, R333) -/

/-- The state of an M-core: 0 running, 1 restarting, 2 stopped (R321). -/
def State.mcore (s : State) (m : Nat) : Nat := s.reg 0x8010 (m + 1)

/-- The state of a domain: what M1 has published, but for what it has not read back while it does not run (R351). -/
def State.domain (s : State) (d : Nat) : Nat := if s.mcore 1 = 0 || AMap.get 0 s.power.unseen d = 0 then s.reg 0x200A (d + 1) else AMap.get 0 s.power.unseen d - 1

def hexDigit (n : Nat) : Byte := if n < 10 then BitVec.ofNat 8 (48 + n) else BitVec.ofNat 8 (87 + n)
def hexBytes (bs : List Byte) : List Byte := bs.flatMap fun b => [hexDigit (b.toNat / 16), hexDigit (b.toNat % 16)]

/-- The 64 bytes of a log entry (R318). -/
def logEntry (seq time code sev src : Nat) (payload : List Byte) : List Byte :=
  let p := payload.take 44
  leBytes 8 seq ++ leBytes 8 time ++ leBytes 1 code ++ leBytes 1 sev ++ leBytes 1 src ++ leBytes 1 p.length ++ slice p 0 44

/-- One console line (R333): SEQ TIME CODE SEV SRC payload-in-hex. -/
def logLine (seq time code sev src : Nat) (payload : List Byte) : List Byte :=
  ascii (toString seq) ++ ascii " " ++ ascii (toString time) ++ ascii " " ++ ascii (toString code) ++ ascii " " ++
    ascii (toString sev) ++ ascii " " ++ ascii (toString src) ++ ascii " " ++ hexBytes (payload.take 44)

/-- One EVENT of kind 0 to one COL session, at most 1 000 a second; the first after a loss carries LOST (R297). -/
def eventTo (i sev : Nat) (entry : List Byte) : Prog :=
  .get fun s =>
    let x := s.session false i
    if x.usable && bit x.features 6 && sev ≥ x.level && s.mcore 4 == 0 then
      let w := s.now / 1000000000
      let n := if x.eventWindow == w then x.eventCount else 0
      if n < 1000 then
        (setSession false i { x with eventWindow := w, eventCount := n + 1, eventLost := false }).andThen
          (sendMsg false i 0x30 (if x.eventLost then 4 else 0) (0 :: entry))
      else setSession false i { x with eventLost := true }
    else .done

/-- Appends one entry to the log ring: SEQ and TIME are stamped, entries below LOG_LEVEL are left out, the console shows notices and above (R318, R333). -/
def appendRaw (src code sev : Nat) (payload : List Byte) : Prog :=
  .get fun s =>
    let seq := s.reg 0x8023 + 1
    let e := logEntry seq s.waferTime code sev src payload
    let at_ := 0x0F000000 + 64 * (seq % 65536)
    .seq [setReg 0x8023 0 seq, .one (.sm at_ e), .ups ((List.range 8).map fun w => .smBad (at_ / 8 + w) false),
      .when (sev ≥ 2 && !s.testMode) (.one (.line (logLine seq s.waferTime code sev src payload))),
      .each (List.range 16) fun i => eventTo i sev e]

def appendLog (src code sev : Nat) (payload : List Byte) : Prog :=
  .get fun s => .when (sev ≥ s.reg 0x8020) (appendRaw src code sev payload)

/-- A log entry that the spec orders without giving its code: code, severity and, where none is given, payload are free values. -/
def appendOpen (src kind : Nat) (payload : Option (List Byte)) : Prog :=
  appendLog src (Config.logCode kind).toNat ((Config.logSev kind).toNat % 6) (payload.getD (Config.logPayload kind))

/-- Kinds of such entries: a dropped HBM descriptor, a shared-memory access outside its region, an uncorrectable shared-memory word, a dropped link packet, a link that goes DOWN, a port that failed its self-test, an M-core that the always-on block freezes. -/
def openHbm : Nat := 0
def openRegion : Nat := 1
def openSmEcc : Nat := 2
def openLinkDrop : Nat := 3
def openLinkDown : Nat := 4
def openSelfTest : Nat := 5
def openFreeze : Nat := 6

/-- The owner key of a slot: from the first copy of the enrollment area, else from the second (R314). -/
def State.enrolled (s : State) (slot : Nat) : List Byte :=
  let k := AMap.get [] s.flash.keys slot
  if k.isEmpty then AMap.get [] s.flash.keys (4 + slot) else k

/-! ### Holds and voids (R39, R73, R74) -/

/-- A core stalled for so many cycles when a hold begins stops waiting, without a fault (R74). -/
def Core.stopForHold (c : Core) (cycles : Nat) : Core :=
  if c.held.isSome then { ((c.countWait cycles).advanceCycles cycles).tagEnded with held := none, heldBy := [], run := .stopped } else c

/-- Every stalled core stops waiting (R74). -/
def stopStalled : Prog := .get fun s => .ups (s.cores.map fun kc => .core kc.1 (kc.2.stopForHold (s.heldCycles kc.1 kc.2)))

/-- Edges from one on that the hold in force withholds (R39, R407). -/
def countHolds (edge n : Nat) : Prog :=
  .seq [addReg 0x3043 0 n, .get fun s => .one (.beat { s.beat with
    holdFirst := some (s.beat.holdFirst.getD edge), holdBeats := s.beat.holdBeats + n, sampled := none }),
    .get fun s => setReg 0x400F 0 (s.beat.holdCause * 2 ^ 56 + s.beat.holdBeats % 2 ^ 24 * 2 ^ 32 + s.beat.holdFirst.getD 0 % 2 ^ 32)]

def countHold (edge : Nat) : Prog := countHolds edge 1

/-- The roots of a formed group decide jointly (R274). -/
def jointRoots (s : State) : Bool := s.reg 0x9005 == 2 || s.reg 0x9005 == 3

/-- The slip counted for an edge that is still to come becomes a hold beat: an edge on which both fall counts as a hold only (R39, R190). -/
def slipToHold : Prog :=
  .get fun s => match s.beat.slipMark with
    | none => .done
    | some m => .when (s.waferTime < m.edge * s.period) (.seq [setReg 0x3041 0 m.total, setReg 0x3046 0 m.last,
        .each m.fields fun f => setReg 0x3044 (f.1 + 1) f.2,
        .get fun s => .one (.beat { s.beat with slips := m.run, slipMark := none }), countHold m.edge])

/-- Requests a wafer hold; a hold already in force is joined; one that is complete and waits for the other members of its group, or is released but not yet resumed, is taken up again (R39, R394, R405).  The next candidate edge is withheld even when its sample would have let it through; in a group that verdict has been sent and stands (R274). -/
def requestHold (cause : Nat) : Prog :=
  .get fun s =>
    match s.beat.hold with
    | .requested => .done
    | .complete => (Prog.one (.beat { s.beat with hold := .requested })).andThen stopStalled
    | .released r =>
      .seq [.one (.beat { s.beat with hold := .requested, sampled := Option.none }),
        .when (s.beat.decided = r) (countHold r),
        stopStalled]
    | .none =>
      .seq [.one (.beat { s.beat with hold := .requested, holdCause := cause, holdFirst := Option.none, holdBeats := 0, holdSince := s.waferTime }),
        .when (!jointRoots s) (match s.beat.sampled with
          | some d => if d.take then countHold d.edge else slipToHold
          | none => .done),
        stopStalled]

def holdInForce (s : State) : Bool := s.beat.hold != .none

/-- The packing of 0x4022, 0x4023 and 0x4025 (R57). -/
def packLoc (key low beat : Nat) : Nat := key * 2 ^ 47 + low % 65536 * 2 ^ 31 + beat % 2 ^ 31

/-- The three location bytes of an event (R406). -/
def locBytes (key : Nat) : List Byte := leBytes 1 (key / 1024) ++ leBytes 1 (key / 32 % 32) ++ leBytes 1 (key % 32)

/-- In place of a scratchpad row: the cause names none (an index past LENGTH, a format, a release, a timeout). -/
def noRow : Nat := 65536
/-- The scratchpad-row field of a VOID entry: free where the cause names no row. -/
def voidRowField (key code row beat : Nat) : Nat := if row < 65536 then row else (Config.voidRow code key beat).toNat

/-- Raises a void at a core (R73): issue stops, the fault is recorded and logged, and a wafer hold is requested.  A core already voided raises no second one. -/
def voidCore (key code row : Nat) : Prog :=
  .get fun s =>
    let c := s.core key
    if c.run == .voided then .done
    else .seq [setCore key { c with run := .voided, held := none, heldBy := [], faultCode := code, faultAt := s.waferTime },
      .when (code == 1) (.seq [addReg 0x4021 0 1, setReg 0x4023 0 (packLoc key row s.beatNow)]),
      addReg 0x4024 0 1, setReg 0x4025 0 (packLoc key code s.beatNow), addReg 0x400C 0 1,
      appendLog 3 0x43 3 (locBytes key ++ leBytes 1 code ++ leBytes 2 (voidRowField key code row s.beatNow) ++ leBytes 8 s.beatNow),
      requestHold code]

/-! ### Stored errors (R54 to R56) -/

/-- A row holds a word with an uncorrectable error. -/
def Core.rowBad (c : Core) (n : Nat) : Bool := (List.range 8).any fun w => AMap.get none c.ecc (8 * n + w) == some true

/-- Words of a row with a corrected error. -/
def Core.rowCorrected (c : Core) (n : Nat) : Nat := (List.range 8).countP fun w => AMap.get none c.ecc (8 * n + w) == some false

/-- A full-row write replaces the row's stored errors (R55). -/
def Core.rowFresh (c : Core) (n : Nat) : Core :=
  if c.ecc.isEmpty then c else { c with ecc := c.ecc.filter fun e => e.1 / 8 != n }

/-- Corrected words of a row that is read are counted, and the core keeps the latest such row (R55). -/
def Core.countCorrected (c : Core) (n k : Nat) : Core :=
  if k = 0 then c else Core.event { c with corrected := c.corrected + k, lastCorrected := n } 0x11 k

/-- A row is read as it stands, through the window or by a merge (R55). -/
def Core.countRow (c : Core) (n : Nat) : Core := c.countCorrected n (c.rowCorrected n)

/-- What a step reads at row n holds an uncorrectable word, or so many corrected ones: the row as it stood before the step's word (R55, R56, R76). -/
def Core.readBad (c : Core) (n : Nat) : Bool := match c.old.find? fun o => o.row == n with
  | some o => o.bad
  | none => c.rowBad n
def Core.readCorrected (c : Core) (n : Nat) : Nat := match c.old.find? fun o => o.row == n with
  | some o => o.corrected
  | none => c.rowCorrected n

/-- The rows a step reads are corrected in the read path: each corrected word is counted (R55). -/
def Core.countReads (c : Core) (rows : List Nat) : Core :=
  if c.ecc.isEmpty && c.old.isEmpty then c else rows.foldl (fun c n => c.countCorrected n (c.readCorrected n)) c

/-! ### The gather buffer (R71) -/

/-- The bytes of a row with the bytes of an entry laid over it. -/
def overlay (old new : Row) (mask : Nat) : Row :=
  BitVec.ofNat 512 (leNat ((List.range 64).map fun i =>
    if bit mask i then BitVec.ofNat 8 (bits new.toNat (8 * i + 7) (8 * i)) else BitVec.ofNat 8 (bits old.toNat (8 * i + 7) (8 * i))))

def Core.gatherEntry (c : Core) (n : Nat) : Option GatherEntry := c.gather.find? fun g => g.row == n

/-- What a unit reads at row n: the stored row with the bytes of a pending entry over it (R71 item 4). -/
def State.unitRow (s : State) (k : Nat) (c : Core) (n : Nat) : Row :=
  match c.gatherEntry n with
  | some g => overlay (s.row k n) g.data g.mask
  | none => s.row k n

/-- The whole mask. -/
def fullMask : Nat := 2 ^ 64 - 1

/-- Writes a whole row: the bank takes it, a pending entry of the row is discarded (R71 item 5), its stored errors are gone (R55). -/
def writeRow (k n : Nat) (r : Row) : Prog :=
  .get fun s =>
    let c := s.core k
    .seq [setCore k { c.rowFresh n with gather := c.gather.filter fun g => g.row != n }, .one (.spad k (64 * n) (rowBytes r))]

/-- Flushes the entry of row n: a merge read and a write of the merged row (R71 item 3); an uncorrectable word in an incomplete entry's merge read raises a void (R56), and the entry is discarded (DESIGN CHOICE: the spec does not say what becomes of its bytes). -/
def flushGather (k n : Nat) : Prog :=
  .get fun s =>
    let c := s.core k
    match c.gatherEntry n with
    | none => .done
    | some g =>
      if g.mask == fullMask then writeRow k n g.data
      else if c.rowBad n then
        .seq [setCore k { c.countRow n with gather := c.gather.filter fun e => e.row != n }, voidCore k 1 n]
      else .seq [setCore k ((c.countRow n).event 0x10 1), writeRow k n (overlay (s.row k n) g.data g.mask)]

/-- A narrow write: it merges into the row's entry or takes a free one; a complete entry is flushed (R71).  With every entry in use the oldest is flushed first (R71 item 3). -/
def narrowWrite (k n : Nat) (data : Row) (mask : Nat) : Prog :=
  .get fun s =>
    let c := s.core k
    match c.gatherEntry n with
    | some g =>
      .seq [setCore k { c with gather := c.gather.map fun e =>
            if e.row == n then { e with data := overlay g.data data mask, mask := g.mask ||| mask } else e },
        .when ((g.mask ||| mask) == fullMask) (flushGather k n)]
    | none =>
      .seq [.when (c.gather.length ≥ 64) (match c.gather with
          | g :: _ => flushGather k g.row
          | [] => .done),
        .get fun s' =>
          let c' := s'.core k
          .seq [setCore k { c' with gather := c'.gather ++ [⟨n, overlay 0 data mask, mask⟩] },
            .when (mask == fullMask) (flushGather k n)]]

/-! ### Arrival counters and guards (R62, R63, R67) -/

/-- Handle entry fields (R58). -/
def hBase (h : Nat) : Nat := bits h 127 112
def hLength (h : Nat) : Nat := bits h 111 96
def hMode (h : Nat) : Nat := bits h 95 94
def hFmt (h : Nat) : Nat := bits h 93 90
def hGuarded (h : Nat) : Bool := bit h 89
def hGctr (h : Nat) : Nat := bits h 88 84
def hGtarget (h : Nat) : Nat := bits h 83 68
def hStride (h : Nat) : Nat := bits h 67 52
def hRun (h : Nat) : Nat := bits h 51 44
def hFull (h : Nat) : Bool := bit h 43
def hSetFull (h : Nat) (full : Bool) : Nat := if full == hFull h then h else if full then h + 2 ^ 43 else h - 2 ^ 43

def Core.handle (c : Core) (i : Nat) : Nat := AMap.get 0 c.handles i
def Core.counter (c : Core) (i : Nat) : Nat := AMap.get 0 c.ctr i

/-- A counter meets a target: their difference as a signed 16-bit number is zero or greater (R63). -/
def meets16 (ctr target : Nat) : Bool := (ctr + 65536 - target % 65536) % 65536 < 32768

/-- Every guarded handle in FILL whose counter meets its target becomes FULL (R67). -/
def Core.settleGuards (c : Core) : Core :=
  { c with handles := c.handles.map fun kv =>
      (kv.1, if hGuarded kv.2 && !hFull kv.2 && meets16 (c.counter (hGctr kv.2)) (hGtarget kv.2) then hSetFull kv.2 true else kv.2) }

/-- Sets an arrival counter, and settles the guards (R63, R67). -/
def Core.setCtr (c : Core) (i v : Nat) : Core := Core.settleGuards { c with ctr := AMap.put 0 c.ctr i (v % 65536) }
/-- Advances an arrival counter (R62). -/
def Core.advance (c : Core) (i n : Nat) : Core := c.setCtr i (c.counter i + n)

/-! ### Free values -/

/-- Draws the next free value. -/
def drawFree (k : Nat → Prog) : Prog := .get fun s => .upd .drawn (k (Config.free s.free).toNat)

end Sys2Proof.Machine
end

