-- ==== Sys2Proof/Machine/Limits.lean ====
section
/-! DEFINITION. What the management families share: answers to a write, M-core logs, ticks, step limits and the ledger (R14, R15, R293, R294, R312, R353 to R357, R366, R367). -/

namespace Sys2Proof.Machine

/-! ### Numbers in dictionary entries -/

/-- A rational as an F32 entry, rounded to nearest. -/
def f32Rat (n : Int) (d : Nat) : Nat := if n = 0 then 0 else Fmt.fp32.round (n < 0) n.natAbs d 0

/-- The integer square root, by bits. -/
def isqrtGo (n : Nat) : Nat → Nat → Nat
  | 0, r => r
  | b + 1, r => if (r + 2 ^ b) * (r + 2 ^ b) ≤ n then isqrtGo n b (r + 2 ^ b) else isqrtGo n b r
def isqrt (n : Nat) : Nat := isqrtGo n (n.log2 / 2 + 1) 0

/-! ### Answers to a write (R15, R293, R294) -/

/-- STATUS and ACCESS of an entry, and whether the command's status comes later. -/
structure Answer where
  status : Nat
  access : Nat
  pending : Bool
  deriving DecidableEq, Repr

def Answer.ok : Answer := ⟨0, 0, false⟩
/-- A status code of R15. -/
def Answer.code (c : Nat) : Answer := ⟨c, 0, false⟩
/-- The dictionary refuses the entry. -/
def Answer.refuse (a : Nat) : Answer := ⟨0xFF, a, false⟩
def Answer.later : Answer := ⟨0, 0, true⟩
def Answer.notOwner : Answer := .code 0x40
def Answer.busy : Answer := .code 0x41

/-- The live COL session of a SID. -/
def State.colSid (s : State) (sid : Nat) : Option Nat :=
  let i := sid % 65536
  let x := s.session false i
  if i < 16 && x.usable && x.sid i == sid then some i else none

/-- The live CSP session of a SID. -/
def State.cspSid (s : State) (sid : Nat) : Option Nat :=
  let i := sid % 65536
  let x := s.session true i
  if i < 1024 && x.usable && x.sid i == sid then some i else none

/-- A client that holds a session owns the device (R295). -/
def State.owns (s : State) (sid : Nat) : Bool := sid != 0 && s.owner.sid == sid

/-- A write by a client's session while M4 serves, from step 4 of a start on (R384); else nothing answers. -/
def servedWrite (sid : Nat) (p : Prog) : Prog :=
  .get fun s => if (s.colSid sid).isNone || s.mcore 4 != 0 || s.reg 0x4002 < 4 then .done else p

/-- A write of an owner-only entry: another client is answered NOT_OWNER (R14). -/
def ownerWriteAny (sid : Nat) (k : Answer → Prog) (body : (Answer → Prog) → Prog) : Prog :=
  servedWrite sid (.get fun s => if s.owns sid then body k else k .notOwner)

/-- A device whose start has failed takes no other write than START (R387). -/
def ownerWrite (sid : Nat) (k : Answer → Prog) (body : (Answer → Prog) → Prog) : Prog :=
  servedWrite sid (.get fun s => if s.reg 0x4000 = 3 then k (.refuse 3) else if s.owns sid then body k else k .notOwner)

/-- A write that any client may make. -/
def anyWrite (sid : Nat) (k : Answer → Prog) (body : (Answer → Prog) → Prog) : Prog :=
  servedWrite sid (.get fun s => if s.reg 0x4000 = 3 then k (.refuse 3) else body k)

/-- An entry of a feature outside the session's negotiated set is reserved (R293, R297). -/
def featureOr (bitNo : Nat) (sid : Nat) (k : Answer → Prog) (body : (Answer → Prog) → Prog) : Prog :=
  .get fun s => match s.colSid sid with
    | some i => if bit (s.session false i).features bitNo then body k else k (.refuse 1)
    | none => .done

/-- Records the status of a command entry: a read of the entry returns it (R13). -/
def recordStatus (idx : Nat) (a : Answer) : Prog :=
  if a.access = 0 && a.status != 0x40 && !a.pending then setReg idx 0 a.status else .done

/-- Under what a pending command is kept: its index and, where several may be pending that end in any order, its dance-card entry (PAUSE_EXPORT, PAUSE_IMPORT), field (FIELD_BIST) or link (LINK_RESTORE). -/
def cmdKey (idx e : Nat) : Nat := if [0x4010, 0x5020, 0x5021, 0x9021].contains idx then idx + 65536 * (e + 1) else idx

/-- What a command's value names that `cmdKey` tells apart. -/
def cmdUnit (idx : Nat) (v : List Byte) : Nat := field v 0 (if idx = 0x5020 || idx = 0x5021 then 2 else 1)

/-- A write of a CMD entry; a pending command remembers its session, behind those of the same key that wait already (R294). -/
def ownerCmdAt (key idx sid : Nat) (k : Answer → Prog) (body : (Answer → Prog) → Prog) : Prog :=
  ownerWrite sid k fun k' => body fun a => .seq [recordStatus idx a, .when a.pending (.get fun s => .one (.cmd key (AMap.get [] s.cmds key ++ [sid]))), k' a]
def ownerCmd (idx sid : Nat) (k : Answer → Prog) (body : (Answer → Prog) → Prog) : Prog := ownerCmdAt idx idx sid k body

/-- An EVENT of kind 1 to the session that waits for it; while M4 does not run it waits with M4's own entries (R291). -/
def cmdEvent (sid : Nat) (payload : List Byte) : Prog :=
  .get fun s =>
    if s.mcore 4 != 0 then .one (.deferred 6 (AMap.get [] s.deferred 6 ++ [(sid, 0, payload)]))
    else match s.colSid sid with
      | some i => sendMsg false i 0x30 0 payload
      | none => .done

/-- The oldest pending command of a key reaches its status: it is recorded, and its session gets an EVENT of kind 1 (R294). -/
def finishCmdAt (key idx status : Nat) : Prog :=
  .get fun s => (setReg idx 0 status).andThen (match AMap.get [] s.cmds key with
    | [] => .done
    | sid :: rest => (Prog.one (.cmd key rest)).andThen (cmdEvent sid (1 :: (leBytes 2 idx ++ leBytes 1 0 ++ leBytes 1 status))))
def finishCmd (idx status : Nat) : Prog := finishCmdAt idx idx status
/-- PAUSE_EXPORT or PAUSE_IMPORT of an entry is over. -/
def finishImage (idx e status : Nat) : Prog := finishCmdAt (cmdKey idx e) idx status

/-- M4 is back: the EVENTs that waited for it. -/
def sendWaitingEvents : Prog :=
  .get fun s => .seq [.one (.deferred 6 []), .each (AMap.get [] s.deferred 6) fun d => cmdEvent d.1 d.2.2]

/-! ### M-cores and ticks -/

/-- The SRC byte of the sync-network root, which logs without firmware (R318, R379). -/
def srcRoot : Nat := 0x30

def State.running (s : State) (m : Nat) : Bool := s.mcore m == 0

/-- An entry that M-core m logs; while it does not run, the entry waits for its return (R312, R362). -/
def mlog (m code sev : Nat) (payload : List Byte) : Prog :=
  .get fun s =>
    if s.running m then appendLog m code sev payload
    else .one (.deferred m (AMap.get [] s.deferred m ++ [(code, sev, payload)]))

/-- Kinds of ticks. -/
def tkPower : Nat := 1
def tkDiode : Nat := 2
def tkThrottle : Nat := 3
def tkCoolant : Nat := 4
def tkCooling : Nat := 5
def tkRain : Nat := 6
def tkSample : Nat := 7
def tkClamp : Nat := 8
def tkAnnounce : Nat := 9
def tkAdmission : Nat := 10

/-- A task of M-core m that misses its bound of R310: counted and logged, with the row of R310's table from 0.  DESIGN CHOICE: the number of a task. -/
def deadlineMissed (m task us : Nat) : Prog :=
  .seq [addReg 0x8013 (m + 1) 1, mlog m 0x15 3 (leBytes 1 m ++ leBytes 2 task ++ leBytes 4 us)]

/-- The bound of a periodic task that R310 gives one, with its row: the 1 ms tick of M1 and the diode scan of M2. -/
def taskBound (kind : Nat) : Option (Nat × Nat) := if kind = tkPower then some (1, 200000) else if kind = tkDiode then some (3, 100000) else none

/-- A periodic task of M-core m: time goes on to one period after its last run; it does nothing while the M-core does not run.  A run that comes later than its bound allows is a missed deadline. -/
def periodic (m kind period : Nat) (p : Prog) : Prog :=
  .get fun s =>
    .when (s.running m) (.get fun s =>
      let due := AMap.get 0 s.ticks kind + period
      let t := max s.now due
      .seq [.one (.time t), .one (.tick kind t), p,
        match taskBound kind with
        | some b => .when (AMap.get 0 s.ticks kind != 0 && s.now > due + b.2) (deadlineMissed m b.1 ((s.now - due) / 1000))
        | none => .done])

/-- What follows the last run of M-core m's periodic tasks: after a restart they count from now. -/
def restartTicks (m : Nat) : Prog :=
  .get fun s => .ups (([(1, tkPower), (2, tkDiode)].filter fun x => x.1 == m && AMap.get 0 s.ticks x.2 != 0).map fun x => .tick x.2 s.now)

/-- One bit of MODULE_INPUTS (R339). -/
def setInputBit (b : Nat) (v : Bool) : Prog := .get fun s => setReg 0x1020 0 (s.reg 0x1020 - bits (s.reg 0x1020) b b * 2 ^ b + boolNat v * 2 ^ b)

/-! ### Clock steps (R364, R366, R367) -/

/-- Sources of step limits in the order of R366. -/
def srcOwner : Nat := 0
def srcThermal : Nat := 1
def srcMargin : Nat := 2
def srcCap : Nat := 3
def srcCatch : Nat := 4
def srcOverdraw : Nat := 5
def srcOvercurrent : Nat := 6
def srcRamp : Nat := 7

def limitOf (w src : Nat) : Nat := bits w (3 * src + 2) (3 * src)
def withLimit (w src v : Nat) : Nat := w - limitOf w src * 2 ^ (3 * src) + min v 6 * 2 ^ (3 * src)
/-- The effective step: the largest of the limits. -/
def effectiveOf (w : Nat) : Nat := (List.range 8).foldl (fun a i => max a (limitOf w i)) 0

def State.limits (s : State) (p : Nat) : Nat := s.reg 0x3006 (p + 1)
def State.limit (s : State) (p src : Nat) : Nat := limitOf (s.limits p) src
def State.effective (s : State) (p : Nat) : Nat := effectiveOf (s.limits p)
/-- The step its register holds: a written request, else the present step. -/
def State.stepTarget (s : State) (p : Nat) : Nat :=
  let r := AMap.get 0 s.thermal.stepReq p
  if r = 0 then s.fieldStep p else r - 1

def setThermal (f : Thermal → Thermal) : Prog := .get fun s => .one (.thermal (f s.thermal))
def setPower (f : Power → Power) : Prog := .get fun s => .one (.power (f s.power))

/-- Set point of a step, mV (VSET_MV). -/
def State.vset (s : State) (k : Nat) : Nat := s.reg 0x200F (k + 1)

/-- An FP32 number in units of 2^-149; none for a NaN or an infinity. -/
def f32Scaled (x : Nat) : Option Int := match Fmt.fp32.decode x with
  | .fin neg m e => some (if neg then -((m * 2 ^ (e + 149).toNat : Nat) : Int) else ((m * 2 ^ (e + 149).toNat : Nat) : Int))
  | _ => none
/-- Its whole part. -/
def f32Int (x : Nat) : Int := (f32Scaled x).getD 0 / 2 ^ 149

def gMargin : Nat := 3
def calKey (g i : Nat) : Nat := g * 4096 + i
/-- Both values of a calibration item are agreed ones (R414). -/
def State.calAgreed (s : State) (g i : Nat) : Bool := AMap.get 0 s.calib.parts (calKey g i) == 3
/-- The calibration value in force: an agreed one, else the default; a trim is 0 by default. -/
def State.calValue (s : State) (g i : Nat) : Nat × Nat :=
  let w := AMap.get 0 s.calib.values (calKey g i)
  let d := if w != 0 then w - 1 else if g = gMargin && 1056 ≤ i then 0 else (Config.calDefault g i).toNat
  (d % 2 ^ 32, d / 2 ^ 32)

/-- The trim of a field's set point, mV (R410, R414): 0 until it is calibrated, and never beyond 30 mV (R345). -/
def State.trim (s : State) (p : Nat) : Int := max (-30) (min 30 (f32Int (s.calValue gMargin (1056 + p)).1))
/-- Sense pairs of a field's rail (0 logic, 1 array) that regulate. -/
def State.sensePairs (s : State) (p rail : Nat) : Nat := (List.range 4).countP fun i => !bit (AMap.get 0 s.power.pairs (2 * p + rail)) i
/-- With fewer than two of them the regulator regulates on its own output, 30 mV higher (R348). -/
def State.senseRaise (s : State) (p rail : Nat) : Nat := if s.sensePairs p rail < 2 then 30 else 0
/-- Set point of a field's logic rail at a step, and of its array rail. -/
def State.fieldVset (s : State) (p k : Nat) : Nat := ((s.vset k : Int) + s.trim p).toNat + s.senseRaise p 0
def State.arrayVset (s : State) (p : Nat) : Nat := 750 + s.senseRaise p 1

/-- Brings a field's register to its effective step: a slower step is written at once, a faster one goes through M1, which first raises the set point; while M1 or M2 does not run no field becomes faster (R355, R367, R380). -/
def settleStep (p : Nat) : Prog :=
  .get fun s =>
    let e := s.effective p
    let t := s.stepTarget p
    if e > t then setThermal fun th => { th with stepReq := AMap.put 0 th.stepReq p (e + 1), raises := AMap.put none th.raises p none }
    else if e < t && s.running 1 && s.running 2 then
      setThermal fun th => { th with raises := AMap.put none th.raises p (some (s.now, e)),
                                     setPoint := AMap.put 0 th.setPoint p (max (s.fieldVset p e) (AMap.get 0 th.setPoint p)) }
    else setThermal fun th => { th with raises := AMap.put none th.raises p none }

/-- Sets one step limit of a physical field (R366). -/
def setLimit (p src v : Nat) : Prog :=
  .get fun s =>
    let w := withLimit (s.limits p) src v
    if w = s.limits p then .done
    else
      .seq [setReg 0x3006 (p + 1) w, .when (effectiveOf w != s.effective p) (addReg 0x3009 0 1), settleStep p]

/-! ### The ledger (R353, R354) -/

/-- Peaks of one field at each step, in hundredths of A(L) (R345). -/
def fieldPeak (k : Nat) : Nat := [704, 635, 568, 506, 439, 376, 274].getD k 274

/-- Rows of the price table, from 0 (R354, R361). -/
def actTumbler : Nat := 1
def actField : Nat := 2
def actBist : Nat := 3
def actModel : Nat := 4
def actStep : Nat := 5
def actHbm : Nat := 6
def actLink : Nat := 7
def actPort : Nat := 8
def ledgerKey (action unit : Nat) : Nat := action * 1024 + unit

def sumOf (m : AMap Nat) : Nat := m.foldl (fun a kv => a + kv.2) 0
/-- The granted total: grants and reservations. -/
def State.grantedTotal (s : State) : Nat := sumOf s.power.grants + sumOf s.power.reserved

/-- V_min in mV: the lowest 1 ms average of the last second; 54 V before any reading. -/
def State.vMin (s : State) : Nat := (s.power.volts.map (·.2)).foldl min 54000

/-- Bus converters that work; one that is latched off while M1 does not run is published later. -/
def State.workingConverters (s : State) : Nat := (List.range 24).countP fun i => s.reg 0x2008 (i + 1) == 1 && !s.power.deadBc.contains i

/-- The capacity for a limit of l amps, in hundredths of A(L), times 54 000 (R353). -/
def State.capacityFor (s : State) (l : Nat) : Nat := min (l * 100 * min s.vMin 54000) (2890 * s.workingConverters * 54000)
def State.capacity (s : State) : Nat := s.capacityFor (s.reg 0x2000)

/-- M1, while it runs, publishes the ledger's entries (R312, R363). -/
def publishLedger : Prog :=
  .get fun s => .when (s.running 1) <| .ups [.reg (regKey 0x2001 0) (f32Rat s.capacity 5400000), .reg (regKey 0x2002 0) (f32Rat (sumOf s.power.grants) 100),
    .reg (regKey 0x2003 0) (f32Rat (sumOf s.power.reserved) 100)]

/-- Sets what a key of the ledger is granted, or what is reserved for it. -/
def setGrant (key v : Nat) : Prog := (setPower fun p => { p with grants := AMap.put 0 p.grants key v }).andThen publishLedger
def setReserve (key v : Nat) : Prog := (setPower fun p => { p with reserved := AMap.put 0 p.reserved key v }).andThen publishLedger

/-- Whether n more hundredths of A(L) fit. -/
def State.fits (s : State) (n : Nat) : Bool := (s.grantedTotal + n) * 54000 ≤ s.capacity
/-- C is below the granted total: no grant is made (R359). -/
def State.overGranted (s : State) : Bool := s.capacity < s.grantedTotal * 54000
/-- The shortfall of a request in tenths of A(L), rounded up. -/
def State.shortBy (s : State) (n : Nat) : Nat := ceilDiv ((s.grantedTotal + n) * 54000 - s.capacity) 540000

/-- Refuses a request of the ledger: counted and logged (R353, R361). -/
def refuseLedger (requester action short : Nat) : Prog :=
  .seq [addReg 0x2004 0 1, mlog 1 0x20 2 (leBytes 1 requester ++ leBytes 1 action ++ leBytes 2 (min short 0xFFFF))]

/-- What needs a new grant waits while M1 does not run (R312). -/
def needM1 (w : GrantWait) (later p : Prog) : Prog :=
  .get fun s => if s.running 1 then p else (setPower fun x => { x with waiting := x.waiting ++ [w] }).andThen later

/-- A grant, drawn at once; refused with the shortfall in tenths. -/
def askGrant (requester action unit n : Nat) (ok : Prog) (no : Nat → Prog) : Prog :=
  .get fun s =>
    let key := ledgerKey action unit
    if s.fits n then (setGrant key (AMap.get 0 s.power.grants key + n)).andThen ok
    else (refuseLedger requester action (s.shortBy n)).andThen (no (s.shortBy n))

/-- A reservation, likewise. -/
def askReserve (requester action unit n : Nat) (ok : Prog) (no : Nat → Prog) : Prog :=
  .get fun s =>
    let key := ledgerKey action unit
    if s.fits n then (setReserve key (AMap.get 0 s.power.reserved key + n)).andThen ok
    else (refuseLedger requester action (s.shortBy n)).andThen (no (s.shortBy n))

/-- Releases what a key holds. -/
def releaseGrant (action unit : Nat) : Prog :=
  (setPower fun p => { p with grants := AMap.put 0 p.grants (ledgerKey action unit) 0,
                              reserved := AMap.put 0 p.reserved (ledgerKey action unit) 0 }).andThen publishLedger

/-! ### Domains (R351) -/

def domOff : Nat := 0
def domRamp : Nat := 1
def domOn : Nat := 2
def domIsolated : Nat := 3
def setDomain (d v : Nat) : Prog := setReg 0x200A (d + 1) v

/-- What M1 does when it reads a domain back: its state is published, and the grants of one that went off are released (R351, R354); a field whose soft start is over gives back the ramp surcharge. -/
def readBack (d v : Nat) : Prog :=
  let grant (action unit : Nat) : Prog := releaseGrant action unit
  (setDomain d v).andThen <|
    if v = domOn then (if d < 88 then .get fun s => setGrant (ledgerKey actField d) (AMap.get 0 s.power.grants (ledgerKey actField d) - 50) else .done)
    else if d < 88 then .seq [grant actField d, grant actBist d, grant actStep d]
    else if d < 176 then .done
    else if d < 192 then grant actLink (d - 176)
    else if d < 216 then (grant actHbm (d - 192)).andThen (setReg 0x200E (d - 192 + 1) 0)
    else if d < 218 then grant actPort (d - 216)
    else if d = 218 then grant actTumbler 0 else .done

/-- A domain changes without firmware: M1 reads it back at once, or when it returns (R312, R351). -/
def domainBecomes (d v : Nat) : Prog :=
  .get fun s => if s.running 1 then readBack d v else setPower fun p => { p with unseen := AMap.put 0 p.unseen d (v + 1) }

/-- A physical field that stops: its logic goes dark, its logical field is lost and a wafer hold is raised (R350, R374, R393).  With its array rail off its scratchpads are empty. -/
def loseField (p : Nat) (arrayOff : Bool) : Prog :=
  .get fun s =>
    let r := s.repair
    .seq [.one (.repair { r with dark := AMap.put false r.dark p true, lost := if r.lost.contains p then r.lost else r.lost ++ [p] }),
      match s.logicalField p with
      | some f =>
        .ups ((s.cores.filter fun kc => kc.1 / 1024 == f).map (fun kc => .core kc.1 { kc.2 with run := .stopped, held := none, heldBy := [] }) ++
          (if arrayOff then (s.spads.filter fun kc => kc.1 / 1024 == f).map fun kc => .spadAll kc.1 [] else []))
      | none => .done,
      requestHold 0x10]

end Sys2Proof.Machine
end

