-- ==== Sys2Proof/Machine/Choreo.lean ====
section
/-! DEFINITION. What a held choreography says: its bytes in the staged binary, its header, its sections and its cores (R197 to R205). -/

namespace Sys2Proof.Machine

/-! ### HBM addresses (R97, R197) -/

/-- Bytes of a stack: 36 GiB (R97). -/
def stackBytes : Nat := 0x900000000
/-- The model's address of a byte of a stack. -/
def hbmAddr (stack a : Nat) : Nat := stack * 2 ^ 36 + a
/-- The first byte of image region n in every stack (R197). -/
def regionBase (r : Nat) : Nat := r * 0x180000000
/-- Byte o of the staged binary of a region: striped over the stacks in 4 KiB blocks (R197). -/
def stagedAddr (region o : Nat) : Nat :=
  hbmAddr (o / 4096 % 24) (regionBase region + 0x17C000000 + o / 4096 / 24 * 4096 + o % 4096)

def State.model (s : State) (slot : Nat) : Model := AMap.get Model.none s.models slot
def Model.held (m : Model) : Bool := !m.digest.isEmpty

/-- n bytes of a staged binary. -/
def State.staged (s : State) (region off n : Nat) : List Byte := (List.range n).map fun i => Mem.byte s.hbm (stagedAddr region (off + i))
/-- A little-endian field of a model's binary. -/
def State.bin (s : State) (m : Model) (off n : Nat) : Nat := leNat (s.staged m.region off n)

/-! ### The header (R198) -/

def State.hRole (s : State) (m : Model) : Nat := s.bin m 6 1
def State.hBeat (s : State) (m : Model) : Nat := s.bin m 7 1
def State.hNsect (s : State) (m : Model) : Nat := s.bin m 8 4
def State.hBlen (s : State) (m : Model) : Nat := s.bin m 16 8
def State.hVocab (s : State) (m : Model) : Nat := s.bin m 88 4
def State.hCadence (s : State) (m : Model) : Nat := s.bin m 92 2
def State.hWideDepth (s : State) (m : Model) : Nat := s.bin m 94 2
def State.hListLen (s : State) (m : Model) : Nat := s.bin m 96 2
def State.hWays (s : State) (m : Model) : Nat := s.bin m 98 2
def State.hHotSlots (s : State) (m : Model) : Nat := s.bin m 100 2
def State.hSelect (s : State) (m : Model) : Nat := s.bin m 102 1
def State.hFrames (s : State) (m : Model) : Nat := s.bin m 104 4
def State.hPeak (s : State) (m : Model) : Nat := s.bin m 108 2
def State.hGroup (s : State) (m : Model) : Nat := s.bin m 110 1
def State.hMember (s : State) (m : Model) : Nat := s.bin m 111 1
def State.hFieldMask (s : State) (m : Model) : Nat := s.bin m 112 10
def State.hCandOffset (s : State) (m : Model) : Nat := s.bin m 122 2

/-- The logical fields of FIELDS. -/
def State.hFields (s : State) (m : Model) : List Nat := (List.range 80).filter fun f => bit (s.hFieldMask m) f

/-- The slot, main or lead, whose running choreography names a logical field. -/
def State.fieldSlot (s : State) (f : Nat) : Option Nat :=
  [0, 1].find? fun i => (s.model i).running && bit (s.hFieldMask (s.model i)) f

/-! ### Sections (R199) -/

/-- The length and offset of a section; (0, 0) when it is absent. -/
def State.section_ (s : State) (m : Model) (typ : Nat) : Nat × Nat :=
  match (List.range (s.hNsect m)).find? fun k => s.bin m (256 + 16 * k) 2 == typ with
  | some k => (s.bin m (256 + 16 * k + 4) 4, s.bin m (256 + 16 * k + 8) 8)
  | none => (0, 0)

def State.secLen (s : State) (m : Model) (typ : Nat) : Nat := (s.section_ m typ).1
def State.secOff (s : State) (m : Model) (typ : Nat) : Nat := (s.section_ m typ).2

/-- The offset of figure id in the FIGURES pool: each is a word count and its words. -/
def figureAt (s : State) (m : Model) : Nat → Nat → Nat
  | 0, o => o
  | n + 1, o => figureAt s m n (o + 4 + 16 * s.bin m o 4)

/-! ### Cores (R200 to R202) -/

/-- The core that three bytes of the binary name: field, row, column.  A row or column beyond 23 names none: its key has row 31. -/
def coreNamed (s : State) (m : Model) (o : Nat) : Nat :=
  let r := s.bin m (o + 1) 1
  let k := s.bin m (o + 2) 1
  s.bin m o 1 * 1024 + if r < 24 ∧ k < 24 then r * 32 + k else 1023

/-- One assignment record: its core and its ids. -/
structure CoreRec where
  key : Nat
  flags : Nat
  figure : Nat
  handles : Nat
  routes : Nat
  sync : Nat
  config : Nat
  router : Nat
  deriving DecidableEq, Repr

def coreRecAt (s : State) (m : Model) (o : Nat) : CoreRec :=
  ⟨coreNamed s m o, s.bin m (o + 3) 1, s.bin m (o + 4) 2, s.bin m (o + 6) 2,
    s.bin m (o + 8) 2, s.bin m (o + 10) 2, s.bin m (o + 12) 2, s.bin m (o + 14) 2⟩

/-- Every assignment record of the CORES section. -/
def State.coreRecs (s : State) (m : Model) : List CoreRec :=
  (List.range (s.secLen m 1 / 16)).map fun i => coreRecAt s m (s.secOff m 1 + 16 * i)

def State.coreRec (s : State) (m : Model) (key : Nat) : Option CoreRec := (s.coreRecs m).find? fun r => r.key == key

/-- A map of n entries of w bytes each at an offset; zero entries are left out. -/
def tableOf (s : State) (m : Model) (off n w : Nat) : AMap Nat :=
  (List.range n).filterMap fun i => let v := s.bin m (off + w * i) w; if v = 0 then none else some (i, v)

/-- The offset of a record's configuration set. -/
def State.configOff (s : State) (m : Model) (r : CoreRec) : Nat := s.secOff m 6 + 704 * r.config

/-- The 256-bit staging configuration of a record.  DEDUCED: its engine runs where both EN and flag bit 0 of the record enable it (R157, R200). -/
def State.stagingOf (s : State) (m : Model) (r : CoreRec) : Nat :=
  let w := s.bin m (s.configOff m r + 352) 32
  setBits w 136 136 (bits w 136 136 * (r.flags % 2))

/-- One byte field of a record's serving block (R202). -/
def State.servingOf (s : State) (m : Model) (r : CoreRec) (off n : Nat) : Nat := s.bin m (s.configOff m r + 640 + off) n

/-- What a core keeps when its figure starts: the bytes its gather buffer holds, its counters and its sampler, its stored errors, what its hub has yet to report.  A word that was tagged and had not issued is tagged no more: the next word is (R429).  DESIGN CHOICE: packets that its egress queue, its ingress FIFO and its park slots still hold are dropped. -/
def keptCore (c : Core) : Core :=
  { Core.fresh with
    gather := c.gather, pins := c.pins, perf := c.perf, figureRead := c.figureRead, samples := c.samples, ctlHigh := c.ctlHigh,
    tagAt := if c.tag.any (fun t => !t.issued) then some 0 else c.tagAt, tag := c.tag.filter (·.issued), seg := c.seg,
    winRow := c.winRow, winOff := c.winOff, clamps := c.clamps, inlineVerdicts := c.inlineVerdicts, reportCount := c.reportCount,
    corrected := c.corrected, lastCorrected := c.lastCorrected, ecc := c.ecc, reports := c.reports, lateReports := c.lateReports }

/-- A core as it stands at its figure's start: its tables from the binary, the rest of its named state at the initial values of R77's table (R212, R396); a guarded handle whose counter meets its target already is FULL (R67).  Word 0 is a BEAT that waits for the start edge (R103): when it holds no other step the core stands behind it; else the word has yet to issue (R76). -/
def startCore (s : State) (m : Model) (r : CoreRec) (c : Core) : Core :=
  let fo := figureAt s m r.figure (s.secOff m 2)
  let n := s.bin m fo 4
  let g := s.configOff m r
  let hs := tableOf s m (s.secOff m 3 + 1024 * r.handles) 64 16
  let bare := s.bin m (fo + 4) 16 / 2 ^ 16 == 0
  Core.settleGuards { keptCore c with
    run := if n = 0 then .idle else .loaded, pc := if n = 0 || !bare then 0 else 1, left := if bare then 0 else 1,
    next := bits (s.bin m (fo + 4) 2) 9 0, words := n, cycle := s.elapsed (s.physField (r.key / 1024)),
    store := (List.range n).map fun i => (i, s.bin m (fo + 4 + 16 * i) 16),
    handles := hs.map fun kv => (kv.1, hSetFull kv.2 false),
    routes := if r.routes = 0xFFFF then [] else tableOf s m (s.secOff m 4 + 1024 * r.routes) 64 16,
    sync := if r.sync = 0xFFFF then [] else tableOf s m (s.secOff m 5 + 4 + 256 * r.sync) 32 8,
    tgt := tableOf s m g 32 2, ctr := tableOf s m (g + 64) 32 2, loops := tableOf s m (g + 128) 16 8,
    apCfg := tableOf s m (g + 256) 4 16, tileCfg := tableOf s m (g + 320) 4 8, staging := s.stagingOf m r,
    seeds := tableOf s m (g + 384) 32 8,
    router := if r.router = 0xFFFF then [] else tableOf s m (s.secOff m 7 + 128 * r.router) 16 8 }

/-- A loaded figure starts: its word 0 waits for the edge, or issues its steps first (R76, R103). -/
def Core.started (c : Core) : Core := if c.run == .loaded then { c with run := if c.pc = 0 then .issuing else .waitEdge } else c

/-- A core of a used field that has no record: an empty figure store, idle (R200). -/
def emptyCore (c : Core) : Core := { keptCore c with faultCode := 0 }

/-! ### Rows of a core that the binary and the shards give (R199, R205, R395) -/

/-- Shard entry k of a manifest. -/
def shardEntry (man : List Byte) (k : Nat) : List Byte := slice man (64 + 96 * k) 96
def shardCount (man : List Byte) : Nat := field man 8 4
def shRows (e : List Byte) : Nat := field e 4 4
def shKind (e : List Byte) : Nat := field e 8 1
def shMembers (e : List Byte) : Nat := field e 9 1
def shFirst (e : List Byte) : Nat × Nat × Nat := (field e 12 1, field e 13 1, field e 14 1)
def shCores (e : List Byte) : Nat := field e 16 2
def shRow (e : List Byte) : Nat := field e 20 4
def shPer (e : List Byte) : Nat := field e 24 4
def shPort (e : List Byte) : Nat := field e 28 1
def shOff (e : List Byte) : Nat := field e 32 8
def shDigest (e : List Byte) : List Byte := slice e 40 32

/-- The key of the i-th target core of a shard, in row-major order within the field. -/
def shTarget (e : List Byte) (i : Nat) : Nat :=
  let f := shFirst e
  let n := 24 * f.2.1 + f.2.2 + i
  f.1 * 1024 + n / 24 * 32 + n % 24

/-- The position of a core among a shard's targets. -/
def shIndexOf (e : List Byte) (key : Nat) : Option Nat :=
  let f := shFirst e
  let n := 24 * (key / 32 % 32) + key % 32
  let a := 24 * f.2.1 + f.2.2
  if key / 1024 = f.1 && a ≤ n && n < a + shCores e then some (n - a) else none

/-- Where the rows of a core come from, as runs (first row, rows, HBM address of each row). -/
def State.shardRuns (s : State) (m : Model) (key : Nat) : List (Nat × Nat × Nat) :=
  (List.range (shardCount m.manifest)).filterMap fun k =>
    let e := shardEntry m.manifest k
    if shKind e = 0 && bit (shMembers e) (s.hMember m) then
      (shIndexOf e key).map fun i => (shRow e, shPer e, hbmAddr (shPort e) (regionBase m.region + shOff e + 64 * shPer e * i))
    else none

/-- The INIT records of a core: (first row, rows, offset of the rows in the binary). -/
def initRuns (s : State) (m : Model) (key : Nat) : Nat → Nat → Nat → List (Nat × Nat × Nat)
  | 0, _, _ => []
  | n + 1, o, stop =>
    if o + 8 > stop then []
    else
      let cnt := s.bin m (o + 6) 2
      let rest := initRuns s m key n (o + 8 + 64 * cnt) stop
      if coreNamed s m o = key then (s.bin m (o + 4) 2, cnt, o + 8) :: rest else rest

def State.initRows (s : State) (m : Model) (key : Nat) : List (Nat × Nat × Nat) :=
  initRuns s m key (s.secLen m 8 / 8 + 1) (s.secOff m 8) (s.secOff m 8 + s.secLen m 8)

/-- The whole scratchpad image of a core as loaded: INIT rows and shard rows; every other row is zero (R212). -/
def State.loadedRuns (s : State) (m : Model) (key : Nat) : List (Nat × List Byte) :=
  (s.initRows m key).map (fun r => (64 * r.1, s.staged m.region r.2.2 (64 * r.2.1))) ++
    (s.shardRuns m key).map fun r => (64 * r.1, Mem.read s.hbm r.2.2 (64 * r.2.1))

/-- The loaded content of one row: from a shard, an INIT record, or zero (R395). -/
def State.loadedRow (s : State) (m : Model) (key n : Nat) : Row :=
  match (s.shardRuns m key).find? fun r => r.1 ≤ n && n < r.1 + r.2.1 with
  | some r => BitVec.ofNat 512 (Mem.nat s.hbm (r.2.2 + 64 * (n - r.1)) 64)
  | none =>
    match (s.initRows m key).find? fun r => r.1 ≤ n && n < r.1 + r.2.1 with
    | some r => rowOfBytes (s.staged m.region (r.2.2 + 64 * (n - r.1)) 64)
    | none => 0

/-- The sync objects the binary assigns: (object, value at the start) (R199). -/
def State.syncRecs (s : State) (m : Model) : List (Nat × SyncObj) :=
  let o := s.secOff m 5
  let p := o + 4 + 256 * s.bin m o 4
  if s.secLen m 5 = 0 then []
  else (List.range (s.bin m p 4)).map fun i =>
    let r := p + 4 + 8 * i
    let v := s.bin m (r + 4) 4
    (s.bin m r 2, if s.bin m (r + 2) 1 = 1 then ⟨true, 0, 0, false, v⟩ else ⟨false, v, 0, false, 0⟩)

end Sys2Proof.Machine
end

