-- ==== Sys2Proof/Machine/Formats.lean ====
section
/-! DEFINITION. The narrow formats K2, K3, K4 and K8, the E8 block scale, quantising with the outlier side path, the exact block products, and the spinner's rotation (R104 to R130). -/

namespace Sys2Proof.Machine

/-! ### Lanes -/

/-- n lanes of w bits each, lane 0 least significant. -/
def lanes (w n x : Nat) : List Nat := (List.range n).map fun i => x >>> (w * i) % 2 ^ w
/-- Packs lanes of w bits, lane 0 least significant. -/
def packLanes (w : Nat) (xs : List Nat) : Nat := xs.foldr (fun x acc => acc <<< w + x % 2 ^ w) 0
/-- Rows as one number, the first row least significant. -/
def packRows (rs : List Row) : Nat := packLanes 512 (rs.map (·.toNat))
/-- n rows of a number. -/
def rowsOf (n x : Nat) : List Row := (lanes 512 n x).map fun v => BitVec.ofNat 512 v

/-! ### Format tags (R58) -/

def fmtRaw : Nat := 0
def fmtFp32 : Nat := 1
def fmtBf16 : Nat := 2
def fmtK8 : Nat := 3
def fmtK4 : Nat := 4
def fmtK3 : Nat := 5
def fmtK2 : Nat := 6

/-- Bits per element of a format (R104). -/
def fmtBits (f : Nat) : Nat :=
  if f = fmtK2 then 2 else if f = fmtK3 then 3 else if f = fmtK4 then 4 else if f = fmtK8 then 8
  else if f = fmtBf16 then 16 else if f = fmtFp32 then 32 else 8

/-! ### Code values, in units of 2^-9 (R107 to R111, R124) -/

/-- The magnitude of a K4 code's bits [2:0]. -/
def k4Mag (m : Nat) : Nat := [0, 256, 512, 768, 1024, 1536, 2048, 3072].getD m 0
/-- The magnitude of a K3 code's bits [1:0]. -/
def k3Mag (m : Nat) : Nat := [0, 512, 1024, 2048].getD m 0
/-- The magnitude of a K8 code's bits [6:0]. -/
def k8Mag (m : Nat) : Nat := if m / 8 = 0 then m else (8 + m % 8) * 2 ^ (m / 8 - 1)

/-- The magnitude table of a quantised format. -/
def fmtMag (f m : Nat) : Nat := if f = fmtK4 then k4Mag m else if f = fmtK3 then k3Mag m else k8Mag m

/-- The value of a code; a negative zero decodes as +0 (R111). -/
def codeVal (f code : Nat) : Int :=
  if f = fmtK2 then [(0 : Int), 512, 1024, -512].getD (code % 4) 0
  else
    let w := fmtBits f
    let c := code % 2 ^ w
    let m : Int := fmtMag f (c % 2 ^ (w - 1))
    if c / 2 ^ (w - 1) = 1 then -m else m

/-- A code value times 2^(S - 127) as an exact value; S = 0xFF is the canonical NaN (R106). -/
def scaled (v : Int) (s : Nat) : FVal :=
  if s % 256 = 255 then .nan else .fin (v < 0) v.natAbs ((s % 256 : Int) - 136)

/-- Decoding a narrow element to FP32: exact, or an infinity past the range (R123); a zero is +0. -/
def decodeFp32 (f code s : Nat) : Nat := Fmt.fp32.ofVal (scaled (codeVal f code) s)

/-! ### Quantising (R113 to R116, R120 to R122) -/

/-- Whether the magnitude m * 2^e is at least t * 2^-10. -/
def atLeast (m : Nat) (e : Int) (t : Nat) : Bool :=
  let k := e + 10
  if k ≥ 0 then m * 2 ^ k.toNat ≥ t else m ≥ t * 2 ^ (-k).toNat
/-- Whether it is greater. -/
def above (m : Nat) (e : Int) (t : Nat) : Bool :=
  let k := e + 10
  if k ≥ 0 then m * 2 ^ k.toNat > t else m > t * 2 ^ (-k).toNat

/-- The nearest magnitude code of m * 2^e, ties to the code whose last bit is 0 (R114): one code for every midpoint passed. -/
def nearestMag (f m : Nat) (e : Int) : Nat :=
  let top := 2 ^ (fmtBits f - 1)
  (List.range (top - 1)).countP fun c =>
    let mid2 := fmtMag f c + fmtMag f (c + 1)
    if (c + 1) % 2 = 0 then atLeast m e mid2 else above m e mid2

/-- The top exponent T (R113). -/
def fmtTop (f : Nat) : Int := if f = fmtK8 then 8 else 2
/-- The threshold of the saturated range, in units of 2^-10 (R114). -/
def satFrom (f : Nat) : Nat := (if f = fmtK4 then 7 else if f = fmtK8 then 496 else 6) * 1024

/-- A quantised element: its code, and whether it was saturated, or a finite nonzero input that became zero. -/
structure QElem where
  code : Nat
  sat : Bool
  zeroed : Bool
  deriving DecidableEq, Repr

/-- Quantises one FP32 element under scale byte S (R114, R115). -/
def quantElem (f s x : Nat) : QElem :=
  let top := 2 ^ (fmtBits f - 1)
  match Fmt.fp32.decode x with
  | .nan => ⟨top - 1, true, false⟩
  | .inf neg => ⟨(if neg then top else 0) + (top - 1), true, false⟩
  | .fin neg m e =>
    if m = 0 then ⟨0, false, false⟩
    else
      let e' := e + 127 - (s : Int)
      if atLeast m e' (satFrom f) then ⟨(if neg then top else 0) + (top - 1), true, false⟩
      else
        let c := nearestMag f m e'
        if c = 0 then ⟨0, false, true⟩ else ⟨(if neg then top else 0) + c, false, false⟩

/-- The rank of an element for the side path: its magnitude, an infinity above every finite value and a NaN above that (R120). -/
def sideRank (x : Nat) : Nat := if Fmt.fp32.isNan x then 2 ^ 31 else x % 2 ^ 31

/-- The indices of the n largest elements that are not zero, of equal magnitudes the lower first (R120), in ascending order. -/
def sidePick (n : Nat) (xs : List Nat) : List Nat :=
  (List.range xs.length).filter fun i =>
    let r := sideRank (xs.getD i 0)
    r != 0 && ((List.range xs.length).countP fun j =>
      let q := sideRank (xs.getD j 0)
      q > r || (q == r && j < i)) < n

/-- Floor of log2 of a finite FP32 magnitude, none of a zero or a non-finite value. -/
def fpLog2 (x : Nat) : Option Int :=
  match Fmt.fp32.decode x with
  | .fin _ m e => if m = 0 then none else some ((Nat.log2 m : Int) + e)
  | _ => none

/-- The largest of a list of optional exponents. -/
def maxLog (xs : List Nat) : Option Int :=
  xs.foldl (fun acc x =>
    match acc, fpLog2 x with
    | none, l => l
    | a, none => a
    | some a, some l => some (max a l)) none

/-- The scale byte of a block (R113): from the largest finite element that keeps its dense code, else from the side path's with T = 8, else 0. -/
def blockScale (f : Nat) (xs : List Nat) (side : List Nat) : Nat :=
  let dense := (List.range xs.length).filterMap fun i => if side.contains i then none else some (xs.getD i 0)
  let clamp (l : Int) (t : Int) : Nat := (min 254 (max 0 (l - t + 127))).toNat
  match maxLog dense with
  | some l => clamp l (fmtTop f)
  | none =>
    match maxLog (side.map fun i => xs.getD i 0) with
    | some l => clamp l 8
    | none => 0

/-- A quantised block: scale byte, codes, the N side entries, and the counts of R116. -/
structure QBlock where
  scale : Nat
  codes : List Nat
  entries : List Nat
  sat : Nat
  zeroed : Nat
  ovf : Nat
  deriving DecidableEq, Repr

/-- Quantises a block of 32 elements with N outliers (R113 to R122). -/
def quantBlock (f n : Nat) (xs : List Nat) : QBlock :=
  let side := sidePick n xs
  let s := blockScale f xs side
  let dense := (List.range xs.length).map fun i => if side.contains i then ⟨0, false, false⟩ else quantElem f s (xs.getD i 0)
  let sides := side.map fun i => (i, quantElem fmtK8 s (xs.getD i 0))
  let entries := sides.map fun p => p.1 * 256 + p.2.code
  ⟨s, dense.map (·.code), entries ++ List.replicate (n - entries.length) 0,
    dense.countP (·.sat) + sides.countP (·.2.sat), dense.countP (·.zeroed) + sides.countP (·.2.zeroed), sides.countP (·.2.sat)⟩

/-! ### Block products (R124, R125) -/

/-- The decoded weights of one block of a bank, in units of 2^-9: the dense code plus every side entry that names the index (R117). -/
def weightVals (f out data side m k : Nat) : List Int :=
  let w := fmtBits f
  let dense := (List.range 32).map fun e => codeVal f (data >>> (w * (64 * m + 32 * k + e)) % 2 ^ w)
  let n := if f = fmtK8 then 0 else out
  if n = 0 then dense
  else
    let entries := (List.range n).map fun j => side >>> (16 * ((2 * m + k) * n + j)) % 65536
    (List.range 32).map fun e =>
      entries.foldl (fun acc en => if bits en 12 8 = e then acc + codeVal fmtK8 (en % 256) else acc) (dense.getD e 0)

/-- The codes of one block of a narrow activation vector. -/
def actVals (f data m k : Nat) : List Int :=
  let w := fmtBits f
  (List.range 32).map fun e => codeVal f (data >>> (w * (64 * m + 32 * k + e)) % 2 ^ w)

/-- Bk of a narrow pairing (R124): the exact sum of the products, scaled, rounded once; an exact zero is +0. -/
def blockNarrow (wv av : List Int) (sw sa : Nat) : Nat :=
  if sw = 255 || sa = 255 then Fmt.fp32.qnan
  else
    let sum := (List.zipWith (· * ·) wv av).foldl (· + ·) 0
    Fmt.fp32.ofInt false sum ((sw : Int) + (sa : Int) - 254 - 18)

/-- Bk of BF16 by BF16 (R125). -/
def blockBf16 (ws as_ : List Nat) : Nat :=
  Fmt.fp32.sumOnce (List.zipWith (fun a b => (Fmt.bf16.decode a).mul (Fmt.bf16.decode b)) ws as_)

/-! ### The spinner (R126 to R128) -/

/-- The n-th word of the SplitMix64 sequence of a seed (R127). -/
def splitMix (seed n : Nat) : Nat :=
  let m := 2 ^ 64
  let w := (seed + (n + 1) * 0x9E3779B97F4A7C15) % m
  let w := (w ^^^ w >>> 30) * 0xBF58476D1CE4E5B9 % m
  let w := (w ^^^ w >>> 27) * 0x94D049BB133111EB % m
  w ^^^ w >>> 31

/-- The FP32 value with its sign changed; a NaN becomes the canonical NaN. -/
def fpNeg (x : Nat) : Nat := if Fmt.fp32.isNan x then Fmt.fp32.qnan else x ^^^ 2 ^ 31

/-- One stage: bit k of the index pairs the elements (R128). -/
def spinStage (half : Nat) : Nat → List Nat → List Nat
  | 0, xs => xs
  | n + 1, xs =>
    match xs with
    | [] => []
    | _ =>
      let a := xs.take half
      let b := (xs.drop half).take half
      List.zipWith Fmt.fp32.add a b ++ List.zipWith Fmt.fp32.sub a b ++ spinStage half n (xs.drop (2 * half))

/-- c of R128: 2^(-n/2), or 1/sqrt 2 rounded to FP32 and scaled. -/
def spinScale (n : Nat) : Nat :=
  if n % 2 = 0 then (127 - n / 2) * 2 ^ 23 else 0x3F3504F3 - (n - 1) / 2 * 0x00800000

/-- The rotation of a run of 2^n elements with a seed (R126 to R128). -/
def spin (n seed : Nat) (xs : List Nat) : List Nat :=
  let signed := if seed = 0 then xs else
    (List.range xs.length).map fun i => if bit (splitMix seed (i / 64)) (i % 64) then fpNeg (xs.getD i 0) else xs.getD i 0
  let staged := (List.range n).foldl (fun v k => spinStage (2 ^ k) (xs.length / 2 ^ (k + 1) + 1) v) signed
  staged.map fun v => Fmt.fp32.mul v (spinScale n)

end Sys2Proof.Machine
end

