-- ==== Sys2Proof/Machine/Operands.lean ====
section
/-! DEFINITION. Operands: handle addressing and its checks (R58 to R61, R68, R80), what one unit step may do, and the one operation that commits it. -/

namespace Sys2Proof.Machine

/-- Why a step does not complete: it raises a void (code, scratchpad row), it raises one and leaves a core changed, or it holds the core, for a cause and whatever else it waits for. -/
inductive StepStop where
  | void (code row : Nat)
  | voidAs (code row : Nat) (core : Core)
  | hold (cause : StallCause) (more : List StallCause)
  deriving DecidableEq, Repr

/-- What a step that completes does: the rows it reads, the core afterwards, the rows it writes whole, its narrow writes (row, data, byte mask), the sync objects it changes, and the rows its accesses claim, each with the cycles from the issue cycle on (R52, R53). -/
structure Eff where
  core : Core
  reads : List Nat := []
  writes : List (Nat × Row) := []
  narrow : List (Nat × Row × Nat) := []
  objs : List (Nat × SyncObj) := []
  claims : List (Nat × Nat) := []
  deriving DecidableEq, Repr

def codeEcc : Nat := 0x01
def codeBounds : Nat := 0x05
def codeFormat : Nat := 0x06
def codeBank : Nat := 0x07
def codeGather : Nat := 0x08
def codeRelease : Nat := 0x09

/-- Rows of a scratchpad (R51). -/
def spadRows : Nat := 51200

/-- The bank of a row (R51): upper banks 0 to 7, lower banks 8 to 23. -/
def bankOf (n : Nat) : Nat := if n < 10240 then n % 8 else 8 + (n - 10240) % 16

/-- The latency of a class at a core: the native value plus the class's pin (R179, R182). -/
def Core.lat (c : Core) (k : Nat) : Nat := Config.nativeLatency.getD k 0 + bits c.pins (3 * k + 2) (3 * k)

/-- The read latency of rows (R51): that of the upper banks if all lie there, else that of the lower ones. -/
def Core.rowsLatency (c : Core) (rows : List Nat) : Nat := if rows.all (· < 10240) then c.lat 0 else c.lat 1

/-- The claims of rows accessed from a cycle on, so many rows a cycle. -/
def portClaims (at_ port : Nat) (rows : List Nat) : List (Nat × Nat) := rows.zipIdx.map fun p => (at_ + p.2 / port, p.1)

/-- The row of the first access that claims a bank in a cycle in which an earlier one of the list or of `seen` claims it (R53). -/
def firstClash (seen : List (Nat × Nat)) : List (Nat × Nat) → Option Nat
  | [] => none
  | a :: rest => if seen.any (fun b => b.1 == a.1 && bankOf b.2 == bankOf a.2) then some a.2 else firstClash (a :: seen) rest

/-- The row of index i of a linear, strided or 2D handle (R59).  A write through a transposed handle takes the stored rows in order. -/
def handleRow (h i : Nat) : Nat :=
  if hMode h = 1 then hBase h + i * hStride h
  else if hMode h = 2 then hBase h + i / (max 1 (hRun h)) * hStride h + i % (max 1 (hRun h))
  else hBase h + i

/-- The stored row of an index with its checks (R59). -/
def storedRow (h i : Nat) : Except StepStop Nat :=
  if i ≥ hLength h then .error (.void codeBounds noRow)
  else if handleRow h i ≥ spadRows then .error (.void codeBounds (handleRow h i))
  else .ok (handleRow h i)

def storedRows (h : Nat) : Nat → Nat → Except StepStop (List Nat)
  | _, 0 => .ok []
  | i, n + 1 => do
    let r ← storedRow h i
    let rest ← storedRows h (i + 1) n
    pure (r :: rest)

/-- The element width of a transposed handle in bytes (R60). -/
def transWidth (h : Nat) : Nat := if hFmt h = fmtFp32 then 4 else if hFmt h = fmtBf16 then 2 else 1

/-- The claims of a read of stored rows through a handle, from a cycle on.  A tile of a transposed handle takes 8 rows a cycle from upper banks and 16 from lower ones (R60); the tiles of one read follow one another every 64 c (DESIGN CHOICE: the spec times one tile). -/
def readClaims (h at_ port : Nat) (stored : List Nat) : List (Nat × Nat) :=
  if hMode h = 3 then
    stored.zipIdx.map fun p => (at_ + p.2 / 64 * 64 + p.2 % 64 / (if hBase h < 10240 then 8 else 16), p.1)
  else portClaims at_ port stored

/-- What a step reads at row n: the row as it stood before the step's word, with the bytes of a pending gather entry over it (R71 item 4, R76). -/
def State.stepRow (s : State) (k : Nat) (c : Core) (n : Nat) : Row :=
  match c.old.find? fun o => o.row == n with
  | some o => o.data
  | none => s.unitRow k c n

/-- Output row i of a transposed handle (R60): 64 / w elements j of consecutive stored rows. -/
def transRow (s : State) (k : Nat) (c : Core) (h i : Nat) : Row :=
  let w := transWidth h
  let base := hBase h + 64 * (i / 64)
  let j := i % 64 / w
  let part := i % 64 % w
  let per := 64 / w
  BitVec.ofNat 512 (packLanes (8 * w) ((List.range per).map fun e =>
    (s.stepRow k c (base + part * per + e)).toNat >>> (8 * w * j)))

/-- A read through the handle waits: it is guarded and in FILL (R68). -/
def Core.mustFill (c : Core) (hi : Nat) : Bool := hGuarded (c.handle hi) && !hFull (c.handle hi)

/-- A step that waits for these conditions, if there are any. -/
def holdFor : List StallCause → Except StepStop Unit
  | [] => .ok ()
  | a :: more => .error (.hold a more)

/-- A read through a guarded handle in FILL holds the core (R68). -/
def guardReady (c : Core) (hi : Nat) : Except StepStop Unit :=
  if c.mustFill hi then .error (.hold (.guard hi) []) else .ok ()

/-- The handle's format is one the step accepts (R59). -/
def acceptFmt (h : Nat) (fs : List Nat) : Except StepStop Unit :=
  if fs.contains (hFmt h) then .ok () else .error (.void codeFormat noRow)

/-- Reads n rows from index i of handle hi: the rows and the stored rows read. -/
def readRows (s : State) (k : Nat) (c : Core) (hi i n : Nat) : Except StepStop (List Row × List Nat) := do
  guardReady c hi
  let h := c.handle hi
  if hMode h = 3 then
    if i + n > hLength h then .error (.void codeBounds noRow)
    else if hBase h + 64 * ((i + n + 63) / 64) > spadRows then .error (.void codeBounds (hBase h))
    else
      let tiles := (List.range ((i + n + 63) / 64)).drop (i / 64)
      pure ((List.range n).map fun r => transRow s k c h (i + r), tiles.flatMap fun t => (List.range 64).map fun e => hBase h + 64 * t + e)
  else
    let rows ← storedRows h i n
    pure (rows.map fun r => s.stepRow k c r, rows)

/-- The rows that a write of `data` from index i of handle hi lands in; a write is checked against no guard (R70). -/
def writeRows (c : Core) (hi i : Nat) (data : List Row) : Except StepStop (List (Nat × Row)) := do
  let rows ← storedRows (c.handle hi) i data.length
  pure (rows.zip data)

/-- Stored pages: row n of the scratchpad without a handle, for pages and records. -/
def rowsAt (s : State) (k : Nat) (c : Core) (n count : Nat) : List Row :=
  (List.range count).map fun i => s.unitRow k c (n + i)

/-- The core with the rows that a step of its word is about to replace kept as they stood. -/
def Core.keepOld (c : Core) (s : State) (k : Nat) (rows : List Nat) : Core :=
  { c with old := c.old ++ rows.filterMap fun n =>
      if c.old.any (fun o => o.row == n) then none else some ⟨n, s.unitRow k (s.core k) n, (s.core k).rowBad n, (s.core k).rowCorrected n⟩ }

/-- Commits a step: the corrected words it read are counted (R55); an uncorrectable one raises a void (R56); else the core becomes what it left, its rows are written and its sync objects change. -/
def commit (k : Nat) (e : Eff) : Prog :=
  .get fun s =>
    match e.reads.find? fun n => (s.core k).readBad n with
    | some n => (setCore k ((s.core k).countReads e.reads)).andThen (voidCore k codeEcc n)
    | none => .seq [setCore k ((e.core.countReads e.reads).keepOld s k (e.writes.map (·.1) ++ e.narrow.map (·.1))),
        .each e.writes fun w => writeRow k w.1 w.2, .each e.narrow fun w => narrowWrite k w.1 w.2.1 w.2.2,
        .ups (e.objs.map fun o => .object o.1 o.2)]

/-- Verdicts for which the word after their VQEND has issued reach their predicates (R87). -/
def Core.settleVerdicts (c : Core) : Core :=
  { (c.verdicts.filter (·.2.2)).foldl (fun (c : Core) (v : Nat × Bool × Bool) => c.setP v.1 v.2.1) c with verdicts := c.verdicts.filter fun v => !v.2.2 }

/-- Issue pauses for some cycles: every verdict is seen by the next word (R77, R87). -/
def Core.paused (c : Core) : Core :=
  { c with verdicts := c.verdicts.map fun (v : Nat × Bool × Bool) => (v.1, v.2.1, true) }.settleVerdicts

/-- A step whose encoding is reserved (R79). -/
def reservedStep : Prog := .refuse .reservedEncoding

end Sys2Proof.Machine
end

