-- ==== Sys2Proof/Machine/Flags.lean ====
section
/-! DEFINITION. The verdict of a tile set, the clamp and verdict counters, and the counters' comparisons (R131 to R135, R146, R40). -/

namespace Sys2Proof.Machine

def sat16 (n : Nat) : Nat := min n 0xFFFF

/-- Tile-set configuration fields (R131). -/
def tcSat (w : Nat) : Nat := bits w 63 48
def tcZero (w : Nat) : Nat := bits w 47 32
def tcOvf (w : Nat) : Nat := bits w 31 16
def tcN (w : Nat) : Nat := [0, 1, 2, 4].getD (bits w 15 14) 0
def tcSide (w : Nat) : Nat := bits w 13 8

/-- The verdict (R133). -/
def verdict (cfg : Nat) (t : Tile) : Bool := t.sat > tcSat cfg || t.zero > tcZero cfg || t.ovf > tcOvf cfg

/-- Adds the counts of quantised blocks; they stop at 0xFFFF (R132). -/
def Tile.count (t : Tile) (bs : List QBlock) : Tile :=
  { t with sat := sat16 (bs.foldl (fun n b => n + b.sat) t.sat), zero := sat16 (bs.foldl (fun n b => n + b.zeroed) t.zero),
           ovf := sat16 (bs.foldl (fun n b => n + b.ovf) t.ovf) }

/-- Counts BF16 clamps of a core; the counter stops at 0xFFFF (R146). -/
def Core.clamp (c : Core) (n : Nat) : Core := { c with clamps := sat16 (c.clamps + n) }

def Core.tile (c : Core) (q : Nat) : Tile := AMap.get Tile.clear c.tiles q
def Core.setTile (c : Core) (q : Nat) (t : Tile) : Core := { c with tiles := AMap.put Tile.clear c.tiles q t }

/-- A counter object meets a target: the difference as a signed 32-bit number is zero or greater (R40, R102). -/
def meets32 (v target : Nat) : Bool := (v + 2 ^ 32 - target % 2 ^ 32) % 2 ^ 32 < 2 ^ 31

end Sys2Proof.Machine
end

