-- ==== Sys2Proof/Machine/Attention.lean ====
section
/-! DEFINITION. What the steps of the attention pipe do: ACFG, AQLD, ARST, APAGE, AOUT, AMRG and ANORM (R90 to R94, R150, R151, R156). -/

namespace Sys2Proof.Machine

/-- AP configuration fields (R90). -/
def apPool (w : Nat) : Nat := bits w 127 122
def apPageRows (w : Nat) : Nat := bits w 121 112
def apD (w : Nat) : Nat := if bit w 111 then 128 else 64
def apG (w : Nat) : Nat := bits w 110 107 + 1
def apFmt (w : Nat) : Nat := if bit w 106 then fmtK4 else fmtK8
def apScale (w : Nat) : Nat := bits w 95 64

def Core.apConfig (c : Core) : Nat := AMap.get 0 c.apCfg c.apSel
def Core.slot (c : Core) (b : Bool) : ApSlot := AMap.get ApSlot.reset c.aps (boolNat b)
def Core.setSlot (c : Core) (b : Bool) (x : ApSlot) : Core := { c with aps := AMap.put ApSlot.reset c.aps (boolNat b) x }

/-- Minus infinity in FP32. -/
def negInf : Nat := 0xFF800000

/-- What one head of a slot holds. -/
structure Head where
  m : Nat
  l : Nat
  o : List Nat
  deriving DecidableEq, Repr

def ApSlot.head (x : ApSlot) (d h : Nat) : Head :=
  ⟨x.m.getD h negInf, x.l.getD h 0, (List.range d).map fun e => x.o.getD (h * d + e) 0⟩

/-- A slot made of its heads. -/
def slotOf (hs : List Head) : ApSlot := ⟨hs.map (·.m), hs.map (·.l), hs.flatMap (·.o)⟩

/-- Element e of K (side 0) or V (side 1) of position j of a page, decoded to FP32 (R123, R156). -/
def pageElem (cfg page side j e : Nat) : Nat :=
  let d := apD cfg
  let f := apFmt cfg
  let w := fmtBits f
  let b := d * w / 8
  let code := page >>> (512 * (side * b) + 8 * (j * b) + w * e) % 2 ^ w
  let sc := page >>> (512 * (2 * b) + 8 * (j * (d / 16) + side * (d / 32) + e / 32)) % 256
  decodeFp32 f code sc

/-- The dot product, exact and rounded once (R150). -/
def dotOnce (q k : List Nat) : Nat :=
  Fmt.fp32.sumOnce (List.zipWith (fun a b => (Fmt.bf16.decode a).mul (Fmt.fp32.decode b)) q k)

def fp32Nan (x : Nat) : Bool := Fmt.fp32.isNan x

/-- R150 for one head: the contributing positions as (key, value) vectors, in ascending order. -/
def applyPage (smscale : Nat) (q : List Nat) (js : List (List Nat × List Nat)) (hd : Head) : Head :=
  let F := Fmt.fp32
  if js.isEmpty then hd
  else if q.any Fmt.bf16.isNan || js.any (fun p => p.1.any fp32Nan || p.2.any fp32Nan) || fp32Nan hd.m || fp32Nan hd.l || hd.o.any fp32Nan || fp32Nan smscale then
    ⟨F.qnan, F.qnan, hd.o.map fun _ => F.qnan⟩
  else
    let ss := js.map fun p => F.mul (dotOnce q p.1) smscale
    let mNew := ss.foldl F.maxTotal hd.m
    let alpha := fexp32 (F.sub hd.m mNew)
    let start : Head := ⟨mNew, F.mul hd.l alpha, hd.o.map fun x => F.mul x alpha⟩
    (ss.zip js).foldl (fun acc sj =>
      let p := fexp32 (F.sub sj.1 mNew)
      ⟨acc.m, F.add acc.l p, List.zipWith (fun o v => F.add o (F.mul p v)) acc.o sj.2.2⟩) start

/-- R151 for one head. -/
def mergeHead (a b : Head) : Head :=
  let F := Fmt.fp32
  let m := F.maxTotal a.m b.m
  if m = negInf then a
  else
    let x := fexp32 (F.sub a.m m)
    let y := fexp32 (F.sub b.m m)
    ⟨m, F.add (F.mul a.l x) (F.mul b.l y), List.zipWith (fun o o2 => F.add (F.mul o x) (F.mul o2 y)) a.o b.o⟩

/-- AQLD: the query block and its position row (R91).  DESIGN CHOICE (log 172): an APAGE issued before the block is usable takes the new block too; the spec says only from when on it is usable. -/
def aqldStep (k h x : Nat) (s : State) (c : Core) : Except StepStop Eff := do
  guardReady c h
  let n := apG c.apConfig * apD c.apConfig * 2 / 64
  let r ← readRows s k c h (c.xreg x) (n + 1)
  let q := lanes 16 (apG c.apConfig * apD c.apConfig) (packRows (r.1.take n))
  pure { core := { c with query := q, queryPos := packRows (r.1.drop n) % 2 ^ 32 }, reads := r.2, claims := readClaims (c.handle h) 0 8 r.2 }

/-- Word i of a page list: index i mod 16 of its row (R92). -/
def listWord (row i : Nat) : Nat := row >>> (32 * (i % 16)) % 2 ^ 32

/-- APAGE: applies one page to a state slot (R92, R150); a word with no page changes nothing. -/
def apageStep (k h x : Nat) (causal slot : Bool) (s : State) (c : Core) : Except StepStop Eff := do
  guardReady c h
  let i := c.xreg x
  let lr ← readRows s k c h (i / 16) 1
  let w := listWord (packRows lr.1) i
  let p := bits w 31 16
  let cfg := c.apConfig
  let listClaims := readClaims (c.handle h) 0 8 lr.2
  if p = 0xFFFF then pure { core := c, reads := lr.2, claims := listClaims }
  else
    let pr ← readRows s k c (apPool cfg) (p * apPageRows cfg) (apPageRows cfg)
    let page := packRows pr.1
    let d := apD cfg
    let js := (List.range 64).filter fun j => j < bits w 6 0 && (!causal || 64 * i + j ≤ c.queryPos)
    let kvs := js.map fun j => ((List.range d).map (pageElem cfg page 0 j), (List.range d).map (pageElem cfg page 1 j))
    let heads := (List.range (apG cfg)).map fun hd =>
      applyPage (apScale cfg) ((List.range d).map fun e => c.query.getD (hd * d + e) 0) kvs ((c.slot slot).head d hd)
    pure { core := if js.isEmpty then c else c.setSlot slot (slotOf heads), reads := lr.2 ++ pr.2,
           claims := listClaims ++ readClaims (c.handle (apPool cfg)) (c.rowsLatency lr.2) 8 pr.2 }

/-- The rows of a partial (R92): o, then m and l of each head. -/
def partialRows (cfg : Nat) (x : ApSlot) : List Row :=
  let g := apG cfg
  let d := apD cfg
  let heads := (List.range g).map fun h => x.head d h
  rowsOf (g * d / 16) (packLanes 32 (heads.flatMap (·.o))) ++
    rowsOf ((g + 7) / 8) (packLanes 32 (heads.flatMap fun h => [h.m, h.l]))

def aoutStep (h x : Nat) (slot : Bool) (c : Core) : Except StepStop Eff := do
  let ws ← writeRows c h (c.xreg x) (partialRows c.apConfig (c.slot slot))
  pure { core := c, writes := ws, claims := portClaims 1 2 (ws.map (·.1)) }

/-- A partial read back as heads (R92). -/
def headsOfRows (cfg : Nat) (rows : List Row) : List Head :=
  let g := apG cfg
  let d := apD cfg
  let o := packRows (rows.take (g * d / 16))
  let ml := packRows (rows.drop (g * d / 16))
  (List.range g).map fun h =>
    ⟨ml >>> (64 * h) % 2 ^ 32, ml >>> (64 * h + 32) % 2 ^ 32, (List.range d).map fun e => o >>> (32 * (h * d + e)) % 2 ^ 32⟩

/-- AMRG: merges a partial into a slot, head by head (R151). -/
def amrgStep (k h x : Nat) (slot : Bool) (s : State) (c : Core) : Except StepStop Eff := do
  guardReady c h
  let cfg := c.apConfig
  let r ← readRows s k c h (c.xreg x) (apG cfg * apD cfg / 16 + (apG cfg + 7) / 8)
  let heads := (headsOfRows cfg r.1).zipIdx.map fun p => mergeHead ((c.slot slot).head (apD cfg) p.2) p.1
  pure { core := c.setSlot slot (slotOf heads), reads := r.2, claims := readClaims (c.handle h) 0 8 r.2 }

/-- The normalised output of one head: o / l narrowed to BF16; l = +0 gives +0 (R151).  DESIGN CHOICE (log 173): a narrowing that clamps here is counted nowhere, as the counter of R146 names MOUT, VST and FCVT only. -/
def normHead (h : Head) : List Nat := h.o.map fun x => if h.l = 0 then 0 else (narrow (Fmt.fp32.div x h.l)).1

def anormStep (h x : Nat) (slot : Bool) (c : Core) : Except StepStop Eff := do
  let cfg := c.apConfig
  let vals := (List.range (apG cfg)).flatMap fun hd => normHead ((c.slot slot).head (apD cfg) hd)
  let ws ← writeRows c h (c.xreg x) (rowsOf (apG cfg * apD cfg * 2 / 64) (packLanes 16 vals))
  pure { core := c, writes := ws, claims := portClaims 1 2 (ws.map (·.1)) }

end Sys2Proof.Machine
end

