-- ==== Sys2Proof/Machine/Matrix.lean ====
section
/-! DEFINITION. What the steps of the matrix array do: MLOAD, MMUL and MOUT (R81 to R85). -/

namespace Sys2Proof.Machine

/-- Outliers per block of the OUT field (R81); K8 and BF16 tiles carry no side path (R119). -/
def outCount (f : Nat) (out : BitVec 2) : Nat := if f = fmtK8 || f = fmtBf16 then 0 else [0, 1, 2, 4].getD out.toNat 0

/-- Scale rows of a weight tile (R82). -/
def tileScaleRows (f : Nat) : Nat := if f = fmtBf16 then 0 else 2

def weightFmts : List Nat := [fmtK2, fmtK3, fmtK4, fmtK8, fmtBf16]

/-- The bank an MLOAD fills from its rows: data rows, scale rows, side rows (R82). -/
def bankOfRows (f n : Nat) (rows : List Row) : WBank :=
  let d := 8 * fmtBits f
  let sc := tileScaleRows f
  ⟨f, n, packRows (rows.take d), packRows ((rows.drop d).take sc), packRows (rows.drop (d + sc))⟩

def Core.bank (c : Core) (b : Bool) : WBank := AMap.get WBank.empty c.wb (boolNat b)
def Core.setBank (c : Core) (b : Bool) (w : WBank) : Core := { c with wb := AMap.put WBank.empty c.wb (boolNat b) w }
/-- An accumulator bank: 64 vectors of 64 FP32 values; the empty list is all zeros. -/
def Core.acc (c : Core) (b : Bool) : List Nat := AMap.get [] c.ab (boolNat b)
def Core.setAcc (c : Core) (b : Bool) (a : List Nat) : Core := { c with ab := AMap.put [] c.ab (boolNat b) a }

/-- MLOAD: reads the tile, its scales and its side rows into a weight bank; a handle whose format it does not accept leaves the bank empty (R83). -/
def mloadStep (k : Nat) (h x : Nat) (wb : Bool) (out : BitVec 2) (s : State) (c : Core) : Except StepStop Eff := do
  guardReady c h
  let f := hFmt (c.handle h)
  if !weightFmts.contains f then .error (.voidAs codeFormat noRow (c.setBank wb WBank.empty))
  else
    let n := outCount f out
    let r ← readRows s k c h (c.xreg x) (8 * fmtBits f + tileScaleRows f + 4 * n)
    pure { core := c.setBank wb (bankOfRows f n r.1), reads := r.2, claims := readClaims (c.handle h) 0 8 r.2 }

/-- The pairings of R83. -/
def pairAllowed (wf af : Nat) : Bool :=
  ([fmtK2, fmtK3, fmtK4].contains wf && af = fmtK4) || ([fmtK2, fmtK3, fmtK4, fmtK8].contains wf && af = fmtK8) ||
    (wf = fmtK8 && af = fmtK4) || (wf = fmtBf16 && af = fmtBf16)

/-- Data rows of an activation stream of v vectors (R82). -/
def actRows (af v : Nat) : Nat := if af = fmtBf16 then 2 * v else if af = fmtK8 then v else (v + 1) / 2
def actScaleRows (af v : Nat) : Nat := if af = fmtBf16 then 0 else (v + 31) / 32

/-- Bk of vector v, output n, block k (R124, R125). -/
def blockSum (w : WBank) (af act scales v n k : Nat) : Nat :=
  if w.fmt = fmtBf16 then
    blockBf16 ((List.range 32).map fun e => w.data >>> (16 * (64 * n + 32 * k + e)) % 65536)
      ((List.range 32).map fun e => act >>> (16 * (64 * v + 32 * k + e)) % 65536)
  else
    blockNarrow (weightVals w.fmt w.out w.data w.side n k) (actVals af act v k)
      (w.scales >>> (8 * (2 * n + k)) % 256) (scales >>> (8 * (2 * v + k)) % 256)

/-- AB[v][n] after a MMUL: (AB + B0) + B1 in FP32 (R85). -/
def mmulLane (w : WBank) (af act scales old v n : Nat) : Nat :=
  Fmt.fp32.add (Fmt.fp32.add old (blockSum w af act scales v n 0)) (blockSum w af act scales v n 1)

/-- The accumulator bank after a MMUL of nv vectors; Z clears the bank first (R81, R85). -/
def mmulBank (w : WBank) (af act scales nv : Nat) (z : Bool) (old : List Nat) : List Nat :=
  (List.range 4096).map fun i =>
    let o := if z then 0 else old.getD i 0
    if i / 64 < nv then mmulLane w af act scales o (i / 64) (i % 64) else o

/-- MMUL: streams nv vectors through a weight bank into an accumulator bank. -/
def mmulStep (k : Nat) (h x : Nat) (wb ab z : Bool) (nv : Nat) (s : State) (c : Core) : Except StepStop Eff := do
  guardReady c h
  let w := c.bank wb
  let af := hFmt (c.handle h)
  if !pairAllowed w.fmt af then .error (.void codeFormat noRow)
  else
    let d := actRows af nv
    let r ← readRows s k c h (c.xreg x) (d + actScaleRows af nv)
    let act := packRows (r.1.take d)
    let scales := packRows (r.1.drop d)
    pure { core := c.setAcc ab (mmulBank w af act scales nv z (c.acc ab)), reads := r.2, claims := readClaims (c.handle h) 0 8 r.2 }

/-- MOUT: writes nv vectors of an accumulator bank, as FP32 or narrowed to BF16; clamps are counted (R85, R112, R146). -/
def moutStep (h x : Nat) (ab bf : Bool) (nv pred : Nat) (c : Core) : Except StepStop Eff := do
  acceptFmt (c.handle h) [fmtRaw, if bf then fmtBf16 else fmtFp32]
  let vals := (List.range (64 * nv)).map fun i => (c.acc ab).getD i 0
  let narrowed := vals.map narrow
  let data := if bf then rowsOf (2 * nv) (packLanes 16 (narrowed.map (·.1))) else rowsOf (4 * nv) (packLanes 32 vals)
  let ws ← writeRows c h (c.xreg x) data
  pure { core := (c.clamp (if bf then narrowed.countP (·.2) else 0)).suppressed pred, writes := if c.commits pred then ws else [],
         claims := portClaims 1 2 (ws.map (·.1)) }

end Sys2Proof.Machine
end

