-- ==== Sys2Proof/Machine/Mover.lean ====
section
/-! DEFINITION. What the steps of the data mover do: copies, sends, reductions, HBM requests, scatters, narrow writes and counter snapshots (R95 to R99), and the packet header (R29). -/

namespace Sys2Proof.Machine

/-! ### The header of R29 -/


def hdrField (h : Nat) : Nat := bits h 63 57
def hdrRow (h : Nat) : Nat := bits h 56 52
def hdrCol (h : Nat) : Nat := bits h 51 47
def hdrKind (h : Nat) : Nat := bits h 46 44
def hdrAccf (h : Nat) : Bool := bit h 43
def hdrPfmt (h : Nat) : Nat := bits h 42 41
def hdrLen (h : Nat) : Nat := bits h 40 37
def hdrRid (h : Nat) : Nat := bits h 36 33
def hdrCtr (h : Nat) : Nat := bits h 32 28
def hdrSpad (h : Nat) : Nat := bits h 27 12
def hdrScale (h : Nat) : Nat := bits h 11 4
/-- The endpoint id of a packet for an edge endpoint (R29, R30). -/
def hdrEndpoint (h : Nat) : Nat := hdrRow h * 32 + hdrCol h
/-- The destination core of a packet, as a key. -/
def hdrCore (h : Nat) : Nat := hdrField h * 1024 + hdrRow h * 32 + hdrCol h

/-- Route-table entry fields (R95). -/
def routeHdr (e : Nat) : Nat := bits e 127 64
def routeStride (e : Nat) : Nat := bits e 63 48
def routeLocal (e : Nat) : Bool := bit e 47

def Core.route (c : Core) (i : Nat) : Nat := AMap.get 0 c.routes i

/-! ### Egress (R66) -/

def flitCount (ps : List Packet) : Nat := ps.foldl (fun n p => n + p.flits.length) 0

/-- The egress room check: too little room for the packet holds the core (R66, R96). -/
def egressReady (c : Core) (flits : Nat) : Except StepStop Unit :=
  if flitCount c.egress + flits > 64 then .error (.hold (.egress flits) []) else .ok ()

/-- What a step that sends waits for: the handles it reads through and, for so many flits, egress room (R66, R68, R76). -/
def sendReady (c : Core) (handles : List Nat) (flits : Nat) : Except StepStop Unit :=
  holdFor ((handles.filter c.mustFill).map StallCause.guard ++ if flits > 0 && flitCount c.egress + flits > 64 then [.egress flits] else [])

/-- Puts a packet into the egress queue. -/
def Core.send (c : Core) (k hdr : Nat) (flits : List Row) : Core :=
  { c with egress := c.egress ++ [⟨k, BitVec.ofNat 64 hdr, flits⟩] }

/-- The rows a LOCAL route writes instead of sending, from a row onward (R95). -/
def localWrites (row : Nat) (data : List Row) : Except StepStop (List (Nat × Row)) :=
  if row + data.length > spadRows then .error (.void codeBounds row)
  else .ok ((List.range data.length).zip data |>.map fun p => (row + p.1, p.2))

/-- Sends rows by a route entry, or writes them locally when LOCAL is set, one row a cycle from cycle `from_` on; a false predicate suppresses either (R78, R95). -/
def sendOrWrite (k route row pred : Nat) (data : List Row) (reads : List Nat) (claims : List (Nat × Nat)) (from_ : Nat) (c : Core) : Except StepStop Eff := do
  let e := c.route route
  let ok := c.commits pred
  if routeLocal e then
    let ws ← localWrites row data
    pure { core := c.suppressed pred, reads := reads, writes := if ok then ws else [], claims := claims ++ portClaims from_ 1 (ws.map (·.1)) }
  else
    let hdr := setBits (setBits (routeHdr e) 40 37 (data.length - 1)) 27 12 row
    pure { core := (if ok then c.send k hdr data else c).suppressed pred, reads := reads, claims := claims }

/-! ### The steps -/

def dcpyStep (k hs xs hd xd n pred : Nat) (s : State) (c : Core) : Except StepStop Eff := do
  let r ← readRows s k c hs (c.xreg xs) n
  let ws ← writeRows c hd (c.xreg xd) r.1
  pure { core := c.suppressed pred, reads := r.2, writes := if c.commits pred then ws else [],
         claims := readClaims (c.handle hs) 0 4 r.2 ++
           (if hMode (c.handle hs) = 3 then portClaims (c.lat 11) 1 (ws.map (·.1)) else portClaims (c.rowsLatency r.2) 4 (ws.map (·.1))) }

/-- DSEND: one packet of len + 1 rows, at template ROW plus the offset in X[xd] (R95, R96). -/
def dsendStep (k hs xs route xd len pred : Nat) (s : State) (c : Core) : Except StepStop Eff := do
  let e := c.route route
  sendReady c [hs] (if routeLocal e then 0 else len + 1)
  let r ← readRows s k c hs (c.xreg xs) (len + 1)
  sendOrWrite k route ((hdrSpad (routeHdr e) + c.xreg xd) % 65536) pred r.1 r.2 (readClaims (c.handle hs) 0 4 r.2) (c.rowsLatency r.2 + 1) c

/-- DRED: one reduction block; its rows and SCALE by PFMT (R31's section, R95, R96). -/
def dredStep (k hs xs route xd pred : Nat) (s : State) (c : Core) : Except StepStop Eff := do
  let t := routeHdr (c.route route)
  let n := if hdrPfmt t = 0 then 2 else 1
  sendReady c [hs] n
  let r ← readRows s k c hs (c.xreg xs) n
  let row := packRows r.1
  let flits := if hdrPfmt t = 2 then [BitVec.ofNat 512 (row % 2 ^ 256)] else r.1
  let h1 := setBits (setBits t 40 37 (n - 1)) 27 12 (hdrSpad t + c.xreg xd)
  let h2 := if hdrPfmt t = 2 then setBits h1 11 4 (row >>> 256) else h1
  pure { core := (if c.commits pred then c.send k h2 flits else c).suppressed pred, reads := r.2, claims := readClaims (c.handle hs) 0 4 r.2 }

/-- DQGET and DQPUT: a descriptor, with len rows of write data, as one packet (R96). -/
def dqStep (k hs xs route xd len pred : Nat) (s : State) (c : Core) : Except StepStop Eff := do
  let t := routeHdr (c.route route)
  sendReady c [hs] (len + 1)
  let r ← readRows s k c hs (c.xreg xs) (len + 1)
  let hdr := setBits (setBits t 40 37 len) 27 12 (hdrSpad t + c.xreg xd)
  pure { core := (if c.commits pred then c.send k hdr r.1 else c).suppressed pred, reads := r.2, claims := readClaims (c.handle hs) 0 4 r.2 }

/-- DSCAT: rows to template ROW + p * PSTRIDE, p from the index word; 0xFFFF moves nothing (R96).  DESIGN CHOICE: the guard of the source handle holds the step before the index word is known, so also when the word turns out to hold no slot. -/
def dscatStep (k hs xs route hi xi pred : Nat) (s : State) (c : Core) : Except StepStop Eff := do
  let e := c.route route
  let n := hdrLen (routeHdr e) + 1
  sendReady c [hs, hi] (if routeLocal e then 0 else n)
  let i := c.xreg xi
  let lr ← readRows s k c hi (i / 16) 1
  let listClaims := readClaims (c.handle hi) 0 4 lr.2
  let p := packRows lr.1 >>> (32 * (i % 16) + 16) % 65536
  if p = 0xFFFF then pure { core := c.suppressed pred, reads := lr.2, claims := listClaims }
  else
    let r ← readRows s k c hs (c.xreg xs) n
    sendOrWrite k route ((hdrSpad (routeHdr e) + p * routeStride e) % 65536) pred r.1 (lr.2 ++ r.2)
      (listClaims ++ readClaims (c.handle hs) (c.rowsLatency lr.2) 4 r.2) (c.rowsLatency lr.2 + c.rowsLatency r.2 + 1) c

/-- DNW: one 16-byte lane through the gather buffer; with every entry in use it is a GATHER_FULL fault (R71, R96). -/
def dnwStep (k hs xs hd xd a b pred : Nat) (s : State) (c : Core) : Except StepStop Eff := do
  let r ← readRows s k c hs (c.xreg xs) 1
  let claims := readClaims (c.handle hs) 0 4 r.2
  let row ← storedRow (c.handle hd) (c.xreg xd)
  let lane := packRows r.1 >>> (128 * a) % 2 ^ 128
  if !c.commits pred then pure { core := c.suppressed pred, reads := r.2, claims := claims }
  else if c.gather.length ≥ 64 && (c.gatherEntry row).isNone then .error (.void codeGather row)
  else pure { core := c, reads := r.2, claims := claims, narrow := [(row, BitVec.ofNat 512 (lane <<< (128 * b)), 0xFFFF <<< (16 * b))] }

/-- The row DCTR writes (R99, R427). -/
def snapshotRow (s : State) (k sel : Nat) (c : Core) : Row :=
  if sel = 0 then BitVec.ofNat 512 (packLanes 16 ((List.range 32).map c.counter))
  else if sel = 1 then
    (if c.figureRead then
      let now := c.perf.toCycle (c.cycle + 1 - if c.owes then c.owedCyc else 0)
      BitVec.ofNat 512 (packLanes 64 ((List.range 8).map fun i => AMap.get 0 now.ctr i))
    else 0)
  else rowOfFields [(0, 8, s.waferTime), (8, 8, s.beatNow), (16, 1, s.reg 0x3005 (s.physField (k / 1024) + 1))]

def dctrStep (k h x sel pred : Nat) (s : State) (c : Core) : Except StepStop Eff := do
  let ws ← writeRows c h (c.xreg x) [snapshotRow s k sel c]
  pure { core := c.suppressed pred, writes := if c.commits pred then ws else [], claims := portClaims 1 4 (ws.map (·.1)) }

end Sys2Proof.Machine
end

