-- ==== Sys2Proof/Machine/Sequencer.lean ====
section
/-! DEFINITION. What the sequencer and sync steps do, loops, and the words ahead (R40, R63, R67, R76, R100 to R103). -/

namespace Sys2Proof.Machine

/-! ### Loops and the close of a word (R101) -/

def loopEnd (d : Nat) : Nat := bits d 63 51
def loopTrip (d : Nat) : Nat := bits d 50 35
def loopReg (d : Nat) : Nat := bits d 34 32
def loopStep (d : Nat) : Int := signed 16 (bits d 31 16)
def loopInit (d : Nat) : Nat := bits d 15 0

/-- X[x] plus a signed number, modulo 2^16. -/
def addX (c : Core) (x : Nat) (v : Int) : Core := c.setX x (twos 16 ((c.xreg x : Int) + v))

/-- Where issue goes after the word at pc: loops whose END is this word close innermost first; a loop with iterations left goes back to its body and steps its register, a finished one is left (R101).  DESIGN CHOICE: when the word's own step wrote that register, XSTEP is added to the value it wrote. -/
def closeLoops (pc : Nat) : List LoopFrame → Core → Core
  | [], c => { c with stack := [], pc := pc + 1 }
  | f :: fs, c =>
    let d := AMap.get 0 c.loops f.desc
    if loopEnd d = pc then
      match f.left with
      | some 1 => closeLoops pc fs c
      | some 0 => closeLoops pc fs c
      | some (n + 2) => addX { c with stack := { f with left := some (n + 1) } :: fs, pc := f.start } (loopReg d) (loopStep d)
      | none => addX { c with stack := f :: fs, pc := f.start } (loopReg d) (loopStep d)
    else { c with stack := f :: fs, pc := pc + 1 }

/-- The core one cycle on, at a new word: no step of it has issued, claims come one cycle nearer, verdicts one word (R53, R76, R87). -/
def Core.freshWord (c : Core) : Core :=
  { c.advanceCycles 1 with issued := 0, old := [], verdicts := c.verdicts.map fun v => (v.1, v.2.1, true) }

/-- The word closes: one word fewer in the segment, the next word by R76 and R101. -/
def Core.closeWord (c : Core) : Core :=
  let c' := (closeLoops c.pc c.stack c).event 0x02 1
  { c'.freshWord with left := c.left - 1 }

/-! ### Waits -/

def Core.target (c : Core) (i : Nat) : Nat := AMap.get 0 c.tgt i
def Core.setTarget (c : Core) (i v : Nat) : Core := { c with tgt := AMap.put 0 c.tgt i (v % 65536) }

/-- Sync-table entry fields (R102). -/
def syObject (w : Nat) : Nat := bits w 63 51
def syType (w : Nat) : Bool := bit w 50
def syGen (w : Nat) : Bool := bit w 49
def syStep (w : Nat) : Nat := bits w 48 33
def syTarget (w : Nat) : Nat := bits w 31 0
def Core.syncEntry (c : Core) (e : Nat) : Nat := AMap.get 0 c.sync e
def Core.setSync (c : Core) (e w : Nat) : Core := { c with sync := AMap.put 0 c.sync e (w % 2 ^ 64) }

def State.object (s : State) (n : Nat) : SyncObj := AMap.get SyncObj.none s.objects n

/-- A WAIT is satisfied (R63). -/
def waitMet (c : Core) (ctr : Nat) : Bool := meets16 (c.counter ctr) (c.target ctr)
/-- A barrier wait is satisfied once its generation is complete (R41). -/
def barrierMet (s : State) (c : Core) (e : Nat) : Bool := (s.object (syObject (c.syncEntry e))).gen != syGen (c.syncEntry e)
/-- A counter wait is satisfied when value minus target is zero or greater (R40, R102). -/
def counterMet (s : State) (c : Core) (e : Nat) : Bool :=
  meets32 (s.object (syObject (c.syncEntry e))).value (syTarget (c.syncEntry e))

/-- What a satisfied WAIT does: the target rises (R100). -/
def waitDone (ctr inc : Nat) (c : Core) : Core := (c.setTarget ctr (c.target ctr + inc)).closeWord
/-- What a satisfied BWAIT does: GEN flips (R102). -/
def barrierDone (e : Nat) (c : Core) : Core :=
  (c.setSync e (setB (c.syncEntry e) (!syGen (c.syncEntry e)))).closeWord
where
  /-- Bit 49 of an entry. -/
  setB (w : Nat) (b : Bool) : Nat := w - boolNat (bit w 49) * 2 ^ 49 + boolNat b * 2 ^ 49
/-- What a satisfied CWAIT does: TARGET rises by STEP (R102). -/
def counterDone (e : Nat) (c : Core) : Core :=
  let w := c.syncEntry e
  (c.setSync e (w - syTarget w + (syTarget w + syStep w) % 2 ^ 32)).closeWord

/-- ARRIVE at the root (R40): the last expected arrival releases the generation, flips it and clears the count.  An object with no expected count, or a counter, is left as it is. -/
def SyncObj.arrive (o : SyncObj) : SyncObj :=
  if o.counter || o.expected = 0 then o
  else if o.arrived + 1 ≥ o.expected then { o with arrived := 0, gen := !o.gen } else { o with arrived := o.arrived + 1 }

/-- CADD at the root (R40, R102). -/
def SyncObj.add (o : SyncObj) (n : Nat) : SyncObj := if o.counter then { o with value := (o.value + n) % 2 ^ 32 } else o

/-- The highest row a handle addresses (R61). -/
def footEnd (h : Nat) : Nat :=
  let l := hLength h
  if hMode h = 1 then hBase h + (l - 1) * hStride h
  else if hMode h = 2 then
    let r := max 1 (hRun h)
    let full := (l - 1) / r
    max (hBase h + full * hStride h + (l - 1) % r) (if full = 0 then 0 else hBase h + (full - 1) * hStride h + r - 1)
  else hBase h + l - 1

/-- A row in the footprint of a handle (R61). -/
def inFootprint (h n : Nat) : Bool := hLength h > 0 && hBase h ≤ n && n ≤ footEnd h

/-- REL (R67, R69): the counter falls by GTARGET and the handle is in FILL again, so that what was parked for it may be written; in FILL it is a fault. -/
def relCore (h : Nat) (c : Core) : Except StepStop Eff :=
  let e := c.handle h
  if !(hGuarded e && hFull e) then .error (.void codeRelease noRow)
  else
    let c1 := { c with handles := AMap.put 0 c.handles h (hSetFull e false),
                       opened := if c.parked.any (fun p => inFootprint e (hdrSpad p.h)) then c.opened ++ [h] else c.opened }
    .ok { core := (c1.setCtr (hGctr e) (c.counter (hGctr e) + 65536 - hGtarget e)).closeWord }

/-- LOOP (R101): the loop's register starts at XINIT for the words after it, and its body runs from the next word. -/
def loopCore (d : Nat) (c : Core) : Core :=
  let w := AMap.get 0 c.loops d
  let c1 := c.closeWord
  let c2 := { c1 with stack := ⟨d, c.pc + 1, if loopTrip w = 0 then none else some (loopTrip w)⟩ :: c1.stack }
  c2.setX (loopReg w) (loopInit w)

/-- BEAT n (R103): the segment ends and the next word waits for an edge; a core that owes a segment goes straight on. -/
def beatCore (n : Nat) (c : Core) : Core :=
  let c1 := c.closeWord
  if c.owes then { c1 with run := .issuing, left := n, owes := false, seg := c.owedSeg, cycle := c1.cycle - c.owedCyc, owedCyc := 0,
                           tagAt := c.tagAt.map (· - c.owedCyc) }
  else { c1.paused with run := .waitEdge, left := 0, next := n, heldCnt := 0 }

/-- DONE (R103): issue stops. -/
def doneCore (c : Core) : Core := { c.closeWord with run := .done, left := 0, owes := false, owedCyc := 0 }

/-! ### The words ahead (R38, R103) -/

/-- The operand of the BEAT that closes the segment a core runs, found by following its figure through its loops; 0 when a DONE comes first. -/
def owedWords (c : Core) : Nat → Nat
  | 0 => 0
  | n + 1 =>
    let w := AMap.get 0 c.store c.pc % 65536
    match w / 4096 with
    | 0xB => w % 1024
    | 0xC => 0
    | 0x6 =>
      let d := w / 256 % 16
      let c' := closeLoops c.pc c.stack c
      owedWords { c' with stack := ⟨d, c.pc + 1, if loopTrip (AMap.get 0 c.loops d) = 0 then none else some (loopTrip (AMap.get 0 c.loops d))⟩ :: c'.stack } n
    | _ => owedWords (closeLoops c.pc c.stack c) n

/-- Cycles a core has left before the next edge it may take: the words of its segment, and of the one it owes after an overrun. -/
def Core.remaining (c : Core) : Nat :=
  if c.run == .issuing then c.left + (if c.owes then owedWords c c.left else 0) else 0

end Sys2Proof.Machine
end

