-- ==== Sys2Proof/Machine/Vector.lean ====
section
/-! DEFINITION. What the steps of the vector unit do: its memory and arithmetic forms, quantising, the spinner step and VQEND (R86 to R89, R120 to R122, R131 to R135). -/

namespace Sys2Proof.Machine

/-- VU register r.  DESIGN CHOICE: the register after V15, which a VLDQ or VQST of V15 through a K4 handle names, is V0. -/
def Core.vreg (c : Core) (r : Nat) : Nat := AMap.get 0 c.v (r % 16)
def Core.setV (c : Core) (r v : Nat) : Core := { c with v := AMap.put 0 c.v (r % 16) (v % 2 ^ 2048) }

/-- The row index of a memory-form step: X[x] + imm8 (R80).  DESIGN CHOICE (log 171): the spec wraps index registers modulo 2^16 and does not say it of the sum; here the sum wraps too. -/
def vuIndex (c : Core) (x imm : Nat) : Nat := (c.xreg x + imm) % 65536

/-! ### Loads and stores -/

/-- VLD: four rows as they are, or two rows of BF16 widened (R87). -/
def vldStep (k vr h x imm sub : Nat) (s : State) (c : Core) : Except StepStop Eff := do
  guardReady c h
  if sub = 1 then
    acceptFmt (c.handle h) [fmtBf16]
    let r ← readRows s k c h (vuIndex c x imm) 2
    pure { core := c.setV vr (packLanes 32 ((lanes 16 64 (packRows r.1)).map widen)), reads := r.2, claims := readClaims (c.handle h) 0 4 r.2 }
  else
    let r ← readRows s k c h (vuIndex c x imm) 4
    pure { core := c.setV vr (packRows r.1), reads := r.2, claims := readClaims (c.handle h) 0 4 r.2 }

/-- VST: four rows as they are, or the FP32 lanes narrowed to BF16 into two rows (R87, R112). -/
def vstStep (vr h x imm sub pred : Nat) (c : Core) : Except StepStop Eff := do
  let narrowed := (lanes 32 64 (c.vreg vr)).map narrow
  if sub = 1 then
    acceptFmt (c.handle h) [fmtBf16]
    let ws ← writeRows c h (vuIndex c x imm) (rowsOf 2 (packLanes 16 (narrowed.map (·.1))))
    pure { core := (c.clamp (narrowed.countP (·.2))).suppressed pred, writes := if c.commits pred then ws else [], claims := portClaims 2 4 (ws.map (·.1)) }
  else
    let ws ← writeRows c h (vuIndex c x imm) (rowsOf 4 (c.vreg vr))
    pure { core := c.suppressed pred, writes := if c.commits pred then ws else [], claims := portClaims 1 4 (ws.map (·.1)) }

def vldsStep (k h x imm : Nat) (s : State) (c : Core) : Except StepStop Eff := do
  guardReady c h
  let r ← readRows s k c h (vuIndex c x imm) 1
  pure { core := { c with sa := packRows r.1, sp := 0 }, reads := r.2, claims := readClaims (c.handle h) 0 4 r.2 }

def vsstStep (h x imm pred : Nat) (c : Core) : Except StepStop Eff := do
  let ws ← writeRows c h (vuIndex c x imm) [BitVec.ofNat 512 c.sa]
  pure { core := Core.suppressed { c with sp := 0 } pred, writes := if c.commits pred then ws else [], claims := portClaims 1 4 (ws.map (·.1)) }

/-- Byte i of SA; SP wraps at 64 (R88). -/
def saByte (sa i : Nat) : Nat := sa >>> (8 * (i % 64)) % 256
def setSaByte (sa i v : Nat) : Nat :=
  let j := i % 64
  sa - (saByte sa j) * 2 ^ (8 * j) + v % 256 * 2 ^ (8 * j)

/-- One vector of 64 codes decoded with the scale bytes at SA[sp] and SA[sp + 1]. -/
def dequant (f codes sa sp : Nat) : Nat :=
  packLanes 32 ((List.range 64).map fun e =>
    decodeFp32 f (codes >>> (fmtBits f * e) % 2 ^ fmtBits f) (saByte sa (sp + e / 32)))

/-- VLDQ: dequantises one row, one vector from K8, two from K4 (R87, R106, R111, R123). -/
def vldqStep (k vr h x imm : Nat) (s : State) (c : Core) : Except StepStop Eff := do
  guardReady c h
  acceptFmt (c.handle h) [fmtK8, fmtK4]
  let r ← readRows s k c h (vuIndex c x imm) 1
  let row := packRows r.1
  if hFmt (c.handle h) = fmtK8 then
    pure { core := { c.setV vr (dequant fmtK8 row c.sa c.sp) with sp := (c.sp + 2) % 64 }, reads := r.2, claims := readClaims (c.handle h) 0 4 r.2 }
  else
    let c1 := c.setV vr (dequant fmtK4 row c.sa c.sp)
    let c2 := c1.setV (vr + 1) (dequant fmtK4 (row >>> 256) c.sa (c.sp + 2))
    pure { core := { c2 with sp := (c.sp + 4) % 64 }, reads := r.2, claims := readClaims (c.handle h) 0 4 r.2 }

/-! ### Quantising -/

/-- The two blocks of a register, quantised. -/
def quantReg (f n v : Nat) : List QBlock :=
  let xs := lanes 32 64 v
  [quantBlock f n (xs.take 32), quantBlock f n (xs.drop 32)]

/-- SA with the scale bytes of blocks put at sp onward. -/
def putScales (sa sp : Nat) : List QBlock → Nat
  | [] => sa
  | b :: bs => putScales (setSaByte sa sp b.scale) (sp + 1) bs

/-- The side row an assembly makes: 32 entries of 16 bits, the missing ones zero (R118, R121). -/
def sideRow (entries : List Nat) : Row := BitVec.ofNat 512 (packLanes 16 (entries.take 32))

/-- Where a side row goes: its handle must be raw, at the side pointer's index (R121). -/
def sideWrite (c : Core) (q : Nat) (entries : List Nat) : Except StepStop (List (Nat × Row)) := do
  let cfg := AMap.get 0 c.tileCfg q
  acceptFmt (c.handle (tcSide cfg)) [fmtRaw]
  writeRows c (tcSide cfg) (c.tile q).side [sideRow entries]

/-- VQST: quantises one register into a K8 row, or two into a K4 row, with counts, scales and side entries (R87, R113 to R122). -/
def vqstStep (vr h x imm sub pred : Nat) (c : Core) : Except StepStop Eff := do
  acceptFmt (c.handle h) [fmtK8, fmtK4]
  let f := hFmt (c.handle h)
  let n := if f = fmtK4 then tcN (AMap.get 0 c.tileCfg sub) else 0
  let blocks := if f = fmtK8 then quantReg f 0 (c.vreg vr) else quantReg f n (c.vreg vr) ++ quantReg f n (c.vreg (vr + 1))
  let row := BitVec.ofNat 512 (packLanes (fmtBits f) (blocks.flatMap (·.codes)))
  let ws ← writeRows c h (vuIndex c x imm) [row]
  let t := (c.tile sub).count blocks
  let asm := t.asm ++ blocks.flatMap (·.entries)
  let ok := c.commits pred
  let side ← if asm.length ≥ 32 then sideWrite c sub asm else pure []
  let t' := if asm.length ≥ 32 then { t with asm := [], side := t.side + 1 } else { t with asm := asm }
  let c' := { c.setTile sub t' with sa := putScales c.sa c.sp blocks, sp := (c.sp + blocks.length) % 64 }
  pure { core := c'.suppressed pred, writes := if ok then ws ++ side else [], claims := (ws ++ side).map fun w => (c.lat 9, w.1) }

/-- VSPIN: rotates 2^n FP32 elements in place (R89). -/
def vspinStep (k h x imm : Nat) (s : State) (c : Core) : Except StepStop Eff := do
  guardReady c h
  acceptFmt (c.handle h) [fmtFp32]
  let n := imm / 32 + 6
  let rows := 2 ^ n / 16
  let r ← readRows s k c h (c.xreg x) rows
  let out := spin n (AMap.get 0 c.seeds (imm % 32)) (lanes 32 (2 ^ n) (packRows r.1))
  let ws ← writeRows c h (c.xreg x) (rowsOf rows (packLanes 32 out))
  pure { core := c, reads := r.2, writes := ws,
         claims := readClaims (c.handle h) 0 4 r.2 ++
           portClaims (((n + 5) / 6 - 1) * (rows / 4) + c.rowsLatency r.2 + 1 + c.lat 10) 4 (ws.map (·.1)) }

/-- VQEND: writes an incomplete assembly, acts on the verdict and clears the tile set; a predicate takes the verdict for words issued from t + 2 (R87, R121, R133 to R135). -/
def vqendStep (q p : Nat) (report : Bool) (c : Core) : Except StepStop Eff := do
  let t := c.tile q
  let v := verdict (AMap.get 0 c.tileCfg q) t
  let side ← if t.asm.isEmpty then pure [] else sideWrite c q t.asm
  let c1 := (c.setTile q Tile.clear).event 0x14 (boolNat v)
  let c2 :=
    if report then
      if v && c.pred p then { c1 with reports := c1.reports ||| 2 ^ q, reportCount := c1.reportCount + 1, lateReports := AMap.put 0 c1.lateReports q (if c1.owes then c1.seg + 1 else 0) } else c1
    else { c1 with verdicts := c1.verdicts ++ [(p, v, false)], inlineVerdicts := c1.inlineVerdicts + boolNat v }
  pure { core := c2, writes := side, claims := side.map fun w => (1, w.1) }

/-! ### Arithmetic -/

/-- The lane format W selects, and its lanes: 64 of FP32 or 128 of BF16. -/
def laneFmt (w : Bool) : Fmt := if w then Fmt.bf16 else Fmt.fp32
def laneBits (w : Bool) : Nat := if w then 16 else 32
def laneCount (w : Bool) : Nat := if w then 128 else 64
def regLanes (w : Bool) (v : Nat) : List Nat := lanes (laneBits w) (laneCount w) v
def regOf (w : Bool) (xs : List Nat) : Nat := packLanes (laneBits w) xs

/-- Lane by lane on one, two or three registers. -/
def lanes1 (w : Bool) (f : Nat → Nat) (a : Nat) : Nat := regOf w ((regLanes w a).map f)
def lanes2 (w : Bool) (f : Nat → Nat → Nat) (a b : Nat) : Nat := regOf w (List.zipWith f (regLanes w a) (regLanes w b))
def lanes3 (w : Bool) (f : Nat → Nat → Nat → Nat) (a b d : Nat) : Nat :=
  regOf w (List.zipWith (fun (p : Nat × Nat) z => f p.1 p.2 z) ((regLanes w a).zip (regLanes w b)) (regLanes w d))

/-- The same value in every lane.  DESIGN CHOICE: VBCST copies the bits of its lane, of a NaN too. -/
def broadcast (w : Bool) (x : Nat) : Nat := regOf w (List.replicate (laneCount w) x)

/-- The functions of R88 on one lane, bounded to one unit in the last place of the exact result. -/
def laneExp (w : Bool) (x : Nat) : Nat :=
  if w then Fmt.bf16.expF (Config.fexp16 (BitVec.ofNat 16 x)).toNat x else fexp32 x
def laneRcp (w : Bool) (x : Nat) : Nat :=
  if w then Fmt.bf16.rcpF (Config.frcp16 (BitVec.ofNat 16 x)).toNat x else Fmt.fp32.rcpF (Config.frcp32 (BitVec.ofNat 32 x)).toNat x
def laneRsq (w : Bool) (x : Nat) : Nat :=
  if w then Fmt.bf16.rsqF (Config.frsq16 (BitVec.ofNat 16 x)).toNat x else Fmt.fp32.rsqF (Config.frsq32 (BitVec.ofNat 32 x)).toNat x
def laneSig (w : Bool) (x : Nat) : Nat :=
  if w then Fmt.bf16.sigF (Config.fsig16 (BitVec.ofNat 16 x)).toNat x else Fmt.fp32.sigF (Config.fsig32 (BitVec.ofNat 32 x)).toNat x

/-- One level of the pairwise tree: lanes 2j and 2j + 1 (R88). -/
def pairSums (f : Fmt) : List Nat → List Nat
  | a :: b :: rest => f.add a b :: pairSums f rest
  | rest => rest

/-- VSUM: the pairwise tree, each sum rounded (R88). -/
def treeSum (w : Bool) (v : Nat) : Nat :=
  ((List.range (if w then 7 else 6)).foldl (fun xs _ => pairSums (laneFmt w) xs) (regLanes w v)).headD 0

/-- VMAXR: the maximum, with NaN below minus infinity (R88). -/
def laneMax (w : Bool) (v : Nat) : Nat :=
  match regLanes w v with
  | [] => 0
  | x :: xs => xs.foldl (laneFmt w).maxTotal ((laneFmt w).maxTotal x x)

/-- Inserts (lane, value) in descending order of value, equal values by the lower lane (R88, R244). -/
def insertRank (p : Nat × Nat) : List (Nat × Nat) → List (Nat × Nat)
  | [] => [p]
  | q :: qs => if Fmt.fp32.orderKey p.2 > Fmt.fp32.orderKey q.2 then p :: q :: qs else q :: insertRank p qs

/-- VTOPK: the 8 largest lanes in lanes 0 to 7, their lane numbers in lanes 8 to 15, zeros above (R88). -/
def topk (v : Nat) : Nat :=
  let xs := lanes 32 64 v
  let ranked := ((List.range 64).foldl (fun acc i => (insertRank (i, xs.getD i 0) acc).take 8) []).take 8
  packLanes 32 (ranked.map (fun p => if Fmt.fp32.isNan p.2 then Fmt.fp32.qnan else p.2) ++ ranked.map (·.1))

/-- FCVT: FP32 lanes to BF16 lanes 0 to 63 with the rest zero, or BF16 lanes 0 to 63 to FP32 (R87, R112). -/
def fcvtCore (vd va : Nat) (w : Bool) (c : Core) : Core :=
  if w then c.setV vd (packLanes 32 ((lanes 16 64 (c.vreg va)).map widenLane))
  else
    let n := (lanes 32 64 (c.vreg va)).map narrow
    (c.setV vd (packLanes 16 (n.map (·.1)))).clamp (n.countP (·.2))

end Sys2Proof.Machine
end

