-- ==== Sys2Proof/Machine/Words.lean ====
section
/-! DEFINITION. The issue of step words (R50, R53, R73 to R77): which step a core issues, when a word waits or is in conflict, the meanings of the steps, and the events that end a wait or let it time out. -/

namespace Sys2Proof.Machine

/-! ### The word at pc -/

/-- The slot a step stands in: 0 matrix array to 4 sequencer. -/
def slotOfStep (i : Instr) : Nat := ((encodeSlot i).map (·.1)).getD 5

/-- The bits of a slot of a word (R75). -/
def slotBits (n w : Nat) : Nat :=
  match n with
  | 0 => slotMa w
  | 1 => slotVu w
  | 2 => slotAp w
  | 3 => slotDm w
  | _ => slotSq w

/-- The word at pc. -/
def Core.word (c : Core) : Nat := AMap.get 0 c.store c.pc

/-- The five steps of the word at pc. -/
def Core.wordSteps (c : Core) (id : CoreId) : List Instr := (List.range 5).filterMap fun n => decodeSlot id n (slotBits n c.word)

/-- A slot of the word at pc that has nothing left to issue. -/
def Core.slotDone (c : Core) (n : Nat) : Bool := bit c.issued n || slotBits n c.word == 0

/-- The core issues this step now: it runs a figure, nothing holds it, the step stands in the word at pc and has not issued; the sequencer's step, which closes the word, issues after the others (R50, R76). -/
def Core.offers (c : Core) (id : CoreId) (i : Instr) : Bool :=
  c.held.isNone && c.run == .issuing && decodeSlot id (slotOfStep i) (slotBits (slotOfStep i) c.word) == some i &&
    !bit c.issued (slotOfStep i) && (slotOfStep i != 4 || (List.range 4).all c.slotDone)

/-! ### What the steps do -/

/-- A step that changes only the core, and reads nothing. -/
def onCore (f : Core → Core) : State → Core → Except StepStop Eff := fun _ c => .ok { core := f c }

/-- An arithmetic step with one result. -/
def arith (vd : BitVec 4) (f : Core → Nat) : State → Core → Except StepStop Eff := onCore fun c => c.setV vd.toNat (f c)

/-- A sequencer step that never holds: its updates take effect from the next word (R76). -/
def closing (f : Core → Core) : State → Core → Except StepStop Eff := onCore fun c => (f c).closeWord

/-- A sequencer step that holds the word until a condition is met; once another step of the word has issued, it has been. -/
def waiting (met : State → Core → Bool) (cause : StallCause) (f : Core → Core) : State → Core → Except StepStop Eff := fun s c =>
  if c.issued % 16 != 0 || met s c then .ok { core := f c } else .error (.hold cause [])

/-- A step that acts on the sync object its entry names, and closes the word. -/
def syncStep (e : Nat) (f : SyncObj → SyncObj) : State → Core → Except StepStop Eff := fun s c =>
  .ok { core := c.closeWord, objs := [(syObject (c.syncEntry e), f (s.object (syObject (c.syncEntry e))))] }

/-- What each step does when it issues. -/
def stepOf (k : Nat) : Instr → Option (State → Core → Except StepStop Eff)
  | .mnop _ => some (onCore id)
  | .mload _ h x wb out => some (mloadStep k h.toNat x.toNat wb out)
  | .mmul _ h x wb ab z v1 => some (mmulStep k h.toNat x.toNat wb ab z (v1.toNat + 1))
  | .mout _ h x ab bf v1 pred => some fun _ c => moutStep h.toNat x.toNat ab bf (v1.toNat + 1) pred.toNat c
  | .vnop _ => some (onCore id)
  | .vld _ vr h x imm sub => some (vldStep k vr.toNat h.toNat x.toNat imm.toNat sub.toNat)
  | .vst _ vr h x imm sub pred => some fun _ c => vstStep vr.toNat h.toNat x.toNat imm.toNat sub.toNat pred.toNat c
  | .vlds _ h x imm => some (vldsStep k h.toNat x.toNat imm.toNat)
  | .vsst _ h x imm pred => some fun _ c => vsstStep h.toNat x.toNat imm.toNat pred.toNat c
  | .vldq _ vr h x imm => some (vldqStep k vr.toNat h.toNat x.toNat imm.toNat)
  | .vqst _ vr h x imm sub pred => some fun _ c => vqstStep vr.toNat h.toNat x.toNat imm.toNat sub.toNat pred.toNat c
  | .vspin _ h x imm => some (vspinStep k h.toNat x.toNat imm.toNat)
  | .vqend _ imm => some fun _ c => vqendStep (bits imm.toNat 8 7) (bits imm.toNat 6 5) (bit imm.toNat 4) c
  | .fadd _ vd va vb w => some (arith vd fun r => lanes2 w (laneFmt w).add (r.vreg va.toNat) (r.vreg vb.toNat))
  | .fsub _ vd va vb w => some (arith vd fun r => lanes2 w (laneFmt w).sub (r.vreg va.toNat) (r.vreg vb.toNat))
  | .fmul _ vd va vb w => some (arith vd fun r => lanes2 w (laneFmt w).mul (r.vreg va.toNat) (r.vreg vb.toNat))
  | .fma _ vd va vb vc w => some (arith vd fun r => lanes3 w (laneFmt w).fma (r.vreg va.toNat) (r.vreg vb.toNat) (r.vreg vc.toNat))
  | .fmax _ vd va vb w => some (arith vd fun r => lanes2 w (laneFmt w).max (r.vreg va.toNat) (r.vreg vb.toNat))
  | .fmin _ vd va vb w => some (arith vd fun r => lanes2 w (laneFmt w).min (r.vreg va.toNat) (r.vreg vb.toNat))
  | .fexp _ vd va w => some (arith vd fun r => lanes1 w (laneExp w) (r.vreg va.toNat))
  | .frcp _ vd va w => some (arith vd fun r => lanes1 w (laneRcp w) (r.vreg va.toNat))
  | .frsq _ vd va w => some (arith vd fun r => lanes1 w (laneRsq w) (r.vreg va.toNat))
  | .fsig _ vd va w => some (arith vd fun r => lanes1 w (laneSig w) (r.vreg va.toNat))
  | .vsum _ vd va w => some (arith vd fun r => broadcast w (treeSum w (r.vreg va.toNat)))
  | .vmaxr _ vd va w => some (arith vd fun r => broadcast w (laneMax w (r.vreg va.toNat)))
  | .vbcst _ vd va w lane => some (arith vd fun r => broadcast w ((regLanes w (r.vreg va.toNat)).getD lane.toNat 0))
  | .vtopk _ vd va => some (arith vd fun r => topk (r.vreg va.toNat))
  | .fcvt _ vd va widen => some (onCore (fcvtCore vd.toNat va.toNat widen))
  | .anop _ => some (onCore id)
  | .acfg _ arg => some (onCore fun r => { r with apSel := arg.toNat })
  | .aqld _ h x => some (aqldStep k h.toNat x.toNat)
  | .arst _ slot => some (onCore fun r => r.setSlot slot ApSlot.reset)
  | .apage _ h x causal slot => some (apageStep k h.toNat x.toNat causal slot)
  | .aout _ h x slot => some fun _ c => aoutStep h.toNat x.toNat slot c
  | .amrg _ h x slot => some (amrgStep k h.toNat x.toNat slot)
  | .anorm _ h x slot => some fun _ c => anormStep h.toNat x.toNat slot c
  | .dnop _ => some (onCore id)
  | .dcpy _ hs xs hd xd n1 pred => some (dcpyStep k hs.toNat xs.toNat hd.toNat xd.toNat (n1.toNat + 1) pred.toNat)
  | .dsend _ hs xs route xd len pred => some (dsendStep k hs.toNat xs.toNat route.toNat xd.toNat len.toNat pred.toNat)
  | .dred _ hs xs route xd pred => some (dredStep k hs.toNat xs.toNat route.toNat xd.toNat pred.toNat)
  | .dqget _ hs xs route xd pred => some (dqStep k hs.toNat xs.toNat route.toNat xd.toNat 0 pred.toNat)
  | .dqput _ hs xs route xd len pred => some (dqStep k hs.toNat xs.toNat route.toNat xd.toNat len.toNat pred.toNat)
  | .dscat _ hs xs route hi xi pred => some (dscatStep k hs.toNat xs.toNat route.toNat hi.toNat xi.toNat pred.toNat)
  | .dnw _ hs xs hd xd a b pred => some (dnwStep k hs.toNat xs.toNat hd.toNat xd.toNat a.toNat b.toNat pred.toNat)
  | .dctr _ h x sel pred => some (dctrStep k h.toNat x.toNat sel.toNat pred.toNat)
  | .nop _ => some (closing id)
  | .wait _ ctr inc => some (waiting (fun _ c => waitMet c ctr.toNat) (.arrival ctr.toNat inc.toNat) (waitDone ctr.toNat inc.toNat))
  | .cset _ ctr v => some (closing fun r => r.setCtr ctr.toNat v.toNat)
  | .tset _ ctr v => some (closing fun r => r.setTarget ctr.toNat v.toNat)
  | .tadd _ ctr v => some (closing fun r => r.setTarget ctr.toNat (r.target ctr.toNat + 128 * v.toNat))
  | .rel _ h => some fun _ c => relCore h.toNat c
  | .loop _ d => some (onCore (loopCore d.toNat))
  | .xset _ x v => some (closing fun r => r.setX x.toNat v.toNat)
  | .xadd _ x v => some (closing fun r => addX r x.toNat (signed 9 v.toNat))
  | .pset _ p v => some (closing fun r => r.setP p.toNat v)
  | .arrive _ e => some (syncStep e.toNat SyncObj.arrive)
  | .bwait _ e => some (waiting (fun s c => barrierMet s c e.toNat) (.barrier e.toNat) (barrierDone e.toNat))
  | .cadd _ e imm => some (syncStep e.toNat fun o => o.add (imm.toNat + 1))
  | .cwait _ e => some (waiting (fun s c => counterMet s c e.toNat) (.counter e.toNat) (counterDone e.toNat))
  | .beat _ n => some (onCore (beatCore n.toNat))
  | .done _ => some (onCore doneCore)
  | _ => none

/-- What the steps of the word at pc would do now, with each step. -/
def Core.wordEffects (c : Core) (id : CoreId) (s : State) : List (Instr × Except StepStop Eff) :=
  (c.wordSteps id).filterMap fun i => (stepOf id.key i).map fun f => (i, f s c)

/-- The steps of the word that have to wait, and why (R76). -/
def wordHolds (s : State) (id : CoreId) (c : Core) : List (StallCause × Instr) :=
  (c.wordEffects id s).flatMap fun p => match p.2 with
    | .error (.hold cause more) => (cause :: more).map fun a => (a, p.1)
    | _ => []

/-- The first step of the word that has to wait, and why (R76). -/
def wordHold (s : State) (id : CoreId) (c : Core) : Option (StallCause × Instr) := (wordHolds s id c).head?

/-- What the steps of the word claim. -/
def wordClaims (s : State) (id : CoreId) (c : Core) : List (Nat × Nat) :=
  (c.wordEffects id s).flatMap fun p => match p.2 with
    | .ok e => e.claims
    | .error _ => []

/-! ### Busy units (R421) -/

/-- The event of a unit that a step occupies, and the cycles: MMUL busy spans (R84), the vector unit (R87, R89), the attention pipe (R91, R93), the data mover (R96).  DESIGN CHOICE (log 174): a step's cycles are counted whole as it issues. -/
def busyOf (c : Core) : Instr → Nat × Nat
  | .mmul _ h _ wb _ _ v1 =>
    let wf := (c.bank wb).fmt
    let af := hFmt (c.handle h.toNat)
    (0x08, (v1.toNat + 1) * if wf = fmtBf16 then 8 else if wf = fmtK8 || af = fmtK8 then 2 else 1)
  | .vspin _ _ _ imm => let n := imm.toNat / 32 + 6; (0x09, (n + 5) / 6 * (2 ^ n / 64))
  | .acfg _ _ => (0x0A, 1)
  | .arst _ _ => (0x0A, 1)
  | .aqld _ _ _ => (0x0A, (apG c.apConfig * apD c.apConfig * 2 / 64 + 8) / 8)
  | .apage _ h x _ _ => (0x0A, c.rowsLatency [handleRow (c.handle h.toNat) (c.xreg x.toNat / 16)] + (apPageRows c.apConfig + 7) / 8)
  | .aout _ _ _ _ => (0x0A, (apG c.apConfig * apD c.apConfig / 16 + (apG c.apConfig + 7) / 8 + 1) / 2)
  | .amrg _ _ _ _ => (0x0A, (apG c.apConfig * apD c.apConfig / 16 + (apG c.apConfig + 7) / 8 + 7) / 8)
  | .anorm _ _ _ _ => (0x0A, (apG c.apConfig * apD c.apConfig * 2 / 64 + 1) / 2)
  | .dcpy _ _ _ _ _ n1 _ => (0x0B, (n1.toNat + 4) / 4)
  | .dsend _ _ _ _ _ len _ => (0x0B, (len.toNat + 4) / 4)
  | .dqput _ _ _ _ _ len _ => (0x0B, (len.toNat + 4) / 4)
  | .dscat _ _ _ route hi xi _ =>
    (0x0B, c.rowsLatency [handleRow (c.handle hi.toNat) (c.xreg xi.toNat / 16)] + (hdrLen (routeHdr (c.route route.toNat)) + 4) / 4)
  | .dred _ _ _ _ _ _ => (0x0B, 1)
  | .dqget _ _ _ _ _ _ => (0x0B, 1)
  | .dnw _ _ _ _ _ _ _ _ => (0x0B, 1)
  | .dctr _ _ _ _ _ => (0x0B, 1)
  | .vnop _ => (0x00, 0)
  | i => if slotOfStep i = 1 then (0x09, 1) else (0x00, 0)

/-! ### Sampling (R429, R430) -/

/-- The PRED field of a step that has one (R78). -/
def predOf : Instr → Option Nat
  | .mout _ _ _ _ _ _ p => some p.toNat
  | .vst _ _ _ _ _ _ p => some p.toNat
  | .vsst _ _ _ _ p => some p.toNat
  | .vqst _ _ _ _ _ _ p => some p.toNat
  | .dcpy _ _ _ _ _ _ p => some p.toNat
  | .dsend _ _ _ _ _ _ p => some p.toNat
  | .dred _ _ _ _ _ p => some p.toNat
  | .dqget _ _ _ _ _ p => some p.toNat
  | .dqput _ _ _ _ _ _ p => some p.toNat
  | .dscat _ _ _ _ _ _ p => some p.toNat
  | .dnw _ _ _ _ _ _ _ p => some p.toNat
  | .dctr _ _ _ _ p => some p.toNat
  | _ => none

/-- The tag of the word at pc as it reaches issue position: what R430 records of it then. -/
def Core.newTag (c : Core) (id : CoreId) : SampleTag :=
  let suppressed (n : Nat) : Bool := ((decodeSlot id n (slotBits n c.word)).bind predOf).any fun p => !c.commits p
  let mask (f : Nat → Bool) : Nat := ((List.range 4).map fun n => boolNat (f n) * 2 ^ n).sum
  ⟨c.pc, c.seg, c.cycle, 0, 0, ((List.range 4).map fun n => boolNat (c.pred n) * 2 ^ n).sum, mask suppressed,
    mask fun n => bits (slotBits n c.word) 31 (if n = 0 then 28 else if n = 1 then 26 else if n = 2 then 12 else 27) == 0, false⟩

/-- The word at pc reaches issue position: the first to do so when the sampler's interval has ended is tagged (R429). -/
def Core.reach (c : Core) (id : CoreId) : Core := match c.tagAt with
  | some t => if t ≤ c.cycle then { c with tagAt := none, tag := some (c.newTag id) } else c
  | none => c

/-- The tagged word issues: the predicates it sees are those of now. -/
def Core.tagIssues (c : Core) (id : CoreId) : Core :=
  { c with tag := c.tag.map fun t => if t.issued then t else
      { t with preds := (c.newTag id).preds, suppressed := (c.newTag id).suppressed, issued := true } }

/-! ### Issue -/

/-- The core as a step of the word at pc issues: with the first step the word's claims are taken and a sampler's tag is settled; the sequencer's step comes after the verdicts that are due. -/
def Core.begin (c : Core) (id : CoreId) (i : Instr) (cl : List (Nat × Nat)) : Core :=
  let c₀ := if c.issued = 0 then (c.reach id).tagIssues id else c
  let c₁ := Core.event { c₀ with issued := c.issued + 2 ^ slotOfStep i, claims := c.claims ++ cl } (busyOf c i).1 (busyOf c i).2
  if slotOfStep i = 4 then c₁.settleVerdicts else c₁

/-- The core as its word begins to wait: verdicts are settled, and a sampler's tag takes the causes. -/
def Core.waits (c : Core) (id : CoreId) (causes : List StallCause) : Core :=
  (c.paused.reach id).tagHeld ((causes.map StallCause.sampleBit).foldl (· ||| ·) 0)

/-- Holds a core at a step for a cause and perhaps more, or stops it there while a hold is in force (R74). -/
def stallCore (id : CoreId) (cause : StallCause) (more : List StallCause) (i : Instr) : Prog :=
  .get fun s =>
    let c := (s.core id.key).waits id (cause :: more)
    if holdInForce s then setCore id.key { c.tagEnded with run := .stopped, held := none, heldBy := [] }
    else setCore id.key { c with held := some ⟨cause, i, s.now⟩, heldBy := more, heldCnt := 0 }

/-- What the word waits for besides its first cause. -/
def otherHolds (s : State) (id : CoreId) (c : Core) : List StallCause := (wordHolds s id c).tail.map (·.1)

/-- Ends a step: it commits, raises a void, or holds the core. -/
def finishStep (id : CoreId) (i : Instr) : Except StepStop Eff → Prog
  | .error (.void code row) => voidCore id.key code row
  | .error (.voidAs code row c) => (setCore id.key c).andThen (voidCore id.key code row)
  | .error (.hold cause more) => stallCore id cause more i
  | .ok e => commit id.key e

/-- Issues a step of the word at pc.  A word that has to wait waits as a whole, and one whose accesses claim a bank twice in a cycle performs none of them (R53, R76). -/
def unitStep (id : CoreId) (i : Instr) : Prog :=
  withCore id fun c =>
    if !c.offers id i then .done
    else .get fun s =>
      match stepOf id.key i, (if c.issued = 0 then wordHold s id c else none),
          (if c.issued = 0 then firstClash c.claims (wordClaims s id c) else none) with
      | none, _, _ => .done
      | some _, some w, _ => stallCore id w.1 (otherHolds s id c) w.2
      | some _, none, some row => voidCore id.key codeBank row
      | some f, none, none =>
        (setCore id.key (c.begin id i (if c.issued = 0 then wordClaims s id c else []))).andThen
          (.get fun s => finishStep id i (f s (s.core id.key)))

/-- A condition of a held word is met (R40, R41, R63, R66, R68). -/
def causeMet (s : State) (c : Core) : StallCause → Bool
  | .guard h => !c.mustFill h
  | .egress flits => flitCount c.egress + flits ≤ 64
  | .arrival ctr _ => waitMet c ctr
  | .barrier e => barrierMet s c e
  | .counter e => counterMet s c e

/-- A held word whose last condition is met issues now, if it is its step's turn; or another condition of the word holds it from now on (R76). -/
def resumeWord (id : CoreId) (step : Instr) : Prog :=
  .get fun s =>
    let c := s.core id.key
    match wordHold s id c with
    | some w => stallCore id w.1 (otherHolds s id c) w.2
    | none => unitStep id step

/-- A held core whose word waits for nothing any more: the cycles it was held are counted, and it stands so much later in its segment. -/
def State.freedCore (s : State) (id : CoreId) : Core :=
  let c := s.core id.key
  { (c.countWait (s.heldCycles id.key c)).advanceCycles (s.heldCycles id.key c) with held := none, heldBy := [] }

/-- Some conditions of a held word may be met: those of a kind that are met hold it no longer, and when it waits for nothing else it goes on.  The cycles it was held are counted (R76, R421). -/
def releaseWord (id : CoreId) (kind : StallCause → Bool) : Prog :=
  .get fun s =>
    let c := s.core id.key
    let met := c.causes.filter fun a => kind a && causeMet s c a
    match c.held, c.causes.filter fun a => !met.contains a with
    | none, _ => .done
    | some st, [] =>
      (setCore id.key (s.freedCore id)).andThen (resumeWord id st.step)
    | some st, a :: more => .when (!met.isEmpty) (setCore id.key { c.countWait (s.heldCycles id.key c) with held := some { st with cause := a }, heldBy := more })

/-! ### Matrix array (R81) -/

def execMnop (c : CoreId) (s : State) : Host.Outcome State Fault Refusal := (unitStep c (.mnop c)).run s
def execMload (c : CoreId) (h : BitVec 6) (x : BitVec 3) (wb : Bool) (out : BitVec 2) (s : State) : Host.Outcome State Fault Refusal :=
  (unitStep c (.mload c h x wb out)).run s
def execMmul (c : CoreId) (h : BitVec 6) (x : BitVec 3) (wb ab z : Bool) (v1 : BitVec 6) (s : State) : Host.Outcome State Fault Refusal :=
  (unitStep c (.mmul c h x wb ab z v1)).run s
def execMout (c : CoreId) (h : BitVec 6) (x : BitVec 3) (ab bf : Bool) (v1 : BitVec 6) (pred : BitVec 3) (s : State) : Host.Outcome State Fault Refusal :=
  (unitStep c (.mout c h x ab bf v1 pred)).run s

/-! ### Vector unit (R86, R87) -/

def execVnop (c : CoreId) (s : State) : Host.Outcome State Fault Refusal := (unitStep c (.vnop c)).run s
/-- Sub-operations 2 and 3 are reserved (R87). -/
def execVld (c : CoreId) (vr : BitVec 4) (h : BitVec 6) (x : BitVec 3) (imm : BitVec 8) (sub : BitVec 2) (s : State) : Host.Outcome State Fault Refusal :=
  (if sub.toNat > 1 then reservedStep else unitStep c (.vld c vr h x imm sub)).run s
/-- Sub-operations 2 and 3 are reserved (R87). -/
def execVst (c : CoreId) (vr : BitVec 4) (h : BitVec 6) (x : BitVec 3) (imm : BitVec 8) (sub : BitVec 2) (pred : BitVec 3) (s : State) : Host.Outcome State Fault Refusal :=
  (if sub.toNat > 1 then reservedStep else unitStep c (.vst c vr h x imm sub pred)).run s
def execVlds (c : CoreId) (h : BitVec 6) (x : BitVec 3) (imm : BitVec 8) (s : State) : Host.Outcome State Fault Refusal :=
  (unitStep c (.vlds c h x imm)).run s
def execVsst (c : CoreId) (h : BitVec 6) (x : BitVec 3) (imm : BitVec 8) (pred : BitVec 3) (s : State) : Host.Outcome State Fault Refusal :=
  (unitStep c (.vsst c h x imm pred)).run s
def execVldq (c : CoreId) (vr : BitVec 4) (h : BitVec 6) (x : BitVec 3) (imm : BitVec 8) (s : State) : Host.Outcome State Fault Refusal :=
  (unitStep c (.vldq c vr h x imm)).run s
def execVqst (c : CoreId) (vr : BitVec 4) (h : BitVec 6) (x : BitVec 3) (imm : BitVec 8) (sub : BitVec 2) (pred : BitVec 3) (s : State) : Host.Outcome State Fault Refusal :=
  (unitStep c (.vqst c vr h x imm sub pred)).run s
def execVspin (c : CoreId) (h : BitVec 6) (x : BitVec 3) (imm : BitVec 8) (s : State) : Host.Outcome State Fault Refusal :=
  (unitStep c (.vspin c h x imm)).run s
/-- The predicate mode names P1 to P3 and imm9[3:0] is zero; other words are reserved (R87, R135). -/
def execVqend (c : CoreId) (imm : BitVec 9) (s : State) : Host.Outcome State Fault Refusal :=
  (if imm.toNat % 16 != 0 || (!bit imm.toNat 4 && bits imm.toNat 6 5 == 0) then reservedStep else unitStep c (.vqend c imm)).run s
def execFadd (c : CoreId) (vd va vb : BitVec 4) (w : Bool) (s : State) : Host.Outcome State Fault Refusal :=
  (unitStep c (.fadd c vd va vb w)).run s
def execFsub (c : CoreId) (vd va vb : BitVec 4) (w : Bool) (s : State) : Host.Outcome State Fault Refusal :=
  (unitStep c (.fsub c vd va vb w)).run s
def execFmul (c : CoreId) (vd va vb : BitVec 4) (w : Bool) (s : State) : Host.Outcome State Fault Refusal :=
  (unitStep c (.fmul c vd va vb w)).run s
def execFma (c : CoreId) (vd va vb vc : BitVec 4) (w : Bool) (s : State) : Host.Outcome State Fault Refusal :=
  (unitStep c (.fma c vd va vb vc w)).run s
def execFmax (c : CoreId) (vd va vb : BitVec 4) (w : Bool) (s : State) : Host.Outcome State Fault Refusal :=
  (unitStep c (.fmax c vd va vb w)).run s
def execFmin (c : CoreId) (vd va vb : BitVec 4) (w : Bool) (s : State) : Host.Outcome State Fault Refusal :=
  (unitStep c (.fmin c vd va vb w)).run s
def execFexp (c : CoreId) (vd va : BitVec 4) (w : Bool) (s : State) : Host.Outcome State Fault Refusal :=
  (unitStep c (.fexp c vd va w)).run s
def execFrcp (c : CoreId) (vd va : BitVec 4) (w : Bool) (s : State) : Host.Outcome State Fault Refusal :=
  (unitStep c (.frcp c vd va w)).run s
def execFrsq (c : CoreId) (vd va : BitVec 4) (w : Bool) (s : State) : Host.Outcome State Fault Refusal :=
  (unitStep c (.frsq c vd va w)).run s
def execFsig (c : CoreId) (vd va : BitVec 4) (w : Bool) (s : State) : Host.Outcome State Fault Refusal :=
  (unitStep c (.fsig c vd va w)).run s
def execVsum (c : CoreId) (vd va : BitVec 4) (w : Bool) (s : State) : Host.Outcome State Fault Refusal :=
  (unitStep c (.vsum c vd va w)).run s
def execVmaxr (c : CoreId) (vd va : BitVec 4) (w : Bool) (s : State) : Host.Outcome State Fault Refusal :=
  (unitStep c (.vmaxr c vd va w)).run s
/-- With W = 0 bit 6 of the lane is reserved (R87). -/
def execVbcst (c : CoreId) (vd va : BitVec 4) (w : Bool) (lane : BitVec 7) (s : State) : Host.Outcome State Fault Refusal :=
  (if !w && lane.toNat ≥ 64 then reservedStep else unitStep c (.vbcst c vd va w lane)).run s
def execVtopk (c : CoreId) (vd va : BitVec 4) (s : State) : Host.Outcome State Fault Refusal :=
  (unitStep c (.vtopk c vd va)).run s
def execFcvt (c : CoreId) (vd va : BitVec 4) (widen : Bool) (s : State) : Host.Outcome State Fault Refusal :=
  (unitStep c (.fcvt c vd va widen)).run s

/-! ### Attention pipe (R91) -/

def execAnop (c : CoreId) (s : State) : Host.Outcome State Fault Refusal := (unitStep c (.anop c)).run s
def execAcfg (c : CoreId) (arg : BitVec 2) (s : State) : Host.Outcome State Fault Refusal := (unitStep c (.acfg c arg)).run s
def execAqld (c : CoreId) (h : BitVec 6) (x : BitVec 3) (s : State) : Host.Outcome State Fault Refusal :=
  (unitStep c (.aqld c h x)).run s
def execArst (c : CoreId) (slot : Bool) (s : State) : Host.Outcome State Fault Refusal := (unitStep c (.arst c slot)).run s
def execApage (c : CoreId) (h : BitVec 6) (x : BitVec 3) (causal slot : Bool) (s : State) : Host.Outcome State Fault Refusal :=
  (unitStep c (.apage c h x causal slot)).run s
def execAout (c : CoreId) (h : BitVec 6) (x : BitVec 3) (slot : Bool) (s : State) : Host.Outcome State Fault Refusal :=
  (unitStep c (.aout c h x slot)).run s
def execAmrg (c : CoreId) (h : BitVec 6) (x : BitVec 3) (slot : Bool) (s : State) : Host.Outcome State Fault Refusal :=
  (unitStep c (.amrg c h x slot)).run s
def execAnorm (c : CoreId) (h : BitVec 6) (x : BitVec 3) (slot : Bool) (s : State) : Host.Outcome State Fault Refusal :=
  (unitStep c (.anorm c h x slot)).run s

/-! ### Data mover (R96, R99) -/

def execDnop (c : CoreId) (s : State) : Host.Outcome State Fault Refusal := (unitStep c (.dnop c)).run s
def execDcpy (c : CoreId) (hs : BitVec 6) (xs : BitVec 3) (hd : BitVec 6) (xd : BitVec 3) (n1 : BitVec 6) (pred : BitVec 3) (s : State) : Host.Outcome State Fault Refusal :=
  (unitStep c (.dcpy c hs xs hd xd n1 pred)).run s
def execDsend (c : CoreId) (hs : BitVec 6) (xs : BitVec 3) (route : BitVec 6) (xd : BitVec 3) (len : BitVec 4) (pred : BitVec 3) (s : State) : Host.Outcome State Fault Refusal :=
  (unitStep c (.dsend c hs xs route xd len pred)).run s
def execDred (c : CoreId) (hs : BitVec 6) (xs : BitVec 3) (route : BitVec 6) (xd : BitVec 3) (pred : BitVec 3) (s : State) : Host.Outcome State Fault Refusal :=
  (unitStep c (.dred c hs xs route xd pred)).run s
def execDqget (c : CoreId) (hs : BitVec 6) (xs : BitVec 3) (route : BitVec 6) (xd : BitVec 3) (pred : BitVec 3) (s : State) : Host.Outcome State Fault Refusal :=
  (unitStep c (.dqget c hs xs route xd pred)).run s
def execDqput (c : CoreId) (hs : BitVec 6) (xs : BitVec 3) (route : BitVec 6) (xd : BitVec 3) (len : BitVec 4) (pred : BitVec 3) (s : State) : Host.Outcome State Fault Refusal :=
  (unitStep c (.dqput c hs xs route xd len pred)).run s
def execDscat (c : CoreId) (hs : BitVec 6) (xs : BitVec 3) (route : BitVec 6) (hi : BitVec 6) (xi : BitVec 3) (pred : BitVec 3) (s : State) : Host.Outcome State Fault Refusal :=
  (unitStep c (.dscat c hs xs route hi xi pred)).run s
def execDnw (c : CoreId) (hs : BitVec 6) (xs : BitVec 3) (hd : BitVec 6) (xd : BitVec 3) (a b : BitVec 2) (pred : BitVec 3) (s : State) : Host.Outcome State Fault Refusal :=
  (unitStep c (.dnw c hs xs hd xd a b pred)).run s
/-- SEL 0b11 is reserved (R99). -/
def execDctr (c : CoreId) (h : BitVec 6) (x : BitVec 3) (sel : BitVec 2) (pred : BitVec 3) (s : State) : Host.Outcome State Fault Refusal :=
  (if sel.toNat = 3 then reservedStep else unitStep c (.dctr c h x sel pred)).run s

/-! ### Sequencer and sync (R100, R102) -/

def execNop (c : CoreId) (s : State) : Host.Outcome State Fault Refusal := (unitStep c (.nop c)).run s
def execWait (c : CoreId) (ctr : BitVec 5) (inc : BitVec 7) (s : State) : Host.Outcome State Fault Refusal :=
  (unitStep c (.wait c ctr inc)).run s
def execCset (c : CoreId) (ctr : BitVec 5) (v : BitVec 7) (s : State) : Host.Outcome State Fault Refusal :=
  (unitStep c (.cset c ctr v)).run s
def execTset (c : CoreId) (ctr : BitVec 5) (v : BitVec 7) (s : State) : Host.Outcome State Fault Refusal :=
  (unitStep c (.tset c ctr v)).run s
def execTadd (c : CoreId) (ctr : BitVec 5) (v : BitVec 7) (s : State) : Host.Outcome State Fault Refusal :=
  (unitStep c (.tadd c ctr v)).run s
def execRel (c : CoreId) (h : BitVec 6) (s : State) : Host.Outcome State Fault Refusal := (unitStep c (.rel c h)).run s
def execLoop (c : CoreId) (d : BitVec 4) (s : State) : Host.Outcome State Fault Refusal := (unitStep c (.loop c d)).run s
def execXset (c : CoreId) (x : BitVec 3) (v : BitVec 9) (s : State) : Host.Outcome State Fault Refusal :=
  (unitStep c (.xset c x v)).run s
def execXadd (c : CoreId) (x : BitVec 3) (v : BitVec 9) (s : State) : Host.Outcome State Fault Refusal :=
  (unitStep c (.xadd c x v)).run s
/-- p = 0 is reserved (R100). -/
def execPset (c : CoreId) (p : BitVec 2) (v : Bool) (s : State) : Host.Outcome State Fault Refusal :=
  (if p.toNat = 0 then reservedStep else unitStep c (.pset c p v)).run s
def execArrive (c : CoreId) (e : BitVec 5) (s : State) : Host.Outcome State Fault Refusal := (unitStep c (.arrive c e)).run s
def execBwait (c : CoreId) (e : BitVec 5) (s : State) : Host.Outcome State Fault Refusal := (unitStep c (.bwait c e)).run s
def execCadd (c : CoreId) (e : BitVec 5) (imm : BitVec 5) (s : State) : Host.Outcome State Fault Refusal :=
  (unitStep c (.cadd c e imm)).run s
def execCwait (c : CoreId) (e : BitVec 5) (s : State) : Host.Outcome State Fault Refusal := (unitStep c (.cwait c e)).run s
def execBeat (c : CoreId) (n : BitVec 10) (s : State) : Host.Outcome State Fault Refusal := (unitStep c (.beat c n)).run s
def execDone (c : CoreId) (s : State) : Host.Outcome State Fault Refusal := (unitStep c (.done c)).run s

/-! ### Events of a held core -/

def isGuard : StallCause → Bool
  | .guard _ => true
  | _ => false
def isEgress : StallCause → Bool
  | .egress _ => true
  | _ => false
def isArrival : StallCause → Bool
  | .arrival _ _ => true
  | _ => false
def isSync : StallCause → Bool
  | .barrier _ => true
  | .counter _ => true
  | _ => false
def isWait (a : StallCause) : Bool := isArrival a || isSync a

/-- WAIT_SATISFIED: a core held by a WAIT whose counter meets its target goes on (R63). -/
def execWaitSatisfied (c : CoreId) (s : State) : Host.Outcome State Fault Refusal := (withCore c fun _ => releaseWord c isArrival).run s

/-- SYNC_RELEASE: a core held by a sync wait whose object releases it goes on (R40, R41, R102). -/
def execSyncRelease (c : CoreId) (s : State) : Host.Outcome State Fault Refusal := (withCore c fun _ => releaseWord c isSync).run s

/-- GUARDED_READ_RELEASE: the handle that holds the core is FULL (R68). -/
def execGuardedReadRelease (c : CoreId) (s : State) : Host.Outcome State Fault Refusal := (withCore c fun _ => releaseWord c isGuard).run s

/-- Packets leave the egress queue for the mesh, oldest first, until so many flits of room appear (R66). -/
def injectUntil (flits : Nat) : Nat → List Packet → List Packet × List Packet
  | 0, q => ([], q)
  | n + 1, q =>
    if flitCount q + flits ≤ 64 then ([], q)
    else match q with
      | [] => ([], [])
      | p :: rest => let r := injectUntil flits n rest; (p :: r.1, r.2)

/-- The flits a held word waits to send (R66). -/
def Core.egressNeed (c : Core) : Option Nat := c.causes.findSome? fun
  | .egress flits => some flits
  | _ => none

/-- EGRESS_ROOM: flits of the queue are injected and the held send issues (R66). -/
def execEgressRoom (c : CoreId) (s : State) : Host.Outcome State Fault Refusal :=
  (withCore c fun core =>
    match core.egressNeed with
    | some flits => .get fun s =>
      let r := injectUntil flits core.egress.length core.egress
      .seq [.one (.net (s.net ++ r.1)), setCore c.key (({ core with egress := r.2 }).event 0x0E (flitCount r.1)), releaseWord c isEgress]
    | none => .done).run s

/-- A stall of the kind reaches 4 beat periods of wafer time: time goes on to that moment and the core raises a void (R73). -/
def timeoutProg (c : CoreId) (kind : StallCause → Bool) (code : Nat) : Prog :=
  withCore c fun core => .get fun s =>
    match core.held with
    | some st => .when (core.causes.any kind) (.seq [.one (.time (st.since + 4 * s.period)),
        .get fun s => setCore c.key (core.countWait (s.heldCycles c.key core)), voidCore c.key code noRow])
    | none => .done

def execGuardTimeout (c : CoreId) (s : State) : Host.Outcome State Fault Refusal := (timeoutProg c isGuard 0x02).run s
def execWaitTimeout (c : CoreId) (s : State) : Host.Outcome State Fault Refusal := (timeoutProg c isWait 0x03).run s
def execEgressTimeout (c : CoreId) (s : State) : Host.Outcome State Fault Refusal := (timeoutProg c isEgress 0x04).run s

end Sys2Proof.Machine
end

