-- ==== Sys2Proof/Machine/Network.lean ====
section
/-! DEFINITION. The bulk network: the paths of packets, exits, ingress and parking, reductions in the routers, the HBM queue pairs and the gather flush (R25 to R34, R62 to R71, R98, R432). -/

namespace Sys2Proof.Machine

/-! ### Sources and exits (R30, R432) -/

/-- The source number of an endpoint, of firmware, and of the results that a router sends out of a port. -/
def srcEndpoint (e : Nat) : Nat := 2 ^ 17 + e
def srcFirmware : Nat := 2 ^ 18
def srcResult (router out : Nat) : Nat := 2 ^ 19 + router * 8 + out

/-- The block of the edge ring that an endpoint belongs to: HBM ports from 0, tumbler cores from 24, links from 48; the queue pairs of a port share its exit. -/
def blockOf (ep : Nat) : Option Nat :=
  if ep < 0x180 then some (ep / 16)
  else if ep < 0x198 then some (24 + (ep - 0x180))
  else if 0x1A0 ≤ ep && ep ≤ 0x1BF then some (48 + (ep - 0x1A0))
  else none

/-- Where a block stands: its side (0 north, 1 east, 2 south, 3 west), its number j on that side, and m, the blocks of its kind there (R24, R432). -/
def blockSide (b : Nat) : Nat × Nat × Nat :=
  if b < 48 then (b % 24 / 6, b % 6, 6) else ((b - 48) / 8, b % 8, 8)

/-- The field that the table of R432 names. -/
def tableExit (side j m : Nat) : Nat :=
  if side = 0 then 10 * j / m else if side = 1 then 8 * j / m * 10 + 9 else if side = 2 then 70 + (9 - 10 * j / m)
  else (7 - 8 * j / m) * 10

/-- The nearest live field of a row or column; of two at equal distance the lower-numbered. -/
def nearestLive (s : State) (fields : List Nat) (pos : Nat) : Option Nat :=
  ((List.range 10).flatMap fun d => fields.zipIdx.filterMap fun p =>
    if (max p.2 pos - min p.2 pos) == d && s.fieldLive p.1 then some p.1 else none).head?

/-- The default exit of a block, moved to a live field (R432): field * 4 + side + 1; 0 while no field is live. -/
def defaultExit (s : State) (b : Nat) : Nat :=
  let (side, j, m) := blockSide b
  let f := tableExit side j m
  let lines : List (List Nat) :=
    if side = 0 then (List.range 8).map fun r => (List.range 10).map fun c => r * 10 + c
    else if side = 2 then (List.range 8).map fun r => (List.range 10).map fun c => (7 - r) * 10 + c
    else if side = 1 then (List.range 10).map fun c => (List.range 8).map fun r => r * 10 + (9 - c)
    else (List.range 10).map fun c => (List.range 8).map fun r => r * 10 + c
  let pos := if side % 2 = 0 then f % 10 else f / 10
  match (lines.filterMap fun l => nearestLive s l pos).head? with
  | some e => e * 4 + side + 1
  | none => 0

/-- M3 writes every field's exit table: at every start and after every field shift. -/
def writeExits : Prog := .get fun s => .one (.exitsDefault ((List.range 80).map fun b => (b, defaultExit s b)))

/-- The exit of an endpoint in a physical field's table: field and side. -/
def exitOf (s : State) (p ep : Nat) : Option (Nat × Nat) :=
  let own := AMap.get 0 s.exits (p * 1024 + ep)
  let v := if own != 0 then own else match blockOf ep with
    | some b => AMap.get 0 s.exitBase b
    | none => 0
  if v = 0 then none else some ((v - 1) / 4, (v - 1) % 4)

/-! ### Paths (R25, R27) -/

/-- One router on a packet's path: the router's core, the port the packet arrives on, the port it leaves by. -/
structure Hop where
  router : Nat
  inp : Nat
  out : Nat
  deriving DecidableEq, Repr

/-- Ports in the cyclic order of R27: local, west, east, north, south. -/
def portIdx : Port → Nat
  | .local => 0
  | .west => 1
  | .east => 2
  | .north => 3
  | .south => 4

/-- The port at the other end of a link. -/
def farPort (p : Nat) : Nat := if p = 1 then 2 else if p = 2 then 1 else if p = 3 then 4 else if p = 4 then 3 else 0

/-- A side of a field (0 north, 1 east, 2 south, 3 west) as a port. -/
def sidePort (side : Nat) : Nat := if side = 0 then 3 else if side = 1 then 2 else if side = 2 then 4 else 1

/-- The logical mesh: 240 columns and 192 rows of cores. -/
def coreX (k : Nat) : Nat := k / 1024 % 10 * 24 + k % 32
def coreY (k : Nat) : Nat := k / 1024 / 10 * 24 + k / 32 % 32
def coreXY (x y : Nat) : Nat := (y / 24 * 10 + x / 24) * 1024 + y % 24 * 32 + x % 24

/-- The core at which packets leave and enter the mesh on a side of a field (R432). -/
def exitCore (f side : Nat) : Nat :=
  f * 1024 + (if side = 0 then 12 else if side = 1 then 12 * 32 + 23 else if side = 2 then 23 * 32 + 12 else 12 * 32)

/-- Where a packet of a source enters the mesh: a core and a port.  An endpoint's packet enters at the exit that the destination field's table gives the endpoint (the field itself for a core, else field 0's table); the results of a router enter the neighbour that its port leads to. -/
def entryOf (s : State) (p : Packet) : Option (Nat × Nat) :=
  if p.src < 2 ^ 17 then some (p.src, 0)
  else if p.src < 2 ^ 18 then
    (exitOf s (s.physField (if hdrField p.h < 80 then hdrField p.h else 0)) (p.src - 2 ^ 17)).map fun e => (exitCore e.1 e.2, sidePort e.2)
  else if p.src < 2 ^ 19 then none
  else
    let k := (p.src - 2 ^ 19) / 8
    let x := coreX k
    let y := coreY k
    match p.src % 8 with
    | 1 => if x = 0 then none else some (coreXY (x - 1) y, 2)
    | 2 => some (coreXY (x + 1) y, 1)
    | 3 => if y = 0 then none else some (coreXY x (y - 1), 4)
    | 4 => some (coreXY x (y + 1), 3)
    | _ => none

/-- Where a packet leaves the mesh, from the core it enters at: a core and a port.  A core's packet to an endpoint takes the exit of the table of the field it enters. -/
def leaveAt (s : State) (entry : Nat) (p : Packet) : Option (Nat × Nat) :=
  if hdrField p.h < 80 then some (hdrCore p.h, 0)
  else (exitOf s (s.physField (entry / 1024)) (hdrEndpoint p.h)).map fun e => (exitCore e.1 e.2, sidePort e.2)

/-- The routers passed when a packet that stands at (x, y), having come in by a port, leaves by one port after another. -/
def walkHops : Nat → Nat → Nat → List Nat → List Hop
  | _, _, _, [] => []
  | x, y, i, d :: ds =>
    ⟨coreXY x y, i, d⟩ :: walkHops (if d = 1 then x - 1 else if d = 2 then x + 1 else x) (if d = 3 then y - 1 else if d = 4 then y + 1 else y) (farPort d) ds

/-- The path of a packet by dimension order: east or west first; for an edge stop on an east or west side north or south first (R27). -/
def pathOf (s : State) (p : Packet) : List Hop :=
  match entryOf s p with
  | none => []
  | some (e, i) => match leaveAt s e p with
    | none => []
    | some (d, o) =>
      let across := List.replicate (coreX d - coreX e) 2 ++ List.replicate (coreX e - coreX d) 1
      let along := List.replicate (coreY d - coreY e) 4 ++ List.replicate (coreY e - coreY d) 3
      walkHops (coreX e) (coreY e) i ((if o = 1 || o = 2 then along ++ across else across ++ along) ++ [o])

/-- The fields a packet enters on its way (R28, R422). -/
def fieldsEntered : List Hop → List Nat
  | a :: b :: hs => if a.router / 1024 = b.router / 1024 then fieldsEntered (b :: hs) else b.router / 1024 :: fieldsEntered (b :: hs)
  | _ => []

/-- The flits that cross a field boundary on the last hop of a path, into the router that captures the packet (CROSS_IN). -/
def crossInto (hops : List Hop) (n flits : Nat) : Prog :=
  .each (fieldsEntered (hops.drop (n - 1))) fun g => .get fun s => hubEvent (s.physField g) 0x04 flits

/-- A hub's counters select something. -/
def hubSelects (s : State) (p : Nat) : Bool := !(AMap.get PerfSet.reset s.hubs p).sel.isEmpty

/-- Events of a hub whose number the model cannot know, since packets carry no cycle: a free value while the hub counts anything (CREDIT_HELD, CROSS_SLOW, ARBITRATION_LOST; R422). -/
def hubFree (p event bound : Nat) : Prog :=
  .get fun s => .when (hubSelects s p) (drawFree fun n => hubEvent p event (if bound = 0 then n else n % (bound + 1)))

/-- A packet waits for credit at a field's routers. -/
def creditHeld (p : Nat) (then_ : Prog) : Prog := (hubFree p 0x08 0).andThen then_

/-- A packet has passed these routers: each output's pointer stands behind the input it granted (R27), the hub of every field entered counts the flits (CROSS_IN), and perhaps a slow crossing, and cycles in which the packet lost an output or waited for credit in a field it passed (R422). -/
def travel (hops : List Hop) (flits : Nat) : Prog :=
  .seq [.ups (hops.map fun h => .arb (h.router * 8 + h.out) ((h.inp + 1) % 5)),
    .each (fieldsEntered hops) fun g => .get fun s => (hubEvent (s.physField g) 0x04 flits).andThen (hubFree (s.physField g) 0x05 1),
    .each (hops.map (·.router / 1024)).eraseDups fun g => .get fun s => (hubFree (s.physField g) 0x09 0).andThen (hubFree (s.physField g) 0x08 0)]

/-! ### Packets in flight -/

def sameDest (a b : Packet) : Bool := a.h / 2 ^ 47 == b.h / 2 ^ 47

/-- A packet that a router's reduction sends to its own core (R32). -/
def localResult (p : Packet) : Bool := 2 ^ 19 ≤ p.src && p.src % 8 == 0

/-- The core that a packet goes to: the one its header names, the router's own for a local result (R32). -/
def destCore (p : Packet) : Nat := if localResult p then (p.src - 2 ^ 19) / 8 else hdrCore p.h

/-- The packet goes to a core and not to an edge endpoint. -/
def toCore (p : Packet) : Bool := localResult p || hdrField p.h < 80

/-- Two packets that keep their order (R27). -/
def sameFlow (a b : Packet) : Bool := a.src == b.src && (localResult a || sameDest a b)

/-- The array rail of a logical field's physical field is off since the field was lost: its rows are gone, and what is on its way to it is lost (R18). -/
def arrayGone (s : State) (f : Nat) : Bool := s.repair.lost.contains (s.physField f) && s.domain (88 + s.physField f) != 2

/-- The place of the first packet that is wanted; packets of one source and destination keep their order, so none passes an earlier one (R27). -/
def nextWanted (want : Packet → Bool) : List Packet → Option Nat
  | [] => none
  | p :: ps => if want p then some 0 else (nextWanted (fun q => want q && !sameFlow p q) ps).map (· + 1)

/-- Removes a packet from where it waits: the network, else its source's egress queue, whose earlier packets go into the network before it; a voided core sends none (R73).  A packet brought from outside is taken as it is, unless an earlier one of its source and destination still waits: then it waits behind that (R27). -/
def takePacket (p : PktSource) (want : Packet → Bool) (k : Packet → Prog) : Prog :=
  match p with
  | .given q =>
    if !want q then .done
    else .get fun s =>
      if q.src < 2 ^ 17 && (s.core q.src).egress.any (sameFlow q) then setCore q.src { s.core q.src with egress := (s.core q.src).egress ++ [q] }
      else if s.net.any (sameFlow q) then .one (.net (s.net ++ [q]))
      else k q
  | .inFlight src => .get fun s =>
    let c := s.core src
    let egress := if src < 2 ^ 17 && c.run != .voided then c.egress else []
    let all := s.net ++ egress
    match nextWanted (fun q => q.src == src && want q) all with
    | none => .done
    | some i =>
      let n := i + 1 - s.net.length
      .seq [.one (.net ((all.eraseIdx i).take (s.net.length + n - 1))),
        .when (n > 0) (setCore src (({ c with egress := c.egress.drop n }).event 0x0E (flitCount (c.egress.take n)))),
        match all[i]? with
        | some q => k q
        | none => .done]

/-- Puts a packet into the network. -/
def inject (p : Packet) : Prog := .get fun s => .one (.net (s.net ++ [p]))

/-! ### Reduction entries on the way (R32) -/

def rePorts (e : Nat) : Nat := bits e 4 0
def reOut (e : Nat) : Nat := bits e 15 8
def reAccf (e : Nat) : Bool := bit e 16

/-- The first router on a path whose entry for a reduction packet's RID lists the port of arrival, with the routers passed up to it. -/
def captureHop (s : State) (p : Packet) (hops : List Hop) : Option (Nat × Hop) :=
  if hdrKind p.h = 1 || hdrKind p.h = 2 then
    (hops.zipIdx.find? fun h => bit (rePorts (AMap.get 0 (s.core h.1.router).router (hdrRid p.h))) h.1.inp).map fun h => (h.2, h.1)
  else none

/-! ### Ingress (R64, R65, R69) -/

/-- A row in the footprint of a guarded handle in FULL (R69). -/
def Core.rowGuarded (c : Core) (n : Nat) : Bool := c.handles.any fun kv => hGuarded kv.2 && hFull kv.2 && inFootprint kv.2 n

/-- A parked packet that stays parked: its row lies in a guarded footprint that is FULL and has not returned to FILL since (R69). -/
def Core.staysParked (c : Core) (p : Packet) : Bool :=
  c.handles.any fun kv => hGuarded kv.2 && hFull kv.2 && inFootprint kv.2 (hdrSpad p.h) && !c.opened.contains kv.1

/-- A WRITE or QDATA packet whose row lies in a FULL guarded footprint must park (R69). -/
def mustPark (c : Core) (p : Packet) : Bool := (hdrKind p.h == 0 || hdrKind p.h == 4) && c.rowGuarded (hdrSpad p.h)

/-- A handle has returned to FILL and what was parked for it has yet to be written, which goes before this packet (R69). -/
def Core.afterParked (c : Core) (p : Packet) : Bool := c.opened.any fun h => inFootprint (c.handle h) (hdrSpad p.h)

/-- The ingress can take nothing: its FIFO begins with a packet that must park, and every slot is taken. -/
def Core.blocked (c : Core) : Bool :=
  match c.fifo with
  | p :: _ => mustPark c p && 4 ≤ c.parked.length
  | [] => false

/-- There is no credit for a packet at its core (R64). -/
def Core.noCredit (c : Core) (p : Packet) : Bool := 32 < flitCount c.fifo + p.flits.length

/-- The byte mask of eight 8-byte lanes (R65). -/
def laneMask (m : Nat) : Nat := (List.range 8).foldl (fun acc k => if bit m k then acc + 0xFF * 2 ^ (8 * k) else acc) 0

/-- Writes a packet's rows and advances its counter; flits at or beyond row 51 200 are discarded, CTR is then not advanced and the core raises a void (R31, R62, R65). -/
def writePacket (k : Nat) (p : Packet) : Prog :=
  let n := hdrLen p.h + 1
  let row := hdrSpad p.h
  let rows := (List.range n).filter fun i => row + i < spadRows
  let lane := if hdrKind p.h = 0 then hdrScale p.h else 0
  .seq [.each rows fun i =>
      if lane = 0 then writeRow k (row + i) (p.flits.getD i 0) else narrowWrite k (row + i) (p.flits.getD i 0) (laneMask lane),
    .get fun s =>
      let c := (s.core k).event 0x0D rows.length
      if rows.length < n then (setCore k c).andThen (voidCore k codeBounds row)
      else
        let staged := bit c.staging 136 && bits c.staging 225 221 == hdrCtr p.h
        setCore k ((if staged then { c with stagingRows := c.stagingRows + n } else c).advance (hdrCtr p.h) n)]

/-- Parked packets are written in park order, each once its handle has returned to FILL; those parked for it before are written even if it is FULL again at once (R69). -/
def writeParked (k : Nat) : Nat → Nat → Prog
  | 0, _ => .done
  | n + 1, i => .get fun s =>
    let c := s.core k
    match c.parked[i]? with
    | none => .done
    | some p =>
      if c.staysParked p then writeParked k n (i + 1)
      else (setCore k { c with parked := c.parked.eraseIdx i }).andThen ((writePacket k p).andThen (writeParked k n i))

/-- What was parked for the handles that are in FILL again is written. -/
def releaseParked (k : Nat) : Prog :=
  .get fun s => (writeParked k (s.core k).parked.length 0).andThen
    (.get fun s => .when (!(s.core k).opened.isEmpty) (setCore k { s.core k with opened := [] }))

/-- The head of the ingress FIFO is written, after what was parked before it, or parked if it must park and a slot is free; else it blocks the FIFO (R69). -/
def drainFifo (k : Nat) : Nat → Prog
  | 0 => .done
  | n + 1 => .get fun s => match (s.core k).fifo with
    | [] => .done
    | p :: _ => (Prog.when ((s.core k).afterParked p) (releaseParked k)).andThen (.get fun s =>
      let c := s.core k
      if mustPark c p then
        if c.parked.length < 4 then
          (setCore k (({ c with fifo := c.fifo.drop 1, parked := c.parked ++ [p] }).event 0x0F 1)).andThen (drainFifo k n)
        else .done
      else (setCore k { c with fifo := c.fifo.drop 1 }).andThen ((writePacket k p).andThen (drainFifo k n)))

/-- A packet reaches a core's ingress over some routers: it enters the FIFO of 32 flits, or stays in the network while there is no credit (R64); a field whose array rail is off takes nothing (R18). -/
def ingest (k : Nat) (p : Packet) (hops : List Hop) : Prog :=
  .get fun s =>
    let c := s.core k
    if arrayGone s (k / 1024) then .done
    else if c.noCredit p then creditHeld (s.physField (k / 1024)) (.one (.net (p :: s.net)))
    else .seq [setCore k { c with fifo := c.fifo ++ [p] }, travel hops p.flits.length, drainFifo k (c.fifo.length + 1)]

/-- A packet of these kinds, addressed to a core and captured by no router on its way. -/
def State.arrivesAt (s : State) (dst : CoreId) (kinds : List Nat) (q : Packet) : Bool :=
  destCore q == dst.key && toCore q && kinds.contains (hdrKind q.h) && (captureHop s q (pathOf s q)).isNone

/-- Such a packet arrives at its core. -/
def deliver (p : PktSource) (dst : CoreId) (kinds : List Nat) : Prog :=
  withCore dst fun _ => .get fun s => takePacket p (s.arrivesAt dst kinds) fun q => ingest dst.key q (pathOf s q)

/-- WRITE: a WRITE packet, or the result of a reduction, is released to its core's ingress (R31, R32). -/
def execWrite (p : PktSource) (dst : CoreId) (s : State) : Host.Outcome State Fault Refusal := (deliver p dst [0, 1, 2]).run s
/-- QDATA: a packet of an HBM queue pair, likewise (R31, R98). -/
def execQdata (p : PktSource) (dst : CoreId) (s : State) : Host.Outcome State Fault Refusal := (deliver p dst [4]).run s

/-- PARK_RELEASE: a handle is in FILL again: what was parked for it is written, then what waited behind it. -/
def execParkRelease (c : CoreId) (s : State) : Host.Outcome State Fault Refusal :=
  (withCore c fun _ => (releaseParked c.key).andThen (.get fun s => drainFifo c.key ((s.core c.key).fifo.length + 1))).run s

/-- GATHER_FLUSH: the oldest entry is flushed by merge read and write (R71 item 3). -/
def execGatherFlush (c : CoreId) (s : State) : Host.Outcome State Fault Refusal :=
  (withCore c fun core => match core.gather with
    | g :: _ => flushGather c.key g.row
    | [] => .done).run s

/-! ### HBM queue pairs (R97, R98) -/

def dAddr (d : Row) : Nat := rowField d 0 8
def dRows (d : Row) : Nat := rowField d 8 2
def dOp (d : Row) : Nat := rowField d 10 1
def dCtr (d : Row) : Nat := rowField d 11 1
def dRrow (d : Row) : Nat := rowField d 12 2
def dReq (d : Row) : CoreId := ⟨rowField d 14 1, rowField d 15 1, rowField d 16 1⟩

/-- A descriptor a queue pair takes (R98): a known OP, an aligned address in range, a good ROWS, a logical core as requester.  DESIGN CHOICE: rows that would run past the end of the stack are out of range too. -/
def descGood (d : Row) (len : Nat) : Bool :=
  (dOp d == 0 || dOp d == 1) && dAddr d % 64 == 0 && dAddr d + 64 * dRows d ≤ stackBytes && dAddr d < stackBytes &&
    (if dOp d = 0 then 1 ≤ dRows d && dRows d ≤ 256 else dRows d == len) && (dReq d).valid

/-- QPUT: a descriptor reaches a queue pair: it is queued, dropped and logged as malformed, or waits on the edge-ring bus while 64 are queued. -/
def execQput (p : PktSource) (ep : Nat) (s : State) : Host.Outcome State Fault Refusal :=
  Prog.run (if ep ≥ 0x180 then .fault (.noSuchUnit ep)
   else .get fun s =>
    let q := AMap.get [] s.qps ep
    takePacket p (fun r => hdrField r.h == 127 && hdrEndpoint r.h == ep && hdrKind r.h == 3) fun r =>
      let d := r.flits.headD 0
      let hops := pathOf s r
      if !descGood d (hdrLen r.h) then (travel hops r.flits.length).andThen (appendOpen 3 openHbm none)
      else if q.length ≥ 64 then .get fun s => .one (.net (r :: s.net))
      else (travel hops r.flits.length).andThen (.one (.qp ep (q ++ [⟨d, r.flits.drop 1⟩])))) s

/-- The header of a QDATA packet that answers a descriptor.  DESIGN CHOICE: of a CTR byte of 32 or more the low five bits count, all that the header holds. -/
def answerHdr (d : Row) (len row : Nat) : BitVec 64 :=
  let c := dReq d
  BitVec.ofNat 64 (c.field * 2 ^ 57 + c.row * 2 ^ 52 + c.col * 2 ^ 47 + 4 * 2 ^ 44 + len * 2 ^ 37 + dCtr d % 32 * 2 ^ 28 + row % 65536 * 2 ^ 12)

/-- The rows of a stack. -/
def State.hbmRows (s : State) (stack a n : Nat) : List Row := (List.range n).map fun i => BitVec.ofNat 512 (Mem.nat s.hbm (hbmAddr stack a + 64 * i) 64)

/-- HBM_READ_DONE: the pair's oldest request, a read, returns its rows in packets of at most 16 flits, in ascending order (R98). -/
def execHbmReadDone (ep : Nat) (s : State) : Host.Outcome State Fault Refusal :=
  Prog.run (if ep ≥ 0x180 then .fault (.noSuchUnit ep)
   else .get fun s =>
    match AMap.get [] s.qps ep with
    | [] => .done
    | r :: rest =>
      if dOp r.desc != 0 then .done
      else
        let rows := s.hbmRows (ep / 16) (dAddr r.desc) (dRows r.desc)
        let packets := (List.range ((rows.length + 15) / 16)).map fun i =>
          let fl := (rows.drop (16 * i)).take 16
          ({ src := srcEndpoint ep, hdr := answerHdr r.desc (fl.length - 1) (dRrow r.desc + 16 * i), flits := fl } : Packet)
        .ups [.qp ep rest, .net (s.net ++ packets)]) s

/-- HBM_WRITE_DONE: the pair's oldest request, a write, is done and returns one flit holding its descriptor (R98). -/
def execHbmWriteDone (ep : Nat) (s : State) : Host.Outcome State Fault Refusal :=
  Prog.run (if ep ≥ 0x180 then .fault (.noSuchUnit ep)
   else .get fun s =>
    match AMap.get [] s.qps ep with
    | [] => .done
    | r :: rest =>
      if dOp r.desc != 1 then .done
      else
        .ups ([.qp ep rest, .net (s.net ++ [⟨srcEndpoint ep, answerHdr r.desc 0 (dRrow r.desc), [r.desc]⟩])] ++
          (List.range (dRows r.desc)).flatMap fun i =>
            let a := hbmAddr (ep / 16) (dAddr r.desc) + 64 * i
            Update.hbm a (rowBytes (r.data.getD i 0)) :: (List.range 8).map fun w => .hbmBad (a / 8 + w) false)) s

/-! ### Reductions (R32, R33, R129) -/

/-- A reduction block as 32 lanes of the accumulation format, each with the number of BF16 narrowings that clamped (R129, R112, R146).  DESIGN CHOICE: a K8 value below BF16's smallest subnormal is rounded to nearest-even like any other narrowing, where R123 and R129 call the widening exact. -/
def widenBlock (accf : Bool) (p : Packet) : List (Nat × Nat) :=
  let x := packRows p.flits
  let fp : List Nat :=
    if hdrPfmt p.h = 0 then lanes 32 32 x
    else if hdrPfmt p.h = 2 then (lanes 8 32 x).map fun b => decodeFp32 fmtK8 b (hdrScale p.h)
    else (lanes 16 32 x).map widen
  if accf then fp.map fun v => ((narrow v).1, boolNat (narrow v).2) else fp.map fun v => (v, 0)

/-- A BF16 addition of the reduction, clamped at the top of the range (R33, R112). -/
def addClamp (a b : Nat) : Nat × Bool :=
  let r := Fmt.bf16.add a b
  let inf (x : Nat) : Bool := x % 2 ^ 15 == 0x7F80
  if inf r && !inf a && !inf b then (r - 1, true) else (r, false)

/-- One step of the fixed order on one lane. -/
def combineLane (accf maxKind : Bool) (a b : Nat × Nat) : Nat × Nat :=
  if maxKind then ((if accf then Fmt.bf16.max a.1 b.1 else Fmt.fp32.max a.1 b.1), a.2 + b.2)
  else if accf then
    let r := addClamp a.1 b.1
    (r.1, a.2 + b.2 + boolNat r.2)
  else (Fmt.fp32.add a.1 b.1, 0)

/-- Combines blocks in the fixed port order (R32 step 2). -/
def combineBlocks (accf maxKind : Bool) : List (List (Nat × Nat)) → List (Nat × Nat)
  | [] => []
  | b :: bs => bs.foldl (fun acc x => List.zipWith (combineLane accf maxKind) acc x) b

/-- The header of a result: formats from the entry, the rest from the first listed contribution (R32 step 3). -/
def resultHdr (accf : Bool) (first : Nat) : Nat :=
  setBits (setBits (setBits (setBits first 43 43 (boolNat accf)) 42 41 (boolNat accf)) 40 37 (if accf then 0 else 1)) 11 4 0

/-- The contributions that an entry of a router has, in the fixed port order, if every listed one is in. -/
def Core.reductionOf (c : Core) (rid : Nat) : Option (List Packet) :=
  let ports := (List.range 5).filter fun i => bit (rePorts (AMap.get 0 c.router rid)) i
  let parts := ports.filterMap fun i => AMap.get none c.parts (rid * 8 + i)
  if parts.isEmpty || parts.length < ports.length then none else some parts

/-- The place of an entry for a port can take a contribution: it is free, or a hold is in force, which discards an incomplete entry (R34). -/
def Core.placeFree (c : Core) (hold : Bool) (rid port : Nat) : Bool :=
  (AMap.get none c.parts (rid * 8 + port)).isNone || (hold && (c.reductionOf rid).isNone)

/-- An incomplete entry of a router is discarded, and its field's hub counts it (R34, R422). -/
def discardReduction (key rid : Nat) : Prog :=
  .get fun s => (setCore key { s.core key with parts := (s.core key).parts.filter fun kv => kv.1 / 8 != rid }).andThen (hubEvent (s.physField (key / 1024)) 0x07 1)

/-- REDUCE_CAPTURE: a reduction packet that arrives on a port its RID entry lists is captured: at the first such router on its way, whose place for that port is free (R32) or held by an entry that a hold discards (R34). -/
def execReduceCapture (r : CoreId) (port : Port) (src : Nat) (s : State) : Host.Outcome State Fault Refusal :=
  (withCore r fun core => .get fun s =>
    let here (q : Packet) : Bool := match captureHop s q (pathOf s q) with
      | some (_, h) => h.router == r.key && h.inp == portIdx port && core.placeFree (holdInForce s) (hdrRid q.h) h.inp
      | none => false
    takePacket (.inFlight src) here fun q =>
      .seq [.get fun s => .when (AMap.get none (s.core r.key).parts (hdrRid q.h * 8 + portIdx port)).isSome (discardReduction r.key (hdrRid q.h)),
        match captureHop s q (pathOf s q) with
          | some (n, _) => (travel ((pathOf s q).take n) q.flits.length).andThen (crossInto ((pathOf s q).take (n + 1)) n q.flits.length)
          | none => .done,
        .get fun s =>
          let c := s.core r.key
          setCore r.key { c with parts := AMap.put none c.parts (hdrRid q.h * 8 + portIdx port) (some q) }]).run s

/-- REDUCE_COMBINE: an entry with every listed contribution combines them and sends one packet (R32, R33). -/
def execReduceCombine (r : CoreId) (rid : BitVec 4) (s : State) : Host.Outcome State Fault Refusal :=
  (withCore r fun core => match core.reductionOf rid.toNat with
    | none => .done
    | some parts =>
      let e := AMap.get 0 core.router rid.toNat
      let first := (parts.map (·.h)).headD 0
      let accf := reAccf e
      let lanes := combineBlocks accf (hdrKind first == 2) (parts.map (widenBlock accf))
      let x := packLanes (if accf then 16 else 32) (lanes.map (·.1))
      let p : Packet := ⟨srcResult r.key (reOut e), BitVec.ofNat 64 (resultHdr accf first), rowsOf (if accf then 1 else 2) x⟩
      let clamps := (lanes.map (·.2)).sum
      .seq [setCore r.key { core with parts := core.parts.filter fun kv => kv.1 / 8 != rid.toNat },
        .get fun s => .when (clamps > 0) (.one (.fieldClamp r.field (min 0xFFFF (AMap.get 0 s.fieldClamps r.field + clamps)))),
        .get fun s => hubEvent (s.physField r.field) 0x06 1,
        if reOut e = 0 then ingest r.key p [] else inject p]).run s

/-! ### Delivery at a hold (R34) -/

/-- A packet that no credit lets into its core, whose ingress is blocked by packets that its figure, stopped by the hold, will not release; or one for a field whose array rail is off. -/
def stuckPacket (s : State) (p : Packet) : Bool :=
  toCore p && ((s.core (destCore p)).blocked && (s.core (destCore p)).noCredit p || arrayGone s (destCore p / 1024))

/-- A core with nothing left to send, to write or to combine. -/
def Core.delivered (c : Core) : Bool :=
  (c.run == .voided || c.egress.isEmpty) && (c.fifo.isEmpty || c.blocked) && c.opened.isEmpty && (List.range 16).all fun rid => (c.reductionOf rid).isNone

/-- Everything in flight that can be delivered has been: routers, egress queues and ingresses are empty of it. -/
def netDelivered (s : State) : Bool := s.net.all (stuckPacket s) && s.cores.all fun kc => kc.2.delivered

end Sys2Proof.Machine
end

