-- ==== Sys2Proof/Machine/Bundles.lean ====
section
/-! DEFINITION. The topology of a group and messages to its members (R262, R264, R270). -/

namespace Sys2Proof.Machine

/-! ### The topology of a group (R270) -/

/-- Links of a bundle. -/
def bundleSize (g : Nat) : Nat := if g = 8 then 4 else if g = 4 then 10 else if g = 2 then 32 else 0
/-- A link that the topology assigns. -/
def linkAssigned (g l : Nat) : Bool := l < bundleSize g * (g - 1)
/-- The peer that link l of member m leads to. -/
def linkPeer (g m l : Nat) : Nat := (m + 1 + l / max 1 (bundleSize g)) % max 1 g
/-- The far link. -/
def linkFar (g m l : Nat) : Nat := bundleSize g * ((m + 2 * g - linkPeer g m l - 1) % max 1 g) + l % max 1 (bundleSize g)

/-- The group that is formed: its size and this member (1 and 0 for a single module). -/
def State.groupSize (s : State) : Nat := s.reg 0x9003
def State.groupMember (s : State) : Nat := s.reg 0x9004

/-- The module is a member of a formed group, whose edges are decided jointly (R274). -/
def State.inGroup (s : State) : Bool := jointRoots s

/-- The lowest link UP to a member. -/
def linkTo (s : State) (peer : Nat) : Option Nat :=
  (List.range 32).find? fun l => linkAssigned s.groupSize l && linkPeer s.groupSize s.groupMember l == peer && s.reg 0x9010 (l + 1) == 2

/-! ### Firmware messages on chip links (R262, R264) -/

def setGroup (f : Group → Group) : Prog := .get fun s => .one (.group (f s.group))
def setLink (l : Nat) (f : Link → Link) : Prog := setGroup fun g => { g with links := AMap.put Link.reset g.links l (f (AMap.get Link.reset g.links l)) }

/-- A firmware message to another member; its content is firmware's own. -/
def sendFirmware (peer kind : Nat) (args : List Nat) : Prog :=
  .get fun s => match linkTo s peer with
    | none => .done
    | some l => setLink l fun x => { x with queue := x.queue ++ [(s.now, ⟨srcEndpoint (0x1A0 + l), 0,
        [BitVec.ofNat 512 (2 * 2 ^ 64 + peer * 2 ^ 72 + s.groupMember * 2 ^ 80 + (Config.firmwareSlot kind args).toNat / 2 ^ 96 * 2 ^ 96)]⟩)] }

/-- A hold of a formed group shows in GROUP_STATE. -/
def holdGroup (cause : Nat) : Prog := (requestHold cause).andThen (.get fun s => .when (s.reg 0x9005 = 2) (setReg 0x9005 0 3))

def otherMembers (s : State) : List Nat := (List.range s.groupSize).filter (· != s.groupMember)

end Sys2Proof.Machine
end

