-- ==== Sys2Proof/Machine/FigCheck.lean ====
section
/-! DEFINITION. The checks of one figure (R79, R134, R187): its words, its segments and loops, and the occupancies and writes in flight along its one path, counted as though no step stalled. -/

namespace Sys2Proof.Machine

/-- What the check of a figure reads: the core's tables, the pins of its latency classes, its decoded words and the longest segment. -/
structure FigCtx where
  handles : AMap Nat
  routes : AMap Nat
  loops : AMap Nat
  tiles : AMap Nat
  apCfg : AMap Nat
  pins : List Nat
  words : List (List Instr)
  smax : Nat

/-- A loop that is open on the path: END, first word, iterations left (none: no end), XREG, XSTEP. -/
structure FigLoop where
  stop : Nat
  start : Nat
  left : Option Nat
  xreg : Nat
  xstep : Nat
  deriving DecidableEq, Repr

/-- Where the path stands.  Every time is counted in cycles from the next word's issue: `busy` of a unit, `ports` as (port, cycle, rows), `pend` of a register's write in flight as 16 * cycles + chain. -/
structure Haz where
  x : AMap Nat
  stack : List FigLoop
  segN : Nat
  segDone : Nat
  started : Bool
  busy : AMap Nat
  ports : List (Nat × Nat × Nat)
  pend : AMap Nat
  wbFmt : AMap Nat
  side : AMap Nat
  apSel : Nat
  deriving DecidableEq, Repr

def Haz.start : Haz := ⟨[], [], 0, 0, false, [], [], [], [], [], 0⟩

/-- One cycle goes by. -/
def Haz.tick (h : Haz) : Haz :=
  { h with
    busy := h.busy.filterMap fun kv => if kv.2 ≤ 1 then none else some (kv.1, kv.2 - 1),
    ports := h.ports.filterMap fun u => if u.2.1 = 0 then none else some (u.1, u.2.1 - 1, u.2.2),
    pend := h.pend.filterMap fun kv => if kv.2 < 32 then none else some (kv.1, kv.2 - 16) }

/-- A unit takes a step for n cycles; it must be free. -/
def Haz.occupy (h : Haz) (unit n : Nat) : Option Haz :=
  if AMap.get 0 h.busy unit > 0 then none else some { h with busy := AMap.put 0 h.busy unit n }

/-- Rows a port takes in a cycle: 4 of the vector unit and the data mover, 8 and 2 of the attention pipe. -/
def portCap (p : Nat) : Nat := if p = 4 then 8 else if p = 5 then 2 else 4

/-- Rows through a port in a cycle.  DESIGN CHOICE: accesses of two steps share a port in a cycle while their rows together fit its width. -/
def Haz.use (h : Haz) (port off rows : Nat) : Option Haz :=
  let had := (h.ports.filter fun u => u.1 = port && u.2.1 = off).foldl (fun a u => a + u.2.2) 0
  if rows = 0 then some h
  else if had + rows > portCap port then none else some { h with ports := (port, off, rows) :: h.ports }

/-- Rows through a port, as many a cycle as `per`, from a cycle on. -/
def Haz.spread (port per : Nat) : Nat → Nat → Nat → Haz → Option Haz
  | 0, _, _, h => some h
  | n + 1, off, rows, h =>
    if rows = 0 then some h
    else (h.use port off (min per rows)).bind fun h => Haz.spread port per n (off + 1) (rows - per) h

/-- A step touches a register: no write to it may be in flight, but for one of its own chain. -/
def Haz.touch (h : Haz) (key chain : Nat) : Option Haz :=
  let p := AMap.get 0 h.pend key
  if p = 0 || (chain != 0 && p % 16 = chain) then some h else none

def Haz.touchAll (h : Haz) : List Nat → Option Haz
  | [] => some h
  | k :: ks => (h.touch k 0).bind fun h => h.touchAll ks

/-- A step writes a register, ready in so many cycles. -/
def Haz.write (h : Haz) (key chain ready : Nat) : Option Haz :=
  (h.touch key chain).map fun h => if ready = 0 then h else { h with pend := AMap.put 0 h.pend key (16 * max ready (AMap.get 0 h.pend key / 16) + chain) }

/-! Register keys: V0 to V15, then these. -/
def rkSa : Nat := 16
def rkWb (b : Bool) : Nat := 17 + boolNat b
def rkAb (b : Bool) : Nat := 19 + boolNat b
def rkTile (q : Nat) : Nat := 21 + q
def rkSlot (b : Bool) : Nat := 25 + boolNat b

def chMmul : Nat := 1
def chAp : Nat := 3
/-- VQSTs into one tile set, whose counts and assembled scales they fill in order. -/
def chVqst (q : Nat) : Nat := 4 + q

/-- A latency class with its pin (R179, R182). -/
def FigCtx.lat (c : FigCtx) (k : Nat) : Nat := Config.nativeLatency.getD k 0 + c.pins.getD k 0

def FigCtx.handle (c : FigCtx) (i : Nat) : Nat := AMap.get 0 c.handles i

/-- The read latency of n rows from index i of a handle: the upper banks' if every row lies there. -/
def FigCtx.readLat (c : FigCtx) (hi i n : Nat) : Nat :=
  let h := c.handle hi
  let up := (List.range n).all fun k => match storedRow h (i + k) with
    | .ok r => r < 10240
    | .error _ => false
  if up then c.lat 0 else c.lat 1

def Haz.xreg (h : Haz) (i : Nat) : Nat := if i = 0 then 0 else AMap.get 0 h.x i
def Haz.setX (h : Haz) (i v : Nat) : Haz := if i = 0 then h else { h with x := AMap.put 0 h.x i (v % 65536) }

/-- Element bits of a format the array takes (R82); 0 for another. -/
def maBits (f : Nat) : Nat := if f = fmtRaw || f = fmtFp32 then 0 else fmtBits f

/-- Outliers per block of an OUT or N field. -/
def outN (o : Nat) : Nat := [0, 1, 2, 4].getD o 0

/-- Cycles of a vector in the array (R83). -/
def pairCycles (w a : Nat) : Nat := if a = fmtBf16 then 8 else if a = fmtK4 && w != fmtK8 then 1 else 2

/-! ### The units -/

def hazMa (c : FigCtx) (h : Haz) : Instr → Option Haz
  | .mload _ hd x wb out =>
    let f := maBits (hFmt (c.handle hd.toNat))
    let r := 8 * f + (if f = 16 || f = 0 then 0 else 2) + (if f = 2 || f = 3 || f = 4 then 4 * outN out.toNat else 0)
    let n := max 1 (ceilDiv r 8)
    (h.occupy 0 n).bind fun h => (h.write (rkWb wb) 0 (n + c.readLat hd.toNat (h.xreg x.toNat) r)).map fun h =>
      { h with wbFmt := AMap.put 0 h.wbFmt (boolNat wb) (hFmt (c.handle hd.toNat)) }
  | .mmul _ hd x wb ab _ v1 =>
    let a := hFmt (c.handle hd.toNat)
    let v := v1.toNat + 1
    let r := ceilDiv (v * maBits a) 8 + (if a = fmtBf16 || maBits a = 0 then 0 else ceilDiv v 32)
    let n := max 1 (ceilDiv r 8)
    let s := n + c.readLat hd.toNat (h.xreg x.toNat) r
    let cyc := pairCycles (AMap.get 0 h.wbFmt (boolNat wb)) a
    (h.occupy 0 n).bind fun h => (h.touch (rkWb wb) 0).bind fun h =>
      if AMap.get 0 h.busy 2 > s then none
      else ({ h with busy := AMap.put 0 h.busy 2 (s + v * cyc) }).write (rkAb ab) chMmul (s + (v - 1) * cyc + c.lat 4)
  | .mout _ _ _ ab bf v1 _ =>
    (h.touch (rkAb ab) 0).bind fun h => h.occupy 1 ((v1.toNat + 1) * (if bf then 1 else 2))
  | _ => some h

/-- Reads registers, writes one. -/
def hazArith (h : Haz) (reads : List Nat) (vd ready : Nat) : Option Haz :=
  (h.occupy 3 1).bind fun h => (h.touchAll reads).bind fun h => h.write vd 0 ready

/-- The vector registers that a quantised row fills or empties: two for a K4 handle. -/
def quantRegs (c : FigCtx) (hd v : Nat) : List Nat := if hFmt (c.handle hd) = fmtK4 then [v, (v + 1) % 16] else [v]

def hazVu (c : FigCtx) (h : Haz) : Instr → Option Haz
  | .vld _ vr hd x imm sub =>
    let rows := if sub.toNat = 0 then 4 else 2
    let i := (h.xreg x.toNat + imm.toNat) % 65536
    (h.occupy 3 1).bind fun h => (h.use 0 0 rows).bind fun h => h.write vr.toNat 0 (c.readLat hd.toNat i rows + sub.toNat)
  | .vst _ vr _ _ _ sub _ =>
    (h.occupy 3 1).bind fun h => (h.touch vr.toNat 0).bind fun h => h.use 1 (1 + sub.toNat) (if sub.toNat = 0 then 4 else 2)
  | .vlds _ hd x imm =>
    (h.occupy 3 1).bind fun h => (h.use 0 0 1).bind fun h => h.write rkSa 0 (c.readLat hd.toNat ((h.xreg x.toNat + imm.toNat) % 65536) 1)
  | .vsst .. => (h.occupy 3 1).bind fun h => (h.touch rkSa 0).bind fun h => h.use 1 1 1
  | .vldq _ vr hd x imm =>
    let ready := c.readLat hd.toNat ((h.xreg x.toNat + imm.toNat) % 65536) 1 + 2
    (h.occupy 3 1).bind fun h => (h.touch rkSa 0).bind fun h => (h.use 0 0 1).bind fun h =>
      (quantRegs c hd.toNat vr.toNat).foldl (fun o r => o.bind fun h => h.write r 0 ready) (some h)
  | .vqst _ vr hd _ _ sub _ =>
    let q := sub.toNat
    let k4 := hFmt (c.handle hd.toNat) = fmtK4
    let filled := AMap.get 0 h.side q + (if k4 then 4 * outN (bits (AMap.get 0 c.tiles q) 15 14) else 0)
    (h.occupy 3 1).bind fun h => (h.touchAll (quantRegs c hd.toNat vr.toNat)).bind fun h =>
      (h.write rkSa (chVqst q) (c.lat 9)).bind fun h => (h.write (rkTile q) (chVqst q) (c.lat 9)).bind fun h =>
        (h.use 1 (c.lat 9) (if filled ≥ 32 then 2 else 1)).map fun h => { h with side := AMap.put 0 h.side q (filled % 32) }
  | .vspin _ hd x imm =>
    let b := 2 ^ (bits imm.toNat 7 5 + 6)
    let p := ceilDiv (bits imm.toNat 7 5 + 6) 6
    let occ := p * b / 64
    let w := (p - 1) * (b / 64) + c.readLat hd.toNat (h.xreg x.toNat) (b / 16) + 1 + c.lat 10
    (h.occupy 3 occ).bind fun h => (Haz.spread 0 4 occ 0 (4 * occ) h).bind fun h => (Haz.spread 1 4 occ 0 (4 * occ) h).bind fun h =>
      let late := if w ≥ occ then b / 64 else b / 64 - (occ - w)
      Haz.spread 1 4 late (max w occ) (4 * late) h
  | .vqend _ imm =>
    let q := bits imm.toNat 8 7
    (h.occupy 3 1).bind fun h => (h.touch (rkTile q) 0).bind fun h =>
      (h.use 1 1 (if AMap.get 0 h.side q > 0 then 1 else 0)).map fun h => { h with side := AMap.put 0 h.side q 0 }
  | .fadd _ vd va vb _ => hazArith h [va.toNat, vb.toNat] vd.toNat (c.lat 6)
  | .fsub _ vd va vb _ => hazArith h [va.toNat, vb.toNat] vd.toNat (c.lat 6)
  | .fmul _ vd va vb _ => hazArith h [va.toNat, vb.toNat] vd.toNat (c.lat 6)
  | .fma _ vd va vb vc _ => hazArith h [va.toNat, vb.toNat, vc.toNat] vd.toNat (c.lat 6)
  | .fmax _ vd va vb _ => hazArith h [va.toNat, vb.toNat] vd.toNat (c.lat 5)
  | .fmin _ vd va vb _ => hazArith h [va.toNat, vb.toNat] vd.toNat (c.lat 5)
  | .fexp _ vd va _ => hazArith h [va.toNat] vd.toNat (c.lat 8)
  | .frcp _ vd va _ => hazArith h [va.toNat] vd.toNat (c.lat 8)
  | .frsq _ vd va _ => hazArith h [va.toNat] vd.toNat (c.lat 8)
  | .fsig _ vd va _ => hazArith h [va.toNat] vd.toNat (c.lat 8)
  | .vsum _ vd va _ => hazArith h [va.toNat] vd.toNat (c.lat 7)
  | .vmaxr _ vd va _ => hazArith h [va.toNat] vd.toNat (c.lat 7)
  | .vbcst _ vd va _ _ => hazArith h [va.toNat] vd.toNat (c.lat 5)
  | .vtopk _ vd va => hazArith h [va.toNat] vd.toNat (c.lat 8)
  | .fcvt _ vd va _ => hazArith h [va.toNat] vd.toNat 3
  | _ => some h

/-- Rows of the fields of an AP configuration (R90 to R92): query block, partial, normed output. -/
def apHeads (a : Nat) : Nat := (bits a 110 107 + 1) * (if bit a 111 then 128 else 64)
def apQueryRows (a : Nat) : Nat := apHeads a * 2 / 64 + 1
def apPartialRows (a : Nat) : Nat := apHeads a / 16 + ceilDiv (bits a 110 107 + 1) 8

def hazAp (c : FigCtx) (h : Haz) (i : Instr) : Option Haz :=
  let a := AMap.get 0 c.apCfg h.apSel
  match i with
  | .acfg _ arg => some { h with apSel := arg.toNat }
  | .aqld .. => Haz.spread 4 8 (apQueryRows a) 0 (apQueryRows a) h
  | .arst _ slot => h.write (rkSlot slot) 0 1
  | .apage _ hd x _ slot =>
    let rows := bits a 121 112
    let l1 := c.readLat hd.toNat (h.xreg x.toNat / 16) 1
    let l2 := c.readLat (bits a 127 122) 0 (hLength (c.handle (bits a 127 122)))
    let p := ceilDiv rows 8
    (h.occupy 5 (l1 + p)).bind fun h => (h.use 4 0 1).bind fun h =>
      (Haz.spread 4 8 rows l1 rows h).bind fun h => h.write (rkSlot slot) chAp (l1 + p - 1 + l2 + c.lat 12)
  | .amrg _ hd x slot =>
    let r := apPartialRows a
    if AMap.get 0 h.busy 5 > 0 then none
    else (Haz.spread 4 8 r 0 r h).bind fun h => h.write (rkSlot slot) chAp (ceilDiv r 8 + c.readLat hd.toNat (h.xreg x.toNat) r + c.lat 12)
  | .aout _ _ _ slot => (h.touch (rkSlot slot) 0).bind fun h => Haz.spread 5 2 (apPartialRows a) 1 (apPartialRows a) h
  | .anorm _ _ _ slot => (h.touch (rkSlot slot) 0).bind fun h => Haz.spread 5 2 (apHeads a) 1 (apHeads a * 2 / 64) h
  | _ => some h

/-- A route-table entry: its header template, and whether it is LOCAL. -/
def rtHeader (r : Nat) : Nat := bits r 127 64
def rtLocal (r : Nat) : Bool := bit r 47

/-- Rows that a data-mover step reads and sends. -/
def hazSend (c : FigCtx) (h : Haz) (hs i rows : Nat) (isLocal : Bool) : Option Haz :=
  (h.occupy 4 (ceilDiv rows 4)).bind fun h => (Haz.spread 2 4 rows 0 rows h).bind fun h =>
    if isLocal then Haz.spread 3 1 rows (c.readLat hs i rows + 1) rows h else some h

def hazDm (c : FigCtx) (h : Haz) : Instr → Option Haz
  | .dcpy _ hs xs _ _ n1 _ =>
    let n := n1.toNat + 1
    (h.occupy 4 (ceilDiv n 4)).bind fun h => (Haz.spread 2 4 n 0 n h).bind fun h =>
      if hMode (c.handle hs.toNat) = 3 then Haz.spread 3 1 n (c.lat 11) n h
      else Haz.spread 3 4 n (c.readLat hs.toNat (h.xreg xs.toNat) n) n h
  | .dsend _ hs xs route _ len _ =>
    hazSend c h hs.toNat (h.xreg xs.toNat) (len.toNat + 1) (rtLocal (AMap.get 0 c.routes route.toNat))
  | .dred _ hs xs route _ _ =>
    hazSend c h hs.toNat (h.xreg xs.toNat) (if bits (rtHeader (AMap.get 0 c.routes route.toNat)) 42 41 = 0 then 2 else 1) false
  | .dqget _ hs xs _ _ _ => hazSend c h hs.toNat (h.xreg xs.toNat) 1 false
  | .dqput _ hs xs _ _ len _ => hazSend c h hs.toNat (h.xreg xs.toNat) (len.toNat + 1) false
  | .dscat _ hs xs route hi xi _ =>
    let r := AMap.get 0 c.routes route.toNat
    let rows := bits (rtHeader r) 40 37 + 1
    let l1 := c.readLat hi.toNat (h.xreg xi.toNat / 16) 1
    (h.occupy 4 (l1 + ceilDiv rows 4)).bind fun h => (h.use 2 0 1).bind fun h => (Haz.spread 2 4 rows l1 rows h).bind fun h =>
      if rtLocal r then Haz.spread 3 1 rows (l1 + c.readLat hs.toNat (h.xreg xs.toNat) rows + 1) rows h else some h
  | .dnw _ hs xs _ _ _ _ _ =>
    (h.occupy 4 1).bind fun h => (h.use 2 0 1).bind fun h => h.use 3 (c.readLat hs.toNat (h.xreg xs.toNat) 1 + 1) 4
  | .dctr .. => (h.occupy 4 1).bind fun h => h.use 3 1 1
  | _ => some h

/-! ### The path (R79, R101, R103) -/

/-- Loop descriptor fields (R101). -/
def loEnd (d : Nat) : Nat := bits d 63 51
def loTrip (d : Nat) : Nat := bits d 50 35
def loXreg (d : Nat) : Nat := bits d 34 32
def loXstep (d : Nat) : Nat := bits d 31 16
def loXinit (d : Nat) : Nat := bits d 15 0

/-- The words of the segment, judged at each word. -/
def hazSegment (h : Haz) : Instr → Option Haz
  | .beat _ n =>
    if (h.started && h.segDone + 1 != h.segN) || n.toNat = 0 then none
    else some { h with started := true, segN := n.toNat, segDone := 0 }
  | .done _ => if h.started && h.segDone + 1 ≤ h.segN then some { h with segDone := h.segDone + 1 } else none
  | _ => if h.started && h.segDone + 1 < h.segN then some { h with segDone := h.segDone + 1 } else none

/-- What the sequencer step changes. -/
def hazSq (c : FigCtx) (h : Haz) (pc : Nat) : Instr → Option Haz
  | .xset _ x v => some (h.setX x.toNat v.toNat)
  | .xadd _ x v => some (h.setX x.toNat (h.xreg x.toNat + (65536 + twos 16 (signed 9 v.toNat))))
  | .loop _ d =>
    let w := AMap.get 0 c.loops d.toNat
    if loEnd w ≤ pc || loEnd w ≥ c.words.length || h.stack.length ≥ 4 || (match h.stack with
      | f :: _ => decide (loEnd w > f.stop)
      | [] => false) then none
    else
      let h := h.setX (loXreg w) (loXinit w)
      some { h with stack := ⟨loEnd w, pc + 1, if loTrip w = 0 then none else some (loTrip w), loXreg w, loXstep w⟩ :: h.stack }
  | _ => some h

/-- Loops that close at a word, innermost first: the next word, and whether a loop without end closed. -/
def closeWalkLoops (h : Haz) (pc : Nat) : List FigLoop → Haz × Nat × Bool
  | [] => ({ h with stack := [] }, pc + 1, false)
  | f :: fs =>
    if f.stop != pc then ({ h with stack := f :: fs }, pc + 1, false)
    else match f.left with
      | some 1 => closeWalkLoops h pc fs
      | some n => (({ h with stack := { f with left := some (n - 1) } :: fs }).setX f.xreg (h.xreg f.xreg + f.xstep), f.start, false)
      | none => (({ h with stack := f :: fs }).setX f.xreg (h.xreg f.xreg + f.xstep), f.start, true)

/-- Follows the path from a word; `seen` are the states at which a loop without end closed, where a state that comes back ends the check. -/
def figRun (c : FigCtx) : Nat → List Haz → Haz → Nat → Bool
  | 0, _, _, _ => false
  | n + 1, seen, h, pc =>
    match c.words[pc]? with
    | some [ma, vu, ap, dm, sq] =>
      match (hazMa c h ma).bind fun h => (hazVu c h vu).bind fun h => (hazAp c h ap).bind fun h => (hazDm c h dm).bind fun h =>
          hazSegment h sq with
      | none => false
      | some h' =>
        match sq with
        | .done _ => true
        | _ =>
          match hazSq c { h' with x := h.x } pc sq with
          | none => false
          | some h'' =>
            let r := closeWalkLoops h'' pc h''.stack
            let h3 := r.1.tick
            if r.2.2 && seen.contains h3 then true
            else figRun c n (if r.2.2 then h3 :: seen else seen) h3 r.2.1
    | _ => false

/-- The longest segment of a beat period of p half microseconds (R187). -/
def segmentMax (p : Nat) : Nat := min 644 ((500 * p - 8) * 650 / 1000)

/-- Words the check follows at most, more than any path has before it ends or repeats itself: four loops of 2^16 turns, 2^16 values of an index register, 2^13 words. -/
def figFuel : Nat := 2 ^ 96

/-- No BEAT of the figure, on its path or not, opens a longer segment than the beat period allows (R187). -/
def beatsGood (c : FigCtx) : Bool :=
  c.words.all fun w => w.all fun i => match i with
    | .beat _ n => decide (n.toNat ≤ c.smax)
    | _ => true

/-- The sequencer step of a word is a BEAT. -/
def isBeatWord : Option (List Instr) → Bool
  | some [_, _, _, _, .beat ..] => true
  | _ => false

/-- Every LOOP names a descriptor whose END lies behind it and inside the figure. -/
def loopsGood (c : FigCtx) : Bool :=
  c.words.zipIdx.all fun w => w.1.all fun i => match i with
    | .loop _ d => decide (w.2 < loEnd (AMap.get 0 c.loops d.toNat)) && decide (loEnd (AMap.get 0 c.loops d.toNat) < c.words.length)
    | _ => true

/-- A figure that the loader accepts: no word of it is reserved, it starts with a BEAT and does not end with one, its segments are short enough, its loops end inside it, and its path passes. -/
def figurePasses (c : FigCtx) : Bool :=
  c.words.isEmpty || (isBeatWord c.words.head? && !isBeatWord c.words.getLast? && beatsGood c && loopsGood c && figRun c figFuel [] Haz.start 0)

end Sys2Proof.Machine
end

