-- ==== Sys2Proof/Machine/Keccak.lean ====
section
/-! DEFINITION. SHAKE256 (FIPS 202), which the spec names for every digest (R170, R203, R205, R254), and the XMSS verification of RFC 8391 (R203). PRESUMED: taken from the published standards the rules name. -/

namespace Sys2Proof.Machine

/-- The low 64 bits. -/
def low64 (x : Nat) : Nat := x % 2 ^ 64
def rotl64 (x n : Nat) : Nat := low64 (x * 2 ^ n) + x / 2 ^ (64 - n)

/-- A round constant has bits only at the places 2^j - 1: round r's seven bits, as the FIPS 202 generator gives them, are bits 7r + 6 to 7r. -/
def roundCode : Nat := 0xe886c79cc5a452a7767bf4cd460eabe509fe178d01
def roundConst (r : Nat) : Nat := ((List.range 7).map fun j => bits roundCode (7 * r + j) (7 * r + j) * 2 ^ (2 ^ j - 1)).foldl (· + ·) 0

/-- How far lane x + 5y turns: six bits a lane. -/
def turnCode : Nat := 0xee3d0922153eda6766b2835371ac91b73e040
def laneTurn (i : Nat) : Nat := bits turnCode (6 * i + 5) (6 * i)

/-- Theta on the five planes of a state: each lane meets the parities of its two neighbour columns. -/
def theta (planes : List (List Nat)) : List (List Nat) :=
  let parity := planes.foldl (List.zipWith (· ^^^ ·)) (List.replicate 5 0)
  let mix := (List.range 5).map fun x => parity.getD ((x + 4) % 5) 0 ^^^ rotl64 (parity.getD ((x + 1) % 5) 0) 1
  planes.map fun p => List.zipWith (· ^^^ ·) p mix

/-- Rho and pi: lane (x, y) of the new state is lane ((x + 3y) mod 5, x) of the old one, turned. -/
def turnAndMove (planes : List (List Nat)) : List (List Nat) :=
  (List.range 5).map fun y => (List.range 5).map fun x =>
    let u := (x + 3 * y) % 5
    rotl64 ((planes.getD x []).getD u 0) (laneTurn (u + 5 * x))

/-- Chi on one plane. -/
def chi (p : List Nat) : List Nat :=
  List.zipWith (fun v w => v ^^^ w) p (List.zipWith (fun m k => (2 ^ 64 - 1 - m) &&& k) (p.drop 1 ++ p.take 1) (p.drop 2 ++ p.take 2))

/-- Round r of Keccak-f[1600]. -/
def keccakRound (planes : List (List Nat)) (r : Nat) : List (List Nat) :=
  match (turnAndMove (theta planes)).map chi with
  | (h :: t) :: ps => ((h ^^^ roundConst r) :: t) :: ps
  | ps => ps

def keccakF (planes : List (List Nat)) : List (List Nat) := (List.range 24).foldl keccakRound planes

/-- A block of 136 bytes as planes of lanes; the capacity lanes are zero. -/
def blockPlanes (block : List Byte) : List (List Nat) :=
  (List.range 5).map fun y => (List.range 5).map fun x => field block (8 * (x + 5 * y)) 8

/-- Absorbs whole 136-byte blocks; the fuel is the number of blocks. -/
def absorb : Nat → List (List Nat) → List Byte → List (List Nat)
  | 0, a, _ => a
  | n + 1, a, m => absorb n (keccakF (List.zipWith (List.zipWith (· ^^^ ·)) a (blockPlanes (m.take 136)))) (m.drop 136)

def squeeze : Nat → List (List Nat) → List Byte
  | 0, _ => []
  | n + 1, a => (a.flatten.take 17).flatMap (leBytes 8) ++ squeeze n (keccakF a)

/-- The padding of SHAKE256: 0x1F, zeros, and the top bit of the last byte. -/
def shakePad (m : List Byte) : List Byte :=
  let z := 135 - m.length % 136
  if z == 0 then m ++ [0x9F] else m ++ [0x1F] ++ List.replicate (z - 1) 0 ++ [0x80]

/-- SHAKE256 with an output of n bytes. -/
def shake256 (n : Nat) (m : List Byte) : List Byte :=
  let p := shakePad m
  (squeeze (n / 136 + 1) (absorb (p.length / 136) (List.replicate 5 (List.replicate 5 0)) p)).take n

/-- A 32-byte digest as a little-endian number of its bytes. -/
def digest32 (m : List Byte) : BitVec 256 := BitVec.ofNat 256 (leNat (shake256 32 m))

/-! ### XMSS-SHAKE256_20_256 verification (RFC 8391, NIST SP 800-208): n = 32, w = 16, height 20 -/

def xF (key m : List Byte) : List Byte := shake256 32 (beBytes 32 0 ++ key ++ m)
def xH (key m : List Byte) : List Byte := shake256 32 (beBytes 32 1 ++ key ++ m)
def xHmsg (key m : List Byte) : List Byte := shake256 32 (beBytes 32 2 ++ key ++ m)
def xPrf (key m : List Byte) : List Byte := shake256 32 (beBytes 32 3 ++ key ++ m)

def xorBytes (a b : List Byte) : List Byte := List.zipWith (· ^^^ ·) a b

/-- An address of eight 32-bit big-endian words. -/
def xAdrs (ws : List Nat) : List Byte := ws.flatMap (beBytes 4)

/-- steps applications of the chaining function from position i (RFC 8391, 3.1.2). -/
def xChain (seed : List Byte) (leaf chain : Nat) : Nat → Nat → List Byte → List Byte
  | 0, _, x => x
  | s + 1, i, x =>
    let key := xPrf seed (xAdrs [0, 0, 0, 0, leaf, chain, i, 0])
    let bm := xPrf seed (xAdrs [0, 0, 0, 0, leaf, chain, i, 1])
    xChain seed leaf chain s (i + 1) (xF key (xorBytes x bm))

/-- RAND_HASH with an address whose first seven words are given. -/
def xRandHash (seed : List Byte) (adrs : List Nat) (l r : List Byte) : List Byte :=
  let key := xPrf seed (xAdrs (adrs ++ [0]))
  let b0 := xPrf seed (xAdrs (adrs ++ [1]))
  let b1 := xPrf seed (xAdrs (adrs ++ [2]))
  xH key (xorBytes l b0 ++ xorBytes r b1)

def nibbles (bs : List Byte) : List Nat := bs.flatMap fun b => [b.toNat / 16, b.toNat % 16]

/-- The 67 chain lengths of a message digest, checksum included. -/
def wotsDigits (m : List Byte) : List Nat :=
  let d := nibbles m
  let c := d.foldl (fun acc x => acc + (15 - x)) 0
  d ++ [c / 256 % 16, c / 16 % 16, c % 16]

def chunks (n : Nat) : Nat → List Byte → List (List Byte)
  | 0, _ => []
  | k + 1, bs => bs.take n :: chunks n k (bs.drop n)

/-- One level of an L-tree: pairs are hashed, a last odd node is lifted. -/
def lTreeLevel (seed : List Byte) (leaf h : Nat) : Nat → List (List Byte) → List (List Byte)
  | i, a :: b :: rest => xRandHash seed [0, 0, 0, 1, leaf, h, i] a b :: lTreeLevel seed leaf h (i + 1) rest
  | _, rest => rest

def lTree (seed : List Byte) (leaf : Nat) : Nat → Nat → List (List Byte) → List Byte
  | 0, _, ns => ns.headD []
  | f + 1, h, ns => lTree seed leaf f (h + 1) (lTreeLevel seed leaf h 0 ns)

/-- Climbs the authentication path from a leaf. -/
def xClimb (seed : List Byte) : Nat → Nat → List Byte → List (List Byte) → List Byte
  | _, _, node, [] => node
  | h, idx, node, a :: rest =>
    let up := if idx % 2 == 0 then xRandHash seed [0, 0, 0, 2, 0, h, idx / 2] node a
      else xRandHash seed [0, 0, 0, 2, 0, h, idx / 2] a node
    xClimb seed (h + 1) (idx / 2) up rest

/-- XMSS_verify for a 68-byte public key (OID, root, seed) and a 2 820-byte signature (R203, R306). -/
def xmssVerify (pk msg sig : List Byte) : Bool :=
  let root := (pk.drop 4).take 32
  let seed := (pk.drop 36).take 32
  let idx := leNat (sig.take 4).reverse
  let r := (sig.drop 4).take 32
  let m := xHmsg (r ++ root ++ beBytes 32 idx) msg
  let parts := chunks 32 67 (sig.drop 36)
  let ends := (List.range 67).map fun i =>
    let d := (wotsDigits m).getD i 0
    xChain seed idx i (15 - d) d (parts.getD i [])
  let leaf := lTree seed idx 7 0 ends
  let auth := chunks 32 20 (sig.drop (36 + 67 * 32))
  pk.length == 68 && sig.length == 2820 && idx < 2 ^ 20 && pk.take 4 == [0x00, 0x00, 0x00, 0x12]
    && xClimb seed 0 idx leaf auth == root

end Sys2Proof.Machine
end

