-- ==== Sys2Proof/Machine/LoadCheck.lean ====
section
/-! DEFINITION. The checks of a load, in the order of R206. -/

namespace Sys2Proof.Machine

/-! ### Failing checks -/

/-- A failed check: status, check code, detail. -/
abbrev LoadFail := Nat × Nat × Nat

/-- The first failure of a list. -/
def firstFail {α : Type} : List (Option α) → Option α
  | [] => none
  | some f :: _ => some f
  | none :: r => firstFail r

/-- The value of a failure, unless the condition holds. -/
def need {α : Type} (ok : Bool) (v : α) : Option α := if ok then none else some v

/-- A failure of signature status with its check code. -/
def sigFail (code : Nat) (d : Option Nat) : Option LoadFail := d.map fun v => (0x43, code, v)

/-- What the checks read: the state, the slot, the binary and its manifest, and the other resident binary. -/
structure LoadCtx where
  s : State
  slot : Nat
  m : Model
  other : Option Model

def LoadCtx.b (c : LoadCtx) (off n : Nat) : Nat := c.s.bin c.m off n
/-- n bytes of the binary are zero. -/
def LoadCtx.zero (c : LoadCtx) (off n : Nat) : Bool := (c.s.staged c.m.region off n).all (· == 0)

/-! ### Steps 1 and 2 -/

/-- The bytes of a signature prefix and signature. -/
def sigBytes : Nat := 8 + 2820

/-- A signature prefix and signature after `len` bytes of an object (R203): prefix, zeros, key slot enrolled, signature over everything up to the prefix's end. -/
def signatureGood (s : State) (body : List Byte) : Bool :=
  let len := body.length - sigBytes
  let pre := slice body len 8
  body.length ≥ sigBytes && pre.take 4 == ascii "XSIG" && field pre 4 1 < 4 && (pre.drop 5).all (· == 0) &&
    !(s.enrolled (field pre 4 1)).isEmpty &&
    xmssVerify (s.enrolled (field pre 4 1)) (body.take (len + 8)) (body.drop (len + 8))

/-- The whole staged binary. -/
def LoadCtx.bytes (c : LoadCtx) : List Byte := c.s.staged c.m.region 0 c.m.blen

def step1 (c : LoadCtx) : Option LoadFail := need (shake256 32 c.bytes == c.m.digest) (0x43, 0, 0)
def step2 (c : LoadCtx) : Option LoadFail := need (signatureGood c.s c.bytes) (0x43, 0, c.b (c.m.blen - sigBytes + 4) 1)

/-! ### Step 3: header, sections, pools (R198 to R202, R32, R272, R356) -/

def headerFault (c : LoadCtx) : Option Nat :=
  let b := c.b
  firstFail [need (c.s.staged c.m.region 0 4 == ascii "CRCH") 0, need (b 4 2 == 1) 4, need (b 6 1 == boolNat (c.slot == 1)) 6,
    need (1 ≤ b 7 1 && b 7 1 ≤ 8) 7, need (b 12 4 == 256 + 16 * b 8 4) 12,
    need (b 12 4 ≤ b 16 8 && b 16 8 + sigBytes == c.m.blen && c.m.blen ≤ 2 ^ 30) 16,
    need (1 ≤ b 88 4 && b 88 4 ≤ 131072) 88, need (16 ≤ b 92 2 && b 92 2 ≤ 4096 && b 92 2 % 16 == 0) 92,
    need (1 ≤ b 94 2 && b 94 2 ≤ 64) 94, need (1 ≤ b 98 2 && b 98 2 ≤ 256) 98, need (c.zero 103 1) 103,
    need (b 110 1 == c.s.groupSize) 110, need (b 111 1 == c.s.groupMember) 111, need (b 122 2 != 0) 122,
    need (c.zero 124 4) 124, need (c.zero 192 64) 192]

/-- A section-table entry: type, length, offset, and where its entry stands. -/
structure SecEntry where
  typ : Nat
  len : Nat
  off : Nat
  at_ : Nat

def LoadCtx.sections (c : LoadCtx) : List SecEntry :=
  (List.range (c.b 8 4)).map fun k => let o := 256 + 16 * k; ⟨c.b o 2, c.b (o + 4) 4, c.b (o + 8) 8, o⟩

def sectionFault (c : LoadCtx) (before : List SecEntry) (e : SecEntry) : Option Nat :=
  firstFail [need (1 ≤ e.typ && e.typ ≤ 14 && !before.any fun f => f.typ == e.typ) e.at_, need (c.zero (e.at_ + 2) 2) (e.at_ + 2),
    need (c.b 12 4 ≤ e.off && e.off % 64 == 0 && e.off + e.len ≤ c.b 16 8) (e.at_ + 8),
    need (before.all fun f => e.off + e.len ≤ f.off || f.off + f.len ≤ e.off) (e.at_ + 8)]

def sectionFaults (c : LoadCtx) : List SecEntry → List SecEntry → Option Nat
  | _, [] => none
  | before, e :: es => (sectionFault c before e).or (sectionFaults c (e :: before) es)

/-- The gap after an offset, up to the next section with bytes or the signature prefix, is zero (R198). -/
def gapFault (c : LoadCtx) (o : Nat) : Option Nat :=
  let next := ((c.sections.filter fun e => e.len != 0).map (·.off)).foldl (fun a f => if f ≥ o then min a f else a) (c.b 16 8)
  need (c.zero o (next - o)) o

def mandatory : List Nat := [1, 2, 3, 6, 9, 0xB, 0xD]

def tableFault (c : LoadCtx) : Option Nat :=
  firstFail [sectionFaults c [] c.sections, need (mandatory.all fun t => c.sections.any fun e => e.typ == t) 256,
    firstFail ((c.b 12 4 :: c.sections.map fun e => e.off + e.len).map (gapFault c))]

def LoadCtx.len (c : LoadCtx) (t : Nat) : Nat := c.s.secLen c.m t
def LoadCtx.off (c : LoadCtx) (t : Nat) : Nat := c.s.secOff c.m t

/-- Figures of the pool: how many, and whether the last ends with the section. -/
def figureCount (c : LoadCtx) : Nat → Nat → Nat → Option Nat
  | 0, _, n => some n
  | k + 1, o, n =>
    if o = c.off 2 + c.len 2 then some n
    else if o + 4 > c.off 2 + c.len 2 || o + 4 + 16 * c.b o 4 > c.off 2 + c.len 2 then none
    else figureCount c k (o + 4 + 16 * c.b o 4) (n + 1)

def syncTables (c : LoadCtx) : Nat := if c.len 5 = 0 then 0 else c.b (c.off 5) 4

/-- The serving block of a record (R202): the zero bytes, and the ranges of what is read there.  DEDUCED (log 183): the block is part of the CONFIG pool, so that step 3 judges it; on a core that is no entry core, or whose staging engine is off, the bytes of the ring that it has not are not judged, as those of its handle. -/
def servingFault (c : LoadCtx) (r : CoreRec) : Option Nat :=
  let o := c.s.configOff c.m r + 640
  let within (off n lo hi : Nat) : Option Nat := need (lo ≤ c.b (o + off) n && c.b (o + off) n ≤ hi) (o + off)
  firstFail [within 0 2 0 1024,
    if r.flags / 2 % 2 = 1 && c.b (o + 2) 1 != 0xFF then firstFail [within 4 2 1 64, within 6 2 2 1023, within 8 1 0 31] else none,
    need (c.zero (o + 9) 1) (o + 9),
    if r.flags % 2 = 1 && c.b (o + 3) 1 != 0xFF then firstFail [within 10 2 1 4096, within 12 2 1 (c.b (o + 10) 2)] else none,
    need (c.zero (o + 14) 50) (o + 14)]

/-- One assignment record (R200). -/
def coreRecFault (c : LoadCtx) (figs : Nat) (before : List CoreRec) (r : CoreRec) (o : Nat) : Option Nat :=
  let opt (id n : Nat) : Bool := id == 0xFFFF || id < n
  firstFail [need ((CoreId.ofKey r.key).valid && bit (c.s.hFieldMask c.m) (r.key / 1024) && !before.any fun q => q.key == r.key) o,
    need (r.flags < 4) (o + 3), need (r.figure < figs) (o + 4), need (r.handles < c.len 3 / 1024) (o + 6),
    need (opt r.routes (c.len 4 / 1024)) (o + 8), need (opt r.sync (syncTables c)) (o + 10), need (r.config < c.len 6 / 704) (o + 12),
    need (opt r.router (c.len 7 / 128)) (o + 14), if r.config < c.len 6 / 704 then servingFault c r else none]

def coresFault (c : LoadCtx) : Option Nat :=
  match figureCount c (c.len 2 / 4 + 1) (c.off 2) 0 with
  | none => some (c.off 2)
  | some figs =>
    let rs := c.s.coreRecs c.m
    (need (c.len 1 % 16 == 0) (c.off 1)).or (firstFail ((List.range rs.length).map fun i =>
      match rs[i]? with
      | some r => coreRecFault c figs (rs.take i) r (c.off 1 + 16 * i)
      | none => none))

def syncFault (c : LoadCtx) : Option Nat :=
  if c.len 5 = 0 then none
  else
    let p := c.off 5 + 4 + 256 * c.b (c.off 5) 4
    let n := c.b p 4
    firstFail [need (4 + 256 * c.b (c.off 5) 4 + 4 + 8 * n ≤ c.len 5) (c.off 5),
      firstFail ((List.range n).map fun i => need (c.b (p + 4 + 8 * i + 2) 1 < 2 && c.zero (p + 4 + 8 * i + 3) 1) (p + 4 + 8 * i))]

/-- An output port that leads off the logical mesh from a core (R32). -/
def offMesh (key out : Nat) : Bool :=
  let f := key / 1024
  let r := key / 32 % 32
  let k := key % 32
  (out == 3 && f / 10 == 0 && r == 0) || (out == 4 && f / 10 == 7 && r == 23) || (out == 1 && f % 10 == 0 && k == 0) ||
    (out == 2 && f % 10 == 9 && k == 23)

/-- Reduction entries of the router sets, used or not: no reserved OUT or bit, no OUT off the mesh (R32). -/
def routerFault (c : LoadCtx) : Option Nat :=
  (need (c.len 7 % 128 == 0) (c.off 7)).or (firstFail ((List.range (c.len 7 / 8)).map fun i =>
    let o := c.off 7 + 8 * i
    need (c.b o 1 < 32 && c.b (o + 1) 1 < 5 && c.b (o + 2) 1 < 2 && c.zero (o + 3) 5 &&
      !((c.s.coreRecs c.m).any fun r => r.router == i / 16 && offMesh r.key (c.b (o + 1) 1))) o))

def initFaults (c : LoadCtx) : Nat → Nat → Option Nat
  | 0, _ => none
  | k + 1, o =>
    if o = c.off 8 + c.len 8 then none
    else
      let n := c.b (o + 6) 2
      if o + 8 + 64 * n > c.off 8 + c.len 8 || !c.zero (o + 3) 1 || (c.s.coreRec c.m (coreNamed c.s c.m o)).isNone || c.b (o + 4) 2 + n > spadRows then some o
      else initFaults c k (o + 8 + 64 * n)

/-- Phase price and field records of the PRICES section (R356). -/
def phasePrice (s : State) (m : Model) (p : Nat) : Nat := s.bin m (s.secOff m 0xB + 8 + 2 * p) 2

def pricesFault (c : LoadCtx) : Option Nat :=
  let o := c.off 0xB
  let fs := c.s.hFields c.m
  let nph := c.b o 4
  let peak := ((List.range nph).map (phasePrice c.s c.m)).foldl max 0
  firstFail [need (nph == c.s.hCadence c.m) o, need (c.b (o + 4) 4 == fs.length) (o + 4), need (8 + 2 * nph + 16 * fs.length ≤ c.len 0xB) o,
    firstFail ((List.range fs.length).map fun i =>
      let q := o + 8 + 2 * nph + 16 * i
      need (fs.contains (c.b q 1) && c.zero (q + 1) 1 && !(List.range i).any fun j => c.b (o + 8 + 2 * nph + 16 * j) 1 == c.b q 1) q),
    need (c.s.hPeak c.m == ceilDiv peak 10) 108]

def hbmFault (c : LoadCtx) : Option Nat :=
  let o := c.off 0xD
  (need (4 + 4 * c.b o 2 + 20 * c.b (o + 2) 2 ≤ c.len 0xD) o).or (firstFail ((List.range (c.b (o + 2) 2)).map fun i =>
    let q := o + 4 + 4 * c.b o 2 + 20 * i
    need (c.zero (q + 1) 3) (q + 1)))

def cadenceFault (c : LoadCtx) : Option Nat :=
  (need (c.len 9 == c.s.hCadence c.m) (c.off 9)).or (firstFail ((List.range (c.len 9)).map fun i => need (c.b (c.off 9 + i) 1 < 2) (c.off 9 + i)))

def tablesFaults (c : LoadCtx) : Nat → Nat → Option Nat
  | 0, _ => none
  | k + 1, o =>
    if o = c.off 0xE + c.len 0xE then none
    else if o + 7 + c.b (o + 3) 4 > c.off 0xE + c.len 0xE then some o
    else tablesFaults c k (o + 7 + c.b (o + 3) 4)

def step3 (c : LoadCtx) : Option LoadFail :=
  sigFail 0x01 (firstFail [headerFault c, tableFault c, need (c.len 3 % 1024 == 0) (c.off 3), need (c.len 4 % 1024 == 0) (c.off 4),
    need (c.len 6 % 704 == 0) (c.off 6), coresFault c, syncFault c, routerFault c, initFaults c (c.len 8 / 8 + 1) (c.off 8), cadenceFault c,
    pricesFault c, need (c.len 0xC % 4 == 0) (c.off 0xC), hbmFault c, tablesFaults c (c.len 0xE / 7 + 1) (c.off 0xE)])

/-! ### Step 4: the manifest (R205) -/

/-- A shard entry within the limits of R205. -/
def shardGood (c : LoadCtx) (k : Nat) : Bool :=
  let e := shardEntry c.m.manifest k
  field e 0 4 == k && 1 ≤ shRows e && shRows e ≤ 1048576 && shKind e < 2 && field e 10 2 == 0 && field e 15 1 == 0 && field e 18 2 == 0 &&
    field e 29 3 == 0 && (slice e 72 24).all (· == 0) && shPort e < 24 && shOff e % 64 == 0 && shOff e + shRows e * 64 ≤ 0x17C000000 &&
    shRows e == shCores e * shPer e &&
    (shKind e == 1 || !bit (shMembers e) (c.s.hMember c.m) ||
      (bit (c.s.hFieldMask c.m) (shFirst e).1 && 24 * (shFirst e).2.1 + (shFirst e).2.2 + shCores e ≤ 576 && shRow e + shPer e ≤ spadRows))

def step4 (c : LoadCtx) : Option LoadFail :=
  let man := c.m.manifest
  let n := shardCount man
  let total := ((List.range n).map fun k => 64 * shRows (shardEntry man k)).foldl (· + ·) 0
  sigFail 0x02 ((need (shake256 32 man == c.s.staged c.m.region 24 32 && signatureGood c.s man && man.take 4 == ascii "CRMF" &&
      field man 4 2 == 1 && field man 6 1 == c.s.hGroup c.m && field man 7 1 == 0 && n ≤ 65536 && man.length == 64 + 96 * n + sigBytes &&
      field man 12 8 == total && (slice man 20 44).all (· == 0)) 0xFFFFFFFF).or
    (firstFail ((List.range n).map fun k => need (shardGood c k) k)))

/-! ### Step 5: figures (R79, R433, R129, R263) -/

/-- Pins of a binary: its table's value less the native value (R181). -/
def latTable (s : State) (m : Model) (k : Nat) : Nat := s.bin m (128 + k) 1
def modelPins (s : State) (m : Model) : List Nat := (List.range 15).map fun k => latTable s m k - Config.nativeLatency.getD k 0

/-- The decoded words of a record's figure; none when one is reserved. -/
def figureWords (c : LoadCtx) (r : CoreRec) : Option (List (List Instr)) :=
  let o := figureAt c.s c.m r.figure (c.off 2)
  (List.range (c.b o 4)).mapM fun i => decodeWord (CoreId.ofKey r.key) (c.b (o + 4 + 16 * i) 16)

def routeTable (c : LoadCtx) (r : CoreRec) : AMap Nat := if r.routes = 0xFFFF then [] else tableOf c.s c.m (c.off 4 + 1024 * r.routes) 64 16
def syncTable (c : LoadCtx) (r : CoreRec) : AMap Nat := if r.sync = 0xFFFF then [] else tableOf c.s c.m (c.off 5 + 4 + 256 * r.sync) 32 8
def handleTable (c : LoadCtx) (r : CoreRec) : AMap Nat := tableOf c.s c.m (c.off 3 + 1024 * r.handles) 64 16
def configPart (c : LoadCtx) (r : CoreRec) (off n w : Nat) : AMap Nat := tableOf c.s c.m (c.s.configOff c.m r + off) n w

def figCtx (c : LoadCtx) (r : CoreRec) (words : List (List Instr)) : FigCtx :=
  ⟨handleTable c r, routeTable c r, configPart c r 128 16 8, configPart c r 320 4 8, configPart c r 256 4 16, modelPins c.s c.m, words,
    segmentMax (c.s.hBeat c.m)⟩

/-- Routes that a step names, and whether the step may use a LOCAL one. -/
def namedRoute : Instr → Option (Nat × Bool)
  | .dsend _ _ _ route .. => some (route.toNat, true)
  | .dscat _ _ _ route .. => some (route.toNat, true)
  | .dred _ _ _ route .. => some (route.toNat, false)
  | .dqget _ _ _ route .. => some (route.toNat, false)
  | .dqput _ _ _ route .. => some (route.toNat, false)
  | _ => none

/-- A route template that a step names: LOCAL only for DSEND and DSCAT, never the core itself, no reserved form, no raw reduction, only WRITE to a link (R79, R129, R263, R433). -/
def routeGood (key w : Nat) (mayLocal : Bool) : Bool :=
  let h := rtHeader w
  let df := bits h 63 57
  let dr := bits h 56 52
  let dc := bits h 51 47
  let kind := bits h 46 44
  let ep := dr * 32 + dc
  bits w 46 0 == 0 && bits h 3 0 == 0 && if rtLocal w then mayLocal
  else kind ≤ 4 && df * 1024 + dr * 32 + dc != key && !(80 ≤ df && df ≤ 126) && !(df < 80 && (dr > 23 || dc > 23)) &&
    !(df == 127 && !(ep ≤ 0x197 || (0x1A0 ≤ ep && ep ≤ 0x1BF))) && !((kind == 1 || kind == 2) && bits h 42 41 == 3) &&
    !(df == 127 && 0x1A0 ≤ ep && kind != 0)

/-- The sync-table entry a SYNC step names, and whether the step is a counter's. -/
def namedSync : Instr → Option (Nat × Bool)
  | .arrive _ e => some (e.toNat, false)
  | .bwait _ e => some (e.toNat, false)
  | .cadd _ e _ => some (e.toNat, true)
  | .cwait _ e => some (e.toNat, true)
  | _ => none

/-- Every step of a figure. -/
def allSteps (ws : List (List Instr)) : List Instr := ws.flatMap id

def figureGood (c : LoadCtx) (r : CoreRec) : Bool :=
  c.b (figureAt c.s c.m r.figure (c.off 2)) 4 ≤ 6144 &&
  match figureWords c r with
  | none => false
  | some ws =>
    let rt := routeTable c r
    let st := syncTable c r
    (allSteps ws).all (fun i => (match namedRoute i with
        | some (k, l) => routeGood r.key (AMap.get 0 rt k) l
        | none => true) && (match namedSync i with
        | some (e, ctr) => bit (AMap.get 0 st e) 50 == ctr && !bit (AMap.get 0 st e) 32
        | none => true)) && figurePasses (figCtx c r ws)

/-- A check of every core, its packed name the detail. -/
def eachCore (c : LoadCtx) (ok : CoreRec → Bool) : Option Nat := firstFail ((c.s.coreRecs c.m).map fun r => need (ok r) r.key)

/-- The steps of a record's figure. -/
def recSteps (c : LoadCtx) (r : CoreRec) : List Instr := ((figureWords c r).map allSteps).getD []

def step5 (c : LoadCtx) : Option LoadFail := sigFail 0x03 (eachCore c (figureGood c))

/-! ### Step 6: handles (R58 to R61, R67, R202) -/

/-- Lowest and highest row of a handle (R61). -/
def footprint (h : Nat) : Nat × Nat :=
  let n := hLength h
  let top := if hMode h = 1 then (n - 1) * hStride h
    else if hMode h = 2 then
      let q := (n - 1) / max 1 (hRun h)
      max (q * hStride h + (n - 1) % max 1 (hRun h)) (if q = 0 then 0 else (q - 1) * hStride h + hRun h - 1)
    else n - 1
  (hBase h, hBase h + top)

/-- Two row ranges meet. -/
def meet (a b : Nat × Nat) : Bool := a.1 ≤ b.2 && b.1 ≤ a.2

def handleGood (h : Nat) : Bool :=
  hLength h == 0 || (hBase h ≤ 51199 && hLength h ≤ 51200 && hFmt h ≤ fmtK2 && bits h 42 0 == 0 && (!hGuarded h || hGtarget h != 0) &&
    (hMode h != 2 || hRun h != 0) && (hMode h != 3 || (hFmt h ≤ fmtK8 && hLength h % 64 == 0)))

/-- No two guarded footprints overlap. -/
def guardsApart : List Nat → Bool
  | [] => true
  | h :: hs => (hs.all fun g => !meet (footprint h) (footprint g)) && guardsApart hs

def guardedOf (hs : AMap Nat) : List Nat := (hs.map (·.2)).filter fun h => hLength h != 0 && hGuarded h

def rawHandle (hs : AMap Nat) (n : Nat) : Bool := n == 0xFF || (n < 64 && hLength (AMap.get 0 hs n) != 0 && hFmt (AMap.get 0 hs n) == fmtRaw)

def handlesGood (c : LoadCtx) (r : CoreRec) : Bool :=
  let hs := handleTable c r
  hs.all (fun kv => handleGood kv.2) && guardsApart (guardedOf hs) &&
    (recSteps c r).all (fun i => match i with
      | .rel _ h => hGuarded (AMap.get 0 hs h.toNat) && hLength (AMap.get 0 hs h.toNat) != 0
      | _ => true) &&
    (r.flags / 2 % 2 == 0 || rawHandle hs (c.s.servingOf c.m r 2 1)) && (r.flags % 2 == 0 || rawHandle hs (c.s.servingOf c.m r 3 1))

def step6 (c : LoadCtx) : Option LoadFail := sigFail 0x04 (eachCore c (handlesGood c))

/-! ### Step 7: sync objects (R42, R102) -/

def syncObjects (s : State) (m : Model) : List (Nat × SyncObj) := s.syncRecs m

def step7 (c : LoadCtx) : Option LoadFail :=
  let mine := syncObjects c.s c.m
  let theirs := (c.other.map fun o => (syncObjects c.s o).map (·.1)).getD []
  sigFail 0x05 ((firstFail ((List.range mine.length).map fun i => match mine[i]? with
      | some (n, o) => need (n ≤ 8063 && !theirs.contains n && !(mine.take i).any (fun p => p.1 == n) &&
          (o.counter || (1 ≤ o.expected && o.expected ≤ 65535))) n
      | none => none)).or
    (firstFail ((c.s.coreRecs c.m).flatMap fun r =>
      let st := syncTable c r
      (recSteps c r).map fun i => match namedSync i with
        | some (e, _) =>
          let w := AMap.get 0 st e
          need (mine.any fun p => p.1 == bits w 63 51 && p.2.counter == bit w 50) (bits w 63 51)
        | none => none)))

/-! ### Step 8: KV declarations, attention and staging configurations, area ranges (R90, R154, R156, R157, R197) -/

/-- Bytes of a directory, in the pool (R154, R165). -/
def directoryBytes (s : State) (m : Model) : Nat := ceilDiv (64 * s.hFrames m) 65536 * 65536

/-- AP configurations that a record uses. -/
def usedAp (c : LoadCtx) (r : CoreRec) : List Nat :=
  ((recSteps c r).filterMap fun i => match i with
    | .acfg _ a => some a.toNat
    | _ => none) ++ (if r.flags % 2 = 1 then [bits (c.s.stagingOf c.m r) 215 214] else [])

def apGood (a : Nat) : Bool :=
  let d := if bit a 111 then 128 else 64
  let b := d * (if bit a 106 then 4 else 8) / 8
  bits a 105 96 == 0 && bits a 63 0 == 0 && apHeads a ≤ 1024 && bits a 121 112 ≥ 2 * b + d / 16

def stagingGood (c : LoadCtx) (r : CoreRec) : Bool :=
  let w := c.s.stagingOf c.m r
  let a := AMap.get 0 (configPart c r 256 4 16) (bits w 215 214)
  let d := if bit a 111 then 128 else 64
  let b := d * (if bit a 106 then 4 else 8) / 8
  let hs := handleTable c r
  let gs := guardedOf hs
  let sbuf := bits w 255 240
  let pool := AMap.get 0 hs (bits a 127 122)
  bits w 239 230 * bits w 229 226 ≤ 1024 && bits w 229 226 ≥ 2 + 2 * ceilDiv b 64 &&
    gs.all (fun g => !meet (footprint g) (sbuf, sbuf + 1023) && !meet (footprint g) (footprint pool)) &&
    (bits w 187 158 + c.s.hFrames c.m / max 1 (c.s.hWays c.m) * (bits a 121 112 + 1)) * 64 < stackBytes

/-- Area range i of a binary: stack, first and last byte. -/
def areaRanges (s : State) (m : Model) : List (Nat × Nat × Nat) :=
  let o := s.secOff m 0xD
  (List.range (s.bin m (o + 2) 2)).map fun i =>
    let q := o + 4 + 4 * s.bin m o 2 + 20 * i
    (s.bin m q 1, s.bin m (q + 4) 8, s.bin m (q + 12) 8)

/-- The directory fits: what the other resident choreography leaves of the pool has one free run as long as it (R154, R165). -/
def directoryFits (c : LoadCtx) : Bool :=
  let n := directoryBytes c.s c.m
  match c.other with
  | none => n ≤ 96 * 2 ^ 20
  | some o =>
    let base := AMap.get 0 c.s.serving.dirBase (1 - c.slot % 2) - 0x1800000
    n ≤ base || base + directoryBytes c.s o + n ≤ 96 * 2 ^ 20

/-- The core that a route template aims at. -/
def routeCore (w : Nat) : Nat := let h := rtHeader w; bits h 63 57 * 1024 + bits h 56 52 * 32 + bits h 51 47

/-- Where a core's partials go: by AOUT and DSEND (chain merge), and by DRED of kind REDUCE-MAX (reduce merge). -/
def chainTargets (c : LoadCtx) (r : CoreRec) : List Nat :=
  let steps := recSteps c r
  let outs := steps.filterMap fun i => match i with
    | .aout _ h .. => some h
    | _ => none
  steps.filterMap fun i => match i with
    | .dsend _ hs _ route .. => if outs.contains hs then some (routeCore (AMap.get 0 (routeTable c r) route.toNat)) else none
    | _ => none
def reduceTargets (c : LoadCtx) (r : CoreRec) : List Nat :=
  if (usedAp c r).isEmpty then [] else (recSteps c r).filterMap fun i => match i with
    | .dred _ _ _ route .. =>
      let w := AMap.get 0 (routeTable c r) route.toNat
      if bits (rtHeader w) 46 44 = 2 then some (routeCore w) else none
    | _ => none

/-- One head group uses one merge recipe (R151).  The binary names no head groups and R206 no step for this check.  DESIGN CHOICE: the cores of ways that send partials to one merge core, which runs AMRG, are taken as one head group, and the check belongs to step 8. -/
def oneRecipe (c : LoadCtx) : Option Nat :=
  let rs := c.s.coreRecs c.m
  let reduced := rs.flatMap (reduceTargets c)
  if reduced.isEmpty then none
  else
    let chained := rs.flatMap (chainTargets c)
    eachCore c fun r => !(reduced.contains r.key && chained.contains r.key && (recSteps c r).any fun i => match i with
      | .amrg .. => true
      | _ => false)

def step8 (c : LoadCtx) : Option LoadFail :=
  sigFail 0x06 (firstFail [need (c.s.hFrames c.m ≤ 1048576 && c.s.hWays c.m * c.s.hHotSlots c.m ≤ 16384 && directoryFits c) 0,
    eachCore c fun r => (usedAp c r).all fun k => apGood (AMap.get 0 (configPart c r 256 4 16) k),
    eachCore c fun r => r.flags % 2 == 0 || stagingGood c r,
    need ((areaRanges c.s c.m).all fun a => a.1 < 24 && 0x480000000 ≤ a.2.1 && a.2.1 ≤ a.2.2 && a.2.2 ≤ 0x8DFFFFFFF) 0, oneRecipe c])

/-! ### Step 9: side path and tile sets (R119, R131) -/

def sideGood (c : LoadCtx) (r : CoreRec) : Bool :=
  let hs := handleTable c r
  let ts := configPart c r 320 4 8
  (recSteps c r).all fun i => match i with
    | .mload _ h _ _ out => out.toNat == 0 || !(hFmt (AMap.get 0 hs h.toNat) == fmtK8 || hFmt (AMap.get 0 hs h.toNat) == fmtBf16)
    | .vqst _ _ _ _ _ sub _ => bits (AMap.get 0 ts sub.toNat) 7 0 == 0
    | .vqend _ imm => bits (AMap.get 0 ts (bits imm.toNat 8 7)) 7 0 == 0
    | _ => true

def step9 (c : LoadCtx) : Option LoadFail := sigFail 0x07 (eachCore c (sideGood c))

/-! ### Step 10: HBM declarations (R193, R272) -/

/-- Queue-pair declarations: endpoint and A_max. -/
def hbmDecls (s : State) (m : Model) : List (Nat × Nat) :=
  let o := s.secOff m 0xD
  (List.range (s.bin m o 2)).map fun i => (s.bin m (o + 4 + 4 * i) 2, s.bin m (o + 6 + 4 * i) 2)

/-- A queue pair of a stack whose port is not lost (R387), or an assigned link. -/
def declGood (c : LoadCtx) (d : Nat × Nat) : Bool :=
  let g := c.s.groupSize
  let l := d.1 - 0x1A0
  if d.1 < 0x180 then d.2 ≤ 16384 && c.s.reg 0x4012 (d.1 / 16 + 1) == 0 && !((c.other.map fun o => (hbmDecls c.s o).any fun e => e.1 == d.1).getD false)
  else g > 1 && 0x1A0 ≤ d.1 && d.1 ≤ 0x1BF && linkAssigned g l && c.s.reg 0x9010 (l + 1) == 2 && d.2 ≤ 4096

def step10 (c : LoadCtx) : Option LoadFail :=
  let ds := hbmDecls c.s c.m
  let theirs := (c.other.map (areaRanges c.s)).getD []
  sigFail 0x08 ((firstFail (ds.map fun d => need (declGood c d) d.1)).or
    (firstFail ((areaRanges c.s c.m).map fun a => need (c.s.reg 0x4012 (a.1 + 1) == 0 && theirs.all fun b => !(a.1 == b.1 && meet a.2 b.2)) 0)))

/-! ### Steps 11 to 14 -/

def step11 (c : LoadCtx) : Option LoadFail :=
  sigFail 0x09 (firstFail ((c.s.hFields c.m).map fun f => need (c.s.fieldLive f && !((c.other.map fun o => bit (c.s.hFieldMask o) f).getD false)) f))

/-- Rows of KIND 0 shards in a core, as ranges (R210). -/
def weightRows (s : State) (m : Model) (key : Nat) : List (Nat × Nat) :=
  ((s.shardRuns m key).filter fun r => r.2.1 != 0).map fun r => (r.1, r.1 + r.2.1 - 1)

/-- The handle that a step writes through. -/
def destHandle : Instr → List Nat
  | .mout _ h .. => [h.toNat]
  | .vst _ _ h .. => [h.toNat]
  | .vsst _ h .. => [h.toNat]
  | .vqst _ _ h .. => [h.toNat]
  | .dcpy _ _ _ hd .. => [hd.toNat]
  | .dnw _ _ _ hd .. => [hd.toNat]
  | .aout _ h .. => [h.toNat]
  | .anorm _ h .. => [h.toNat]
  | _ => []

/-- The side handle of the tile set that a step names; a tile set without outliers has none, and one that no step names is not judged (R79, R131). -/
def sideHandle (ts : AMap Nat) (i : Instr) : List Nat :=
  let side (q : Nat) : List Nat := if bits (AMap.get 0 ts q) 15 14 = 0 then [] else [bits (AMap.get 0 ts q) 13 8]
  match i with
  | .vqst _ _ _ _ _ sub _ => side sub.toNat
  | .vqend _ imm => side (bits imm.toNat 8 7)
  | _ => []

/-- No destination handle, side handle or route template of a core meets KIND 0 rows (R210). -/
def weightsSafe (c : LoadCtx) (r : CoreRec) : Bool :=
  let hs := handleTable c r
  let rt := routeTable c r
  let ts := configPart c r 320 4 8
  let own := weightRows c.s c.m r.key
  let clear (n : Nat) : Bool :=
    let h := AMap.get 0 hs n
    hLength h == 0 || own.all fun w => !meet (footprint h) w
  (recSteps c r).all fun i => (destHandle i ++ sideHandle ts i).all clear &&
    (match i with
      | .dqget .. => true
      | .dqput .. => true
      | _ => match namedRoute i with
        | none => true
        | some (k, _) =>
          let w := AMap.get 0 rt k
          let h := rtHeader w
          let key := if rtLocal w then r.key else routeCore w
          (!rtLocal w && bits h 63 57 == 127) ||
            (weightRows c.s c.m key).all fun a => !meet (bits h 27 12, bits h 27 12 + bits h 40 37) a)

def step12 (c : LoadCtx) : Option LoadFail := sigFail 0x0A (eachCore c (weightsSafe c))

def step13 (c : LoadCtx) : Option LoadFail :=
  match c.other with
  | none => none
  | some o =>
    let main := if c.slot = 1 then o else c.m
    let lead := if c.slot = 1 then c.m else o
    let link := c.s.staged main.region 160 32
    sigFail 0x0B (need (c.s.staged main.region 56 32 == c.s.staged lead.region 56 32 && c.s.hVocab main == c.s.hVocab lead &&
      c.s.hBeat main == c.s.hBeat lead && c.s.hCadence main == c.s.hCadence lead && (link.all (· == 0) || link == lead.digest)) 0)

/-- Escalation record i: its bytes, and its key as one number (R204). -/
def escOff (s : State) (m : Model) (i : Nat) : Nat := s.secOff m 0xA + 4 + 16 * i
def escCount (s : State) (m : Model) : Nat := if s.secLen m 0xA = 0 then 0 else s.bin m (s.secOff m 0xA) 4
def escKey (s : State) (m : Model) (i : Nat) : Nat :=
  let o := escOff s m i
  ((((s.bin m o 2 * 256 + s.bin m (o + 2) 1) * 256 + s.bin m (o + 3) 1) * 256 + s.bin m (o + 4) 1) * 256) + s.bin m (o + 5) 1

/-- Layers that the second part gives. -/
def escLayers (s : State) (m : Model) : Nat := (s.secLen m 0xA - (4 + 16 * escCount s m)) / 2
/-- The last beat offset of a layer. -/
def layerLast (s : State) (m : Model) (l : Nat) : Nat := s.bin m (escOff s m (escCount s m) + 2 * l) 2

def escGood (c : LoadCtx) (i : Nat) : Bool :=
  let o := escOff c.s c.m i
  c.b o 2 < c.s.hCadence c.m && (CoreId.mk (c.b (o + 2) 1) (c.b (o + 3) 1) (c.b (o + 4) 1)).valid && c.b (o + 5) 1 < 4 && c.zero (o + 12) 4 &&
    c.b (o + 6) 2 < escLayers c.s c.m && (i == 0 || decide (escKey c.s c.m (i - 1) < escKey c.s c.m i))

def step14 (c : LoadCtx) : Option LoadFail :=
  let n := escCount c.s c.m
  sigFail 0x0C ((need (c.len 0xA == 0 || decide (4 + 16 * n ≤ c.len 0xA)) 0).or (firstFail ((List.range n).map fun i => need (escGood c i) i)))

/-! ### Step 15: latencies (R180, R181) -/

def step15 (c : LoadCtx) : Option LoadFail :=
  ((firstFail ((List.range 15).map fun k =>
      let n := Config.nativeLatency.getD k 0
      need (n ≤ latTable c.s c.m k && latTable c.s c.m k - n ≤ 7) k)).or
    (firstFail ((List.range 16).map fun k => need (latTable c.s c.m (15 + k) == 0) (15 + k)))).map fun d => (0x42, 0, d)

/-- Steps that a standby load skips (R206, R215). -/
def standbySkips (c : LoadCtx) : Option LoadFail := firstFail [step7 c, sigFail 0x06 (need (directoryFits c) 0), step10 c, step11 c, step13 c]

/-- Steps 1 to 15. -/
def loadChecks (c : LoadCtx) : Option LoadFail :=
  let st := c.slot == 2
  (step1 c).or ((step2 c).or ((step3 c).or ((step4 c).or ((step5 c).or ((step6 c).or ((if st then none else step7 c).or ((step8 c).or ((step9 c).or
    ((if st then none else step10 c).or ((if st then none else step11 c).or ((step12 c).or ((if st then none else step13 c).or
      ((step14 c).or (step15 c))))))))))))))

/-! ### Step 16: the ledger (R357) -/

/-- Highest sum of two binaries' phase prices, in A(L). -/
def jointPeak (s : State) (a b : Model) : Nat :=
  ceilDiv (((List.range (s.hCadence a)).map fun p => phasePrice s a p + phasePrice s b p).foldl max 0) 10

/-- Stacks in which a binary declares a queue pair or an area range. -/
def usedStacks (s : State) (m : Model) : List Nat :=
  (List.range 24).filter fun n => ((hbmDecls s m).any fun d => d.1 < 0x180 && d.1 / 16 == n) || (areaRanges s m).any fun a => a.1 == n

/-- The binary's share beside the other's grant, in A(L). -/
def modelShare (c : LoadCtx) : Nat :=
  match c.other with
  | none => c.s.hPeak c.m
  | some o => jointPeak c.s c.m o - o.grant

end Sys2Proof.Machine
end

