-- ==== Sys2Proof/Machine/Beat.lean ====
section
/-! DEFINITION. Beat samples, slips, edges, segment starts and hold requests (R37 to R39, R48, R103, R139, R140, R190, R191, R195, R365). -/

namespace Sys2Proof.Machine

/-! ### Rings of shared memory (R48) -/

/-- Producer and consumer index of ring k, from copy A. -/
def ringProd (s : State) (k : Nat) : Nat := Mem.nat s.sm (0x500000 + 16 * k) 4
def ringCons (s : State) (k : Nat) : Nat := Mem.nat s.sm (0x500004 + 16 * k) 4
/-- Records between the two indexes. -/
def ringUsed (s : State) (k : Nat) : Nat := (ringProd s k + 2 ^ 32 - ringCons s k) % 2 ^ 32
/-- Writes an index into both copies. -/
def setRingProd (k v : Nat) : Prog := .ups [.sm (0x500000 + 16 * k) (leBytes 4 v), .sm (0x508000 + 16 * k) (leBytes 4 v)]
def setRingCons (k v : Nat) : Prog := .ups [.sm (0x500004 + 16 * k) (leBytes 4 v), .sm (0x508004 + 16 * k) (leBytes 4 v)]

/-- The address of copy A of byte o of a structure whose two copies are interleaved in blocks of 32 KiB; copy B lies 32 KiB after it. -/
def interleaved (base o : Nat) : Nat := base + o / 0x8000 * 0x10000 + o % 0x8000

/-- Writes bytes to both copies. -/
def writeBoth (a : Nat) (bs : List Byte) : Prog := .ups [.sm a bs, .sm (a + 0x8000) bs]

def escalationRing : Nat := 0x400000

/-- The 16 bytes of an escalation record. -/
def escalationBytes (beat taken key tile : Nat) : List Byte := leBytes 8 beat ++ leBytes 4 taken ++ locBytes key ++ leBytes 1 tile

/-- Appends one record to the escalation ring (R48). -/
def pushRecord (bs : List Byte) : Prog :=
  .get fun s => (writeBoth (interleaved escalationRing (16 * (ringProd s 2 % 32768))) bs).andThen (setRingProd 2 (ringProd s 2 + 1))

/-- A report becomes a record of member 0's ring; another member sends it there as a firmware message (R140, R278). -/
def pushEscalation (beat taken key tile : Nat) : Prog :=
  .get fun s => if s.inGroup && s.groupMember != 0 then sendFirmware 0 4 [field (escalationBytes beat taken key tile) 0 16]
    else pushRecord (escalationBytes beat taken key tile)

/-! ### On track (R38, R103) -/

/-- A core that has not finished its segment; one that overruns, for word 0 of a figure belongs to none. -/
def Core.unfinished (c : Core) : Bool := c.run == .issuing && c.left > 0
def Core.overruns (c : Core) : Bool := c.unfinished && c.pc != 0

def fieldCores (s : State) (f : Nat) : List (Nat × Core) := s.cores.filter fun kc => kc.1 / 1024 == f

/-- ON_TRACK of a logical field 150 ns before an edge, at its present step. -/
def onTrack (s : State) (f : Nat) : Bool :=
  (fieldCores s f).all fun kc => kc.2.remaining * 1000 ≤ 150 * stepMhz (s.fieldStep (s.physField f))

def liveFields (s : State) : List Nat := (List.range 80).filter s.fieldLive

/-! ### Slips (R190, R191) -/

/-- Ends a run of slips: one BEAT_SLIP entry covers it. -/
def endSlipRun : Prog :=
  .get fun s => match s.beat.slips with
    | none => .done
    | some r => .seq [.one (.beat { s.beat with slips := none }),
        mlog 2 0x30 2 (leBytes 1 r.field ++ leBytes 1 r.step ++ leBytes 1 r.fields ++ leBytes 8 r.first ++ leBytes 4 r.beats)]

/-- One edge withheld as a slip, with the lowest field off track, its step and how many of this wafer's fields were off track.  DESIGN CHOICE (log 178): where the step or the number of fields changes during a run, its entry gives those of the run's first withheld edge. -/
def slipAt (edge field step fields : Nat) : Prog :=
  .get fun s₀ =>
    let go : Prog := .get fun s =>
      let r : SlipRun := match s.beat.slips with
        | some r => { r with beats := r.beats + 1 }
        | none => ⟨field, step, fields, edge, 1⟩
      .one (.beat { s.beat with slips := some r })
    .seq [addReg 0x3041 0 1,
      setReg 0x3046 0 (field * 2 ^ 57 + step * 2 ^ 54 + fields * 2 ^ 47 + edge % 2 ^ 31),
      match s₀.beat.slips with
      | some r => if r.field = field then go else endSlipRun.andThen go
      | none => go]

/-! ### The sample before an edge -/

/-- Reports that wait at the field hubs (R140). -/
def waitingReports (s : State) : List (Nat × Nat) :=
  s.cores.flatMap fun kc => (List.range 4).filterMap fun q => if bit kc.2.reports q then some (kc.1, q) else none

/-- The escalation ring takes every report that waits, those of other members that wait on member 0 among them (R48, R278). -/
def reportsFit (s : State) : Bool := ringUsed s 2 + s.group.records.length + (waitingReports s).length ≤ 32768

/-- Records of other members go into member 0's ring as long as it has room; the rest wait, for none is dropped (R48, R278). -/
def pushMembers : Nat → Prog
  | 0 => .done
  | n + 1 => .get fun s => match s.group.records with
    | [] => .done
    | r :: rest => .when (ringUsed s 2 < 32768) (.seq [pushRecord r, setGroup fun g => { g with records := rest }, pushMembers n])

/-- The hubs send their reports, as records of the segment that ran, or of the one before where a core reported after its edge; while the ring cannot take them all the bits stay in the hubs (R48, R140).  DEDUCED (log 177): a core that overran by more than one edge counts as one edge late. -/
def sendReports : Prog :=
  .get fun s =>
    let taken (key : Nat) : Nat := match s.fieldSlot (key / 1024) with | some i => AMap.get 0 s.beat.taken i | none => 0
    let late (r : Nat × Nat) : Nat := AMap.get 0 (s.core r.1).lateReports r.2
    .when (reportsFit s) (.seq [pushMembers s.group.records.length,
      .each (waitingReports s) fun r => if late r = 0 then pushEscalation s.beat.last (taken r.1) r.1 r.2 else pushEscalation (late r - 1) (taken r.1 - 1) r.1 r.2,
      .get fun s => .ups ((s.cores.filter fun kc => kc.2.reports != 0).map fun kc => .core kc.1 { kc.2 with reports := 0, lateReports := [] })])

def edgeTime (s : State) (edge : Nat) : Nat := s.epoch + edge * s.period

/-- An edge withheld while a hold is in force. -/
def holdBeat (edge : Nat) : Prog := endSlipRun.andThen (countHold edge)

/-- The slip of an edge with these physical fields off track, lowest first; with none it is the escalation ring's (R48, R190).  What it changes is marked until the edge is past. -/
def countSlip (edge : Nat) (off : List Nat) : Prog :=
  .get fun s =>
    let low := off.headD 126
    .seq [.one (.beat { s.beat with slipMark := some ⟨edge, s.reg 0x3041, s.reg 0x3046, off.map fun q => (q, s.reg 0x3044 (q + 1)),
        s.beat.slips.filter fun r => r.field == low⟩ }),
      .each off fun q => (addRegSat 0x3044 (q + 1) 1).andThen (hubEvent q 0x03 1),
      slipAt edge low (if off.isEmpty then 0 else s.fieldStep low) off.length]

/-- The slip of a sample that this wafer does not take: the live fields off track, or the escalation ring that cannot take the reports (R190). -/
def ownSlip (d : Sampled) : Prog :=
  .get fun s => .when (!d.take) (countSlip d.edge ((List.range 88).filter fun p => ((liveFields s).map s.physField).contains p && !d.onTrack.contains p))

/-- What the root finds for edge E: the fields on track, and whether the escalation ring has room (R38, R48). -/
def rootVerdict (s : State) (edge : Nat) : Sampled :=
  let live := liveFields s
  let on := live.filter (onTrack s)
  ⟨edge, on.length == live.length && reportsFit s, on.map s.physField⟩

/-- ON_TRACK_SAMPLE: the verdict on candidate edge E, 150 ns before it; in a group the joint decision counts its slip (R38, R39, R48, R190, R274). -/
def sampleProg (edge : Nat) : Prog :=
  .get fun s =>
    if edge ≤ s.beat.decided then .done
    else .seq [.one (.time (edgeTime s edge - 150)),
      .one (.beat { s.beat with decided := edge, group := Option.none, slipMark := Option.none, word := (edge, (rootVerdict s edge).take, holdInForce s) }),
      match s.beat.hold with
      | .requested => holdBeat edge
      | .complete => holdBeat edge
      | .released r => .when (edge < r) (holdBeat edge)
      | .none => .get fun s =>
        let d := rootVerdict s edge
        .seq [.when (!s.inGroup) (ownSlip d), .get fun s => .one (.beat { s.beat with sampled := some d })]]

def execOnTrackSample (edge : Nat) (s : State) : Host.Outcome State Fault Refusal := (sampleProg edge).run s

/-! ### Segment starts (R103, R195, R423, R425, R427) -/

/-- A counter set at cycle 0 of a segment, the last one having had so many cycles: a selection that waits takes effect, cycle 0 and its event count, then a latch that is due is made (R423 to R425). -/
def PerfSet.atSegment (p : PerfSet) (time edge cycles event : Nat) : PerfSet :=
  let ended := p.toCycle cycles
  let q₀ := match p.next with
    | some sel => { ended with sel := sel.zipIdx.filterMap (fun (w : Nat × Nat) => if w.1 = 0 then none else some (w.2, w.1)), ctr := [], sticky := 0, next := none, upTo := 0 }
    | none => { ended with upTo := ended.upTo - cycles }
  let q₁ := q₀.toCycle 1
  let q := if event = 0 then q₁ else q₁.count event 1
  match q.wait with
  | some b => if b ≤ edge then q.latchNow time edge else q
  | none => q

/-- The word after a BEAT, which reached issue position when the BEAT had closed, is held to the edge (R103, R430). -/
def Core.beatHeld (c : Core) (key edge cycles : Nat) : Core :=
  let n := cycles - c.cycle
  let c₁ := (((c.countWait n).reach (CoreId.ofKey key)).tagHeld 16).advanceCycles n
  { c₁ with run := .issuing, left := c.next, seg := edge, cycle := 0, heldCnt := 0 }

/-- A core at an edge its field takes, so many cycles after the last: it starts its next segment, or owes one when it still runs the last (R38, R103); the counters of a held core count up to the edge.  `wait` is how long its word has been held. -/
def Core.takeEdge (c : Core) (key time edge figureRead cycles wait : Nat) : Core :=
  let c₁ := if c.run == .waitEdge then c.beatHeld key edge cycles else if c.held.isSome then c.countWait wait else c
  let c₂ := { c₁ with perf := c₁.perf.atSegment time edge cycles 0, figureRead := decide (figureRead = 1) }
  if c.unfinished then { c₂ with owes := true, owedSeg := edge, owedCyc := c.owedCyc + cycles }
  else { c₂ with tagAt := c₂.tagAt.map (· - cycles) }

/-- The set point of a field after an edge: M1 lowers it a beat after a slower step took effect (R355). -/
def lowerSetPoint (s : State) (kv : Nat × Nat) : Nat × Nat :=
  if kv.1 < 88 && s.running 1 && AMap.get 0 s.thermal.stepReq kv.1 = 0 && (AMap.get none s.thermal.raises kv.1).isNone then (kv.1, s.fieldVset kv.1 (s.fieldStep kv.1)) else kv

/-- The written steps take effect, and the set points of slower fields follow a beat later (R195, R355). -/
def applySteps : Prog :=
  .get fun s =>
    .seq [.ups (s.thermal.stepReq.map fun kv => .reg (regKey 0x3005 (kv.1 + 1)) (kv.2 - 1)),
      .one (.thermal { s.thermal with stepReq := [], setPoint := s.thermal.setPoint.map (lowerSetPoint s) })]

/-- One beat of an overdraw: the field with the highest feed current that can still slow down drops one step (R359). -/
def overdrawBeat : Prog :=
  .get fun s =>
    .when (s.power.overdraw && s.running 1) (.get fun s =>
      let feed (p : Nat) : Nat := s.power.domainMa.getD p 0 + s.power.domainMa.getD (88 + p) 0
      let cand := (List.range 88).filter fun p => s.effective p < 6 && s.domain p == domOn
      match cand with
      | [] => .done
      | p :: ps =>
        let best := ps.foldl (fun b q => if feed q > feed b then q else b) p
        setLimit best srcOverdraw (s.effective best + 1))

/-- What every taken edge does at the fields: overruns, step changes, segment starts and the reports of the hubs.  A run of slips goes on over edges taken between withheld ones, as the spec's timelines have it (R191), and ends at a taken edge with none withheld before it.  DESIGN CHOICE (log 179): where several fields overrun at one edge, the entry names the lowest-numbered and its step. -/
def takeEdgeProg (edge : Nat) (on : List Nat) : Prog :=
  .get fun s =>
    let cycles (p : Nat) : Nat := s.edgeCycles p edge
    let late := (liveFields s).filter fun f => on.contains (s.physField f) && (fieldCores s f).any fun kc => kc.2.overruns
    .seq [.when (edge = s.beat.last + 1) endSlipRun, sendReports,
      addReg 0x3040 0 1,
      .each late fun f => addRegSat 0x3045 (s.physField f + 1) 1,
      .when (!late.isEmpty) (.seq [addReg 0x3042 0 1,
        let low : Nat := (late.map s.physField).foldl min 127
        mlog 2 0x31 2 (leBytes 1 low ++ leBytes 1 (s.fieldStep low) ++ leBytes 1 late.length ++ leBytes 8 edge ++ leBytes 4 1)]),
      applySteps,
      overdrawBeat,
      .get fun s => .ups (s.hubs.map fun kv =>
        let live : Bool := ((liveFields s).map s.physField).contains kv.1 && !AMap.get false s.repair.dark kv.1
        .hub kv.1 (kv.2.atSegment s.waferTime edge (if live then cycles kv.1 else 0) (if live then 2 else 0))),
      .get fun s => .ups ((s.cores.filter fun kc => s.fieldLive (kc.1 / 1024)).map fun kc =>
        .core kc.1 (kc.2.takeEdge kc.1 s.waferTime edge (s.reg 0x6007) (cycles (s.physField (kc.1 / 1024))) (s.heldCycles kc.1 kc.2))),
      .get fun s => .when (!(AMap.get [] s.cmds 0x6004).isEmpty && !s.cores.any (fun kc => kc.2.perf.wait.isSome) &&
        !s.hubs.any fun kv => kv.2.wait.isSome) (finishCmd 0x6004 0)]

/-- Counts one more taken beat of each running choreography; its start beat is taken beat 0 (R139). -/
def countTaken (edge : Nat) : Prog :=
  .get fun s => .one (.beat { s.beat with taken := [0, 1].foldl (fun m i =>
    if (s.model i).running && (s.model i).startBeat < edge then AMap.put 0 m i (AMap.get 0 m i + 1) else m) s.beat.taken })

/-- A field whose clock count differs by more than one cycle is lost (R365, R393). -/
def clockFault (p : Nat) (diff : Int) : Prog :=
  .when (diff.natAbs > 1 && p < 88) ((appendLog 0x31 0x4F 4 (leBytes 1 p ++ leBytes 4 (twos 32 diff))).andThen (loseField p false))

/-- The edge is sent, and what depends on it happens (R37). -/
def sendEdge (edge : Nat) (d : Sampled) (cycleErr : List (Nat × Int)) : Prog :=
  .seq [takeEdgeProg edge d.onTrack, countTaken edge,
    .get fun s => .one (.beat { s.beat with last := edge, sampled := none, group := Option.none }),
    .each cycleErr fun e => clockFault e.1 e.2]

/-- The root withholds an edge that it had let through, for the reports do not fit any more (R48).  DESIGN CHOICE (log 180): in a group, where the other members take the edge, a hold brings them together again, as when a sync word is missing (R275). -/
def withholdReports (edge : Nat) : Prog :=
  .seq [countSlip edge [], .get fun s => .one (.beat { s.beat with sampled := none, word := if s.inGroup then (s.beat.word.1, s.beat.word.2.1, true) else s.beat.word }),
    .get fun s => .when s.inGroup (holdGroup 0x12)]

/-- BEAT_EDGE: an edge that the sample, and in a group the joint decision, has let through (R37, R38, R274).  The root looks at the escalation ring again and withholds an edge whose reports do not fit any more (R48). -/
def execBeatEdge (edge : Nat) (cycleErr : List (Nat × Int)) (s : State) : Host.Outcome State Fault Refusal :=
  (Prog.get fun s =>
    match s.beat.sampled with
    | some d =>
      .when (d.edge == edge && d.take && (if s.inGroup then (s.beat.hold == .none || s.beat.hold == .requested) && s.beat.group == some (edge, true)
          else s.beat.hold == .none))
        ((Prog.one (.time (edgeTime s edge))).andThen (
          if reportsFit s then sendEdge edge d cycleErr else withholdReports edge))
    | none => .done).run s

/-- HOLD_REQUEST: the marionette complex requests a wafer hold (R39, R407). -/
def execHoldRequest (s : State) : Host.Outcome State Fault Refusal := (requestHold 0x12).run s

end Sys2Proof.Machine
end

