-- ==== Sys2Proof/Machine/Sessions.lean ====
section
/-! DEFINITION. COL and CSP sessions, their paths and windows, and ownership (R286 to R297). -/

namespace Sys2Proof.Machine

/-! ### What a session receives (R288 to R290) -/

/-- Serial-number arithmetic (R290): seq is at or before ack. -/
def serialLe (seq ack : Nat) : Bool := (ack + 2 ^ 32 - seq % 2 ^ 32) % 2 ^ 32 < 2 ^ 31

/-- The port is up. -/
def State.portUp (s : State) (e : Nat) : Bool := s.portLink e != 0

/-- The serving side of a protocol: COL is served by M4, CSP by the Ethernet engines (R291); COL from the end of step 3 of a start, CSP when the start has completed (R384, R387). -/
def State.served (s : State) (csp : Bool) : Bool := if csp then s.reg 0x4002 == 0xFF else s.running 4 && decide (4 ≤ s.reg 0x4002)

/-- An event that asks for a new key, once a transmit association has reached 0xC000_0000 (R285). -/
def openSak : Nat := 6

/-- The key events that sends have made due. -/
def sakEvents : Prog :=
  .get fun s => .each (s.ports.sakDue.map (·.1)) fun e =>
    (Prog.get fun s => .one (.ports { s.ports with sakDue := AMap.put false s.ports.sakDue e false })).andThen (appendOpen 5 openSak (some (leBytes 1 e)))

/-- A frame comes in on a port that is up; with MACsec on and no receive association it fails, and is dropped and counted (R285). -/
def arriving (e : Nat) (p : Prog) : Prog :=
  if e > 1 then .fault (.noSuchUnit e)
  else .get fun s =>
    if !s.portUp e then .done
    else if s.reg 0x1410 (e + 1) != 0 && !(List.range 2).any fun an => (AMap.get MacAssoc.none s.ports.assoc (4 * e + 2 + an)).valid then addReg 0x1420 (e + 1) 1
    else p.andThen sakEvents

/-- A valid datagram of a session: its path is taken or replaced and becomes the present one (R289, R291), and the messages it acknowledges leave the window (R290). -/
def touchSession (csp : Bool) (i : Nat) (path : Path) (ack : Nat) (onAck : List SentMsg → Prog) : Prog :=
  .get fun s =>
    let x := s.session csp i
    .seq [setSession csp i { x with paths := AMap.put none x.paths path.port (some (path.addr, path.udp)), cur := path.port,
                                    lastRx := s.now, inflight := x.inflight.filter fun m => !serialLe m.seq ack },
      onAck (x.inflight.filter fun m => serialLe m.seq ack), pumpBacklog csp i 256]

/-- Sends a message of the window again, with its flags and RETX set. -/
def resend (csp : Bool) (i : Nat) (m : SentMsg) : Prog :=
  .get fun s => .one (datagram csp i (s.session csp i) m.typ (m.flags ||| 1) m.seq m.payload)

/-- A retransmission: the message goes out again, and its timeout starts anew (R290). -/
def retransmit (csp : Bool) (i : Nat) (m : SentMsg) : Prog :=
  .seq [resend csp i m, .get fun s =>
    let x := s.session csp i
    setSession csp i { x with inflight := x.inflight.map fun y =>
      if y.seq == m.seq then { y with retx := y.retx + 1, onPath := y.onPath + 1, sent := s.now } else y }]

/-- A response that was stored for a request goes out again (R290). -/
def resendStored (i seq : Nat) : Prog :=
  .get fun s => match (s.session false i).responses.find? fun r => r.1 == seq with
    | some (_, w, p) => .one (datagram false i (s.session false i) (w / 2 ^ 40) (w / 2 ^ 32 % 256 ||| 1) (w % 2 ^ 32) p)
    | none => .done

/-- The message next in order is accepted; any other is discarded and answered with an ACK, a duplicate COL request also with its stored response (R290). -/
def inOrder (csp : Bool) (i seq : Nat) (body : Nat → Prog) : Prog :=
  .get fun s =>
    let x := s.session csp i
    if seq = (x.rxSeq + 1) % 2 ^ 32 then
      (setSession csp i { x with rxSeq := seq, ackDue := x.ackDue.or (some (s.now + 200000)) }).andThen (body i)
    else (sendPlain csp i 4 []).andThen (.when (!csp && serialLe seq x.rxSeq) (resendStored i seq))

/-- A datagram of a session arrives; one that names no session of the device is dropped. -/
def receive (csp : Bool) (rx : Rx) (sequenced : Bool) (onAck : Nat → List SentMsg → Prog) (body : Nat → Prog) : Prog :=
  arriving rx.path.port (.get fun s =>
    if !s.served csp then .done
    else match (if csp then s.cspSid rx.sid else s.colSid rx.sid) with
      | none => .done
      | some i =>
        (touchSession csp i rx.path rx.ack (onAck i)).andThen (if sequenced then inOrder csp i rx.seq body else .done))

/-- A COL datagram: an acknowledgement has no further effect there. -/
def receiveCol (rx : Rx) (sequenced : Bool) (body : Nat → Prog) : Prog := receive false rx sequenced (fun _ _ => .done) body

/-- Answers a COL request, and keeps the response for a duplicate of it. -/
def respond (i reqSeq typ flags : Nat) (payload : List Byte) : Prog :=
  .get fun s =>
    let x := s.session false i
    let w := typ * 2 ^ 40 + flags * 2 ^ 32 + (x.txSeq + 1 + x.backlog.length) % 2 ^ 32
    (setSession false i { x with responses := ((reqSeq, w, payload) :: x.responses).take 256 }).andThen (sendMsg false i typ flags payload)

/-! ### Opening a session (R288, R297) -/

def deviceFeatures : Nat := 0x1FF
def sessionsMax (csp : Bool) : Nat := if csp then 1024 else 16

/-- Counts the live sessions of both protocols (SESSIONS_OPEN). -/
def countSessions : Prog :=
  .get fun s => .ups [.reg (regKey 0x1421 1) ((List.range 16).countP fun i => (s.session false i).live),
    .reg (regKey 0x1421 2) ((List.range 1024).countP fun i => (s.session true i).live)]

/-- An OPEN_OK: version, device features, negotiated features. -/
def openOk (features : Nat) : List Byte := leBytes 2 0x0100 ++ leBytes 8 deviceFeatures ++ leBytes 8 features

/-- A session whose OPEN_OK has not been acknowledged, opened from the same path: a repeated OPEN is a duplicate. -/
def reopened (s : State) (csp : Bool) (path : Path) : Option Nat :=
  (List.range (sessionsMax csp)).find? fun i =>
    let x := s.session csp i
    x.usable && x.rxSeq == 1 && AMap.get none x.paths path.port == some (path.addr, path.udp) &&
      (match x.inflight with
        | m :: _ => m.seq == 1
        | [] => false)

/-- OPEN: a session at the lowest free index, its first path the one that OPEN came on; OPEN is the client's message 1. -/
def openSession (csp : Bool) (path : Path) (version features level : Nat) : Prog :=
  arriving path.port (.get fun s =>
    let refuse (reason : Nat) : Prog := .one (.sent ⟨path.port, path.addr, path.udp, protoOf csp, 5, 0, 0, 0, 0, leBytes 1 reason⟩)
    if !s.served csp then .done
    else match reopened s csp path with
      | some i =>
        (match (s.session csp i).inflight with
          | m :: _ => resend csp i m
          | [] => .done)
      | none =>
        if version / 256 != 1 then refuse 1
        else match (List.range (sessionsMax csp)).find? fun i => !(s.session csp i).live with
          | none => refuse 2
          | some i =>
            let g := (s.session csp i).gen % 65535 + 1
            .seq [setSession csp i { Session.closed with
                    live := true, gen := g, features := features &&& deviceFeatures, level := level,
                    paths := [(path.port, some (path.addr, path.udp))], cur := path.port, lastRx := s.now, rxSeq := 1 },
              countSessions, sendMsg csp i 2 0 (openOk (features &&& deviceFeatures))])

def execColOpen (path : Path) (version : BitVec 16) (features : BitVec 64) (level : Nat) (s : State) : Host.Outcome State Fault Refusal :=
  (openSession false path version.toNat features.toNat level).run s
def execCspOpen (path : Path) (version : BitVec 16) (features : BitVec 64) (s : State) : Host.Outcome State Fault Refusal :=
  (openSession true path version.toNat features.toNat 0).run s

/-! ### Ownership (R295, R296) -/

/-- EVENT of kind 2 to every session. -/
def ownershipEvent (sid cause : Nat) : Prog :=
  .each (List.range 16) fun i => sendMsg false i 0x30 0 (2 :: (leBytes 4 sid ++ leBytes 1 cause))

def leaseNs : Nat := 2000000000

/-- The owner becomes sid (0: none), its claim is used up, and the change is counted and told. -/
def giveOwner (sid rank cause : Nat) : Prog :=
  .get fun s =>
    let cl := s.owner.claims.filter fun c => c.1 != sid
    .seq [.one (.owner ⟨sid, rank, if sid = 0 then 0 else s.now + leaseNs, cl⟩),
      setReg 0x1200 0 sid, setReg 0x1201 0 rank, setReg 0x1203 0 cl.length, addReg 0x1204 0 1, ownershipEvent sid cause]

/-- The pending claim of lowest rank, the earliest of equals. -/
def bestClaim : List (Nat × Nat) → Option (Nat × Nat)
  | [] => none
  | c :: cs => match bestClaim cs with
    | some d => if d.2 < c.2 then some d else some c
    | none => some c

/-- Ownership becomes free: it passes to the best pending claim. -/
def freeOwner (cause : Nat) : Prog :=
  .get fun s => match bestClaim s.owner.claims with
    | some c => giveOwner c.1 c.2 cause
    | none => giveOwner 0 0xFF cause

/-- Drops the pending claim of a session. -/
def dropClaim (sid : Nat) : Prog :=
  .get fun s =>
    let cl := s.owner.claims.filter fun c => c.1 != sid
    (Prog.one (.owner { s.owner with claims := cl })).andThen (setReg 0x1203 0 cl.length)

def claimReply (i reqSeq result place : Nat) : Prog := respond i reqSeq 0x21 0 [BitVec.ofNat 8 result, BitVec.ofNat 8 place]

/-- CLAIM: granted at once when there is no owner, else pending; the owner's own claim replaces its rank. -/
def execClaim (rx : Rx) (rank : Nat) (s : State) : Host.Outcome State Fault Refusal :=
  (receiveCol rx true fun i => .get fun s =>
    if rank > 254 then .done
    else if s.owner.sid = 0 then (giveOwner rx.sid rank 0).andThen (claimReply i rx.seq 0 0)
    else if s.owner.sid = rx.sid then .seq [.one (.owner { s.owner with rank := rank }), setReg 0x1201 0 rank, claimReply i rx.seq 0 0]
    else .seq [dropClaim rx.sid, .get fun s =>
      let cl := s.owner.claims ++ [(rx.sid, rank)]
      .seq [.one (.owner { s.owner with claims := cl }), setReg 0x1203 0 cl.length,
        claimReply i rx.seq 1 (cl.countP fun c => c.2 ≤ rank)]]).run s

/-- HEARTBEAT: renews the owner's lease while it has not run out. -/
def execHeartbeat (rx : Rx) (s : State) : Host.Outcome State Fault Refusal :=
  (receiveCol rx true fun _ => .get fun s =>
    .when (s.owns rx.sid && s.now ≤ s.owner.leaseEnd) (.one (.owner { s.owner with leaseEnd := s.now + leaseNs }))).run s

/-- One entry of a RESPONSE (R292). -/
def respEntry (idx sub : Nat) (a : Answer) (total : Nat) (value : List Byte) : List Byte :=
  leBytes 2 idx ++ leBytes 1 sub ++ leBytes 1 a.status ++ leBytes 1 a.access ++ leBytes 1 0 ++ leBytes 2 value.length ++
    leBytes 4 total ++ value ++ List.replicate ((4 - value.length % 4) % 4) 0

/-- A RESPONSE. -/
def respBody (tag count : Nat) (entries : List Byte) : List Byte := leBytes 4 tag ++ leBytes 1 count ++ leBytes 3 0 ++ entries

/-- HANDOVER by the owner: a session with a pending claim becomes owner; any other target is refused with ACCESS 3. -/
def execHandover (rx : Rx) (target : Sid) (s : State) : Host.Outcome State Fault Refusal :=
  (receiveCol rx true fun i => .get fun s =>
    let answer (a : Answer) : Prog := respond i rx.seq 0x12 0 (respBody 0 1 (respEntry 0x1200 0 a 0 []))
    if !s.owns rx.sid then answer .notOwner
    else match s.owner.claims.find? fun c => c.1 == target with
      | some c => (giveOwner target c.2 1).andThen (answer .ok)
      | none => answer (.refuse 3)).run s

/-- RELEASE by the owner. -/
def execRelease (rx : Rx) (s : State) : Host.Outcome State Fault Refusal :=
  (receiveCol rx true fun _ => .get fun s => .when (s.owns rx.sid) (freeOwner 2)).run s

/-- UNCLAIM: a pending claim is withdrawn; the owner's frees ownership. -/
def execUnclaim (rx : Rx) (s : State) : Host.Outcome State Fault Refusal :=
  (receiveCol rx true fun i => .get fun s =>
    .seq [if s.owns rx.sid then freeOwner 2 else dropClaim rx.sid, claimReply i rx.seq 2 0]).run s

/-- LEASE_EXPIRY: M4 finds the lease at its end. -/
def execLeaseExpiry (s : State) : Host.Outcome State Fault Refusal :=
  (Prog.get fun s => .when (s.running 4 && s.owner.sid != 0) (.seq [.one (.time s.owner.leaseEnd), freeOwner 3, sakEvents])).run s

/-! ### Ending a COL session -/

/-- A COL session ends or is lost: its claim ends, and ownership it held becomes free (R295). -/
def endCol (i : Nat) : Prog :=
  .get fun s =>
    let x := s.session false i
    let sid := x.sid i
    .seq [setSession false i { Session.closed with gen := x.gen }, countSessions, dropClaim sid,
      .when (s.owner.sid == sid && sid != 0) (freeOwner 4)]

def execColClose (rx : Rx) (s : State) : Host.Outcome State Fault Refusal := (receiveCol rx true endCol).run s
def execColAck (rx : Rx) (s : State) : Host.Outcome State Fault Refusal := (receiveCol rx false fun _ => .done).run s

/-! ### Timers (R290, R291) -/

/-- Moves a session to its other path, counted. -/
def switchPath (csp : Bool) (i e : Nat) : Prog :=
  .get fun s =>
    let x := s.session csp i
    (setSession csp i { x with cur := e, inflight := x.inflight.map fun m => { m with onPath := 0 } }).andThen (addReg 0x1422 0 1)

/-- The other port, where the session has a path there and the port is up. -/
def otherPath (s : State) (x : Session) : Option Nat :=
  if (AMap.get none x.paths (1 - x.cur)).isSome && s.portUp (1 - x.cur) then some (1 - x.cur) else none

/-- The retransmission timeout of a message in ns. -/
def rtoNs (retx : Nat) : Nat := min (2000000 * 2 ^ retx) 64000000

/-- RETRANSMIT_TIMEOUT: the message goes out again with RETX; after two retransmissions on one path the session takes its other path. -/
def execRetransmitTimeout (csp : Bool) (sid : Sid) (seq : Nat) (s : State) : Host.Outcome State Fault Refusal :=
  (Prog.get fun s =>
    match (if csp then s.cspSid sid else s.colSid sid) with
    | none => .done
    | some i =>
      match (s.session csp i).inflight.find? fun m => m.seq == seq with
      | none => .done
      | some m => .when (s.served csp) (.seq [.one (.time (m.sent + rtoNs m.retx)), retransmit csp i m,
          .get fun s => .when (m.onPath + 1 ≥ 2) (match otherPath s (s.session csp i) with
            | some e => switchPath csp i e
            | none => .done), sakEvents])).run s

/-- ACK_TIMER: 200 us after a message was accepted with nothing sent since, an ACK goes out. -/
def execAckTimer (csp : Bool) (sid : Sid) (s : State) : Host.Outcome State Fault Refusal :=
  (Prog.get fun s =>
    match (if csp then s.cspSid sid else s.colSid sid) with
    | none => .done
    | some i =>
      match (s.session csp i).ackDue with
      | none => .done
      | some t => .when (s.served csp) (.seq [.one (.time t), sendPlain csp i 4 [], sakEvents])).run s

end Sys2Proof.Machine
end

