-- ==== Sys2Proof/Machine/SharedMem.lean ====
section
/-! DEFINITION. The control network and the service crossbar (R35, R36, R43 to R49, R72). -/

namespace Sys2Proof.Machine

/-! ### The control network -/

/-- The wafer is held: a hold is complete, or released and not yet resumed (R36, R39). -/
def State.heldNow (s : State) : Bool :=
  match s.beat.hold with
  | .complete => true
  | .released _ => true
  | _ => false

/-- A core runs a figure. -/
def Core.runs (c : Core) : Bool := c.held.isSome || c.run == .issuing || c.run == .waitEdge

/-- A logical field runs a figure (R36). -/
def State.fieldRuns (s : State) (f : Nat) : Bool := !s.heldNow && s.cores.any fun kc => kc.1 / 1024 == f && kc.2.runs

/-- Replaces 32-bit part p of a wide register. -/
def setPart (w p v : Nat) : Nat := setBits w (32 * p + 31) (32 * p) v
def getPart (w p : Nat) : Nat := bits w (32 * p + 31) (32 * p)

/-- A register of R36 that is protected while the field runs. -/
def ctlGuarded : CtlReg → Bool
  | .windowData => true
  | .figureStore _ _ => true
  | .handle _ _ => true
  | .reduction _ _ => true
  | .exitTable _ _ => true
  | .pins _ => true
  | _ => false

/-- The register exists: its numbers are in range. -/
def ctlExists : CtlReg → Bool
  | .figureStore w p => w < 6144 && p < 4
  | .handle i p => i < 64 && p < 4
  | .reduction r p => r < 16 && p < 2
  | .exitTable e p => e < 1024 && p == 0
  | .pins p => p < 2
  | .counterLow k => k < 8
  | .counterHigh k => k < 8
  | _ => true

/-- The counters of a core up to the present cycle: CYCLES, and the HELD event of a wait that has not ended (R421, R425). -/
def State.countedCore (s : State) (key : Nat) : Core :=
  let c := s.core key
  let e := s.elapsed (s.physField (key / 1024))
  let c₁ := c.countWait (if c.run == .waitEdge then e - c.cycle else s.heldCycles key c)
  { c₁ with perf := c₁.perf.toCycle (e + 1) }

/-- A read of a register of a logical core: the core afterwards, and the value (none: an error response).  A counter's low half is read as it stands and latches its high half, counter by counter (R36).  DESIGN CHOICE: a window read of a row with an uncorrectable word answers the error and is neither counted in 0x4021 nor recorded in 0x4023.  DESIGN CHOICE (log 175): the spec does not say what a window access to a row at or beyond 51 200 does; a read, like a write, answers an error response and changes nothing. -/
def ctlRead (s : State) (key : Nat) (c : Core) : CtlReg → Core × Option Nat
  | .windowRow => (c, some c.winRow)
  | .windowOffset => (c, some c.winOff)
  | .windowData =>
    if c.winRow ≥ spadRows || c.rowBad c.winRow then (c, none)
    else (c.countRow c.winRow, some (getPart (s.unitRow key c c.winRow).toNat c.winOff))
  | .figureStore w p => (c, some (getPart (AMap.get 0 c.store w) p))
  | .handle i p => (c, some (getPart (c.handle i) p))
  | .reduction r p => (c, some (getPart (AMap.get 0 c.router r) p))
  | .exitTable e _ =>
    (c, some (match exitOf s (s.physField (key / 1024)) e with | some x => x.1 * 4 + x.2 | none => 0xFFFFFFFF))
  | .pins p => (c, some (getPart c.pins p))
  | .counterLow k =>
    let c := s.countedCore key
    ({ c with ctlHigh := AMap.put 0 c.ctlHigh k (AMap.get 0 c.perf.ctr k / 2 ^ 32) }, some (AMap.get 0 c.perf.ctr k % 2 ^ 32))
  | .counterHigh k => (c, some (AMap.get 0 c.ctlHigh k))
  | .eccCorrected => (c, some (c.corrected % 2 ^ 32))
  | .faultCode => (c, some c.faultCode)

/-- A write of a register of a logical core that is accepted.  A handle entry written over the network settles the guards (R67). -/
def ctlWrite (s : State) (key v : Nat) (c : Core) : CtlReg → Prog
  | .windowRow => setCore key { c with winRow := v % 65536 }
  | .windowOffset => setCore key { c with winOff := v % 16 }
  | .windowData => narrowWrite key c.winRow (BitVec.ofNat 512 (v * 2 ^ (32 * c.winOff))) (15 * 2 ^ (4 * c.winOff))
  | .figureStore w p => setCore key { c with store := AMap.put 0 c.store w (setPart (AMap.get 0 c.store w) p v) }
  | .handle i p => setCore key (Core.settleGuards { c with handles := AMap.put 0 c.handles i (setPart (c.handle i) p v) })
  | .reduction r p => setCore key { c with router := AMap.put 0 c.router r (setPart (AMap.get 0 c.router r) p v) }
  | .exitTable e _ => .one (.exit (s.physField (key / 1024) * 1024 + e) (v % 1024 + 1))
  | .pins p => setCore key { c with pins := setPart c.pins p v % 2 ^ 45 }
  | .counterLow _ => .done
  | .counterHigh _ => .done
  | .eccCorrected => setCore key { c with corrected := v }
  | .faultCode => setCore key { c with faultCode := v % 256 }

/-- A register that only counts: a write of it is answered with an error. -/
def ctlReadOnly : CtlReg → Bool
  | .counterLow _ => true
  | .counterHigh _ => true
  | _ => false

/-- The logical core at a physical position. -/
def coreAt (s : State) (pf prow pcol : Nat) : Option Nat :=
  (s.logicalField pf).bind fun f => (unmapCore s.repair f prow pcol).map fun rc => f * 1024 + rc.1 * 32 + rc.2

def answerCtl (m : Nat) (v : Option Nat) : Prog := .one (.ctlReply (some ⟨m, v.isNone, v.getD 0⟩))

/-- A write reaches one core, or is refused as R36 and R72 say.  DESIGN CHOICE (log 175): so is a window write of a row at or beyond 51 200, of which the spec is silent. -/
def ctlWriteOne (m key v : Nat) (reg : CtlReg) : Prog :=
  .get fun s =>
    if ctlReadOnly reg || (ctlGuarded reg && s.fieldRuns (key / 1024)) ||
        (reg == .windowData && (s.core key).winRow ≥ spadRows) then answerCtl m none
    else (ctlWrite s key v (s.core key) reg).andThen (answerCtl m (some 0))

/-- What the control network answers to one access.  An access with a parity error has no effect and is answered with an error (R35).  The spec names no register of the edge ring: a read of field 127 returns a free value, a write is answered and nothing that the spec names depends on it (DESIGN CHOICE). -/
def controlProg (m pf prow pcol : Nat) (reg : CtlReg) (op : CtlOp) : Prog :=
  if m > 5 then .fault (.noSuchUnit m)
  else if !(pf < 88 || pf = 127) then .fault (.noSuchUnit pf)
  else .get fun s =>
    if s.mcore m != 0 then .done
    else match op with
      | .parityError => answerCtl m none
      | .write v =>
        if pf = 127 then answerCtl m (some 0)
        else if !ctlExists reg then answerCtl m none
        else if prow = 31 && pcol = 31 then
          match s.logicalField pf with
          | none => answerCtl m (some 0)
          | some f => .each (List.range 576) fun i => ctlWriteOne m (f * 1024 + i / 24 * 32 + i % 24) v.toNat reg
        else if prow > 24 || pcol > 24 then answerCtl m none
        else match coreAt s pf prow pcol with
          | some key => ctlWriteOne m key v.toNat reg
          | none => answerCtl m (some 0)
      | .read =>
        if pf = 127 then drawFree fun v => answerCtl m (some (v % 2 ^ 32))
        else if !ctlExists reg || prow > 24 || pcol > 24 then answerCtl m none
        else match coreAt s pf prow pcol with
          | some key =>
            let r := ctlRead s key (s.core key) reg
            (setCore key r.1).andThen (answerCtl m r.2)
          | none => drawFree fun v => answerCtl m (some (v % 2 ^ 32))

/-- CONTROL_ACCESS: one 32-bit read or write.  A spare position holds no data: a write of it has no later effect, and what a read of it returns is open (R19). -/
def execControlAccess (m pf prow pcol : Nat) (reg : CtlReg) (op : CtlOp) (s : State) : Host.Outcome State Fault Refusal :=
  (controlProg m pf prow pcol reg op).run s

/-! ### The service crossbar -/

/-- An address in one of the request I/O rings: request ring, transmit ring, prompt pool, ring indexes (R45, R47). -/
def ringRegion (a : Nat) : Bool :=
  (0x500000 ≤ a && a < 0x510000) || (0x0EC00000 ≤ a && a < 0x0EF00000) || (0x0F500000 ≤ a && a < 0x10000000)

/-- The region permissions of R45; nobody but the appender writes the log ring, whose append slots are not addressed through this map (R318). -/
def mayReach (rq : Requester) (a : Nat) (write : Bool) : Bool :=
  match rq with
  | .rxDma _ => ringRegion a
  | .txDma _ => ringRegion a
  | _ => !(write && 0x0F000000 ≤ a && a < 0x0F400000)

/-- A good access: inside the 256 MiB, n bytes of one 64-byte row (R43). -/
def goodAccess (a n : Nat) : Bool := 8 ≤ n && n ≤ 64 && a % 64 + n ≤ 64 && a + n ≤ 0x10000000

def rqValid : Requester → Bool
  | .tumbler n => n < 24
  | .mcore n => n < 6
  | .rxDma e => e < 2
  | .txDma e => e < 2
  | .root => true

/-- The source number of a requester in a log entry (R318); a DMA engine has none and is logged by M0, which set its region. -/
def rqSrc : Requester → Nat
  | .tumbler n => 0x10 + n
  | .mcore n => n
  | .root => 0x30
  | _ => 0

def reply (rq : Requester) (error : Bool) (bytes : List Byte) : Prog := .one (.smReply (some ⟨rq, error, bytes⟩))

/-- The marked words of a run of bytes of shared memory. -/
def State.badWords (s : State) (a n : Nat) : List Nat := (s.smBad.filter fun kv => kv.2 && a < 8 * kv.1 + 8 && 8 * kv.1 < a + n).map (·.1)

/-- Every marked word of a run is logged with its address by a writer (R49); the words are written again or no longer used. -/
def logBadWords (src a n : Nat) : Prog :=
  .get fun s => .each (s.badWords a n) fun w => (Prog.one (.smBad w false)).andThen (appendOpen src openSmEcc (some (leBytes 4 (8 * w))))

/-- An access outside its region changes nothing, answers an error and is logged (R45). -/
def regionError (rq : Requester) (a : Nat) : Prog := (reply rq true []).andThen (appendOpen (rqSrc rq) openRegion (some (leBytes 4 a)))

end Sys2Proof.Machine
end

