-- ==== Sys2Proof/Machine/Card.lean ====
section
/-! DEFINITION. The dance card, the request rings and the areas of a request (R47, R48, R155, R217 to R221). -/

namespace Sys2Proof.Machine

def setServing (f : Serving → Serving) : Prog := .get fun s => .one (.serving (f s.serving))

/-- The first number at or after one that has a property, among `fuel` of them. -/
def findFrom (p : Nat → Bool) : Nat → Nat → Option Nat
  | 0, _ => none
  | n + 1, i => if p i then some i else findFrom p n (i + 1)

/-- Source number of the tumbler core that carries out a duty of firmware (R242, R318). -/
def dutyCore (duty : Nat) : Nat := Config.tumblerFor duty % 24
def dutySrc (duty : Nat) : Nat := 0x10 + dutyCore duty
/-- Duties: serving, escalation, speculation, decoding tables. -/
def dutyServing : Nat := 0
def dutyEscalation : Nat := 1
def dutyDecoding : Nat := 2

/-! ### Pools: runs of units, the lowest free run first (R47, R48, R221, R235) -/

/-- The lowest start of n free units among taken runs (start, length) in rising order. -/
def fitRun (n total : Nat) : List (Nat × Nat) → Nat → Option Nat
  | [], a => if a + n ≤ total then some a else none
  | r :: rs, a => if a + n ≤ r.1 then some a else fitRun n total rs (max a (r.1 + r.2))

def insertRun (r : Nat × Nat) : List (Nat × Nat) → List (Nat × Nat)
  | [] => [r]
  | q :: qs => if r.1 < q.1 then r :: q :: qs else q :: insertRun r qs

def poolPrompt : Nat := 0
def poolPages : Nat := 1
def poolHistory : Nat := 2
def poolDir : Nat := 3
def poolPause (stack : Nat) : Nat := 8 + stack

/-- Where n units of a pool of `total` units are free. -/
def State.poolFit (s : State) (pool n total : Nat) : Option Nat := fitRun n total (AMap.get [] s.serving.runs pool) 0
def takeRun (pool start n : Nat) : Prog := setServing fun v => { v with runs := AMap.put [] v.runs pool (insertRun (start, n) (AMap.get [] v.runs pool)) }
def freeRun (pool start : Nat) : Prog := setServing fun v => { v with runs := AMap.put [] v.runs pool ((AMap.get [] v.runs pool).filter fun r => r.1 != start) }

def promptUnits : Nat := 180224
def pageUnits : Nat := 262144
def historyUnits : Nat := 44040192
def dirUnits : Nat := 1536

/-! ### Entries (R217 to R220) -/

def cardA (e : Nat) : Nat := 64 * e
def cardB (e : Nat) : Nat := 0x108000 + 64 * e
/-- A field of copy A of an entry. -/
def State.ent (s : State) (e off n : Nat) : Nat := Mem.nat s.sm (cardA e + off) n
/-- Writes bytes of an entry, copy A then copy B. -/
def putEnt (e off n v : Nat) : Prog := .ups [.sm (cardA e + off) (leBytes n v), .sm (cardB e + off) (leBytes n v)]

def State.ctrl (s : State) (e : Nat) : Nat := s.ent e 0 8
def setCtrl (e : Nat) (f : Nat → Nat) : Prog := .get fun s => putEnt e 0 8 (f (s.ctrl e))
/-- Replaces bits [hi:lo]. -/
def withBits (hi lo v w : Nat) : Nat := setBits w hi lo v

def stFree : Nat := 0
def stQueued : Nat := 1
def stPrefill : Nat := 2
def stDecode : Nat := 3
def stPaused : Nat := 4
def stDraining : Nat := 5
def stRetired : Nat := 6

def cState (w : Nat) : Nat := bits w 63 60
def cDiscard (w : Nat) : Bool := bit w 59
def cDone (w : Nat) : Bool := bit w 58
def cPause (w : Nat) : Bool := bit w 57
def cPrio (w : Nat) : Nat := bits w 56 54
def cPolicy (w : Nat) : Bool := bit w 53
def cPin (w : Nat) : Bool := bit w 52
def cSpec (w : Nat) : Bool := bit w 51
def cPmode (w : Nat) : Nat := bits w 50 47
def cTenant (w : Nat) : Nat := bits w 39 24
def cTerm (w : Nat) : Nat := bits w 23 16
def cTseq (w : Nat) : Nat := bits w 15 0

def State.est (s : State) (e : Nat) : Nat := cState (s.ctrl e)
def setState (e v : Nat) : Prog := setCtrl e (withBits 63 60 v)

def State.arrival (s : State) (e : Nat) : Nat := s.ent e 10 6
def State.esession (s : State) (e : Nat) : Nat := s.ent e 8 2
def State.tag (s : State) (e : Nat) : Nat := s.ent e 16 4
def State.ttftDl (s : State) (e : Nat) : Nat := s.ent e 20 4
def State.endDl (s : State) (e : Nat) : Nat := s.ent e 24 4
def State.tbtTgt (s : State) (e : Nat) : Nat := s.ent e 28 2
def State.samp (s : State) (e : Nat) : Nat := s.ent e 30 2
def State.ePrompt (s : State) (e : Nat) : Nat := bits (s.ent e 32 8) 63 45
def State.generated (s : State) (e : Nat) : Nat := bits (s.ent e 32 8) 44 26
def State.eMax (s : State) (e : Nat) : Nat := bits (s.ent e 32 8) 25 7
def setGenerated (e v : Nat) : Prog := .get fun s => putEnt e 32 8 (withBits 44 26 v (s.ent e 32 8))
def State.plist (s : State) (e : Nat) : Nat := bits (s.ent e 40 8) 63 42
def State.pnode (s : State) (e : Nat) : Nat := bits (s.ent e 40 8) 41 23
def setLinks (e plist pnode : Nat) : Prog := putEnt e 40 8 (plist * 2 ^ 42 + pnode * 2 ^ 23)
def State.hist (s : State) (e : Nat) : Nat := s.ent e 48 4
def State.lf (s : State) (e : Nat) : Nat := s.ent e 52 4
def lfK (w : Nat) : Nat := bits w 31 28
def lfKreq (w : Nat) : Nat := bits w 27 24
def lfLow (w : Nat) : Nat := bits w 23 18
def lfRetry (w : Nat) : Nat := bits w 17 8
def lfWord (k kreq low retry : Nat) : Nat := k * 2 ^ 28 + kreq * 2 ^ 24 + low * 2 ^ 18 + retry * 2 ^ 8
def setLf (e v : Nat) : Prog := putEnt e 52 4 v

/-- The request of an entry. -/
def State.req (s : State) (e : Nat) : Req := AMap.get Req.none s.serving.reqs e
def setReq (e : Nat) (f : Req → Req) : Prog := setServing fun v => { v with reqs := AMap.put Req.none v.reqs e (f (AMap.get Req.none v.reqs e)) }
/-- Entries that are not FREE, lowest first. -/
def State.entries (s : State) : List Nat := s.serving.reqs.map (·.1)
/-- Entries of a state. -/
def State.inState (s : State) (sts : List Nat) : List Nat := s.entries.filter fun e => sts.contains (s.est e)

/-- The entry of a tag of a session; an entry whose session has ended belongs to no later one of the same index (R299). -/
def State.entryOf (s : State) (session tag : Nat) : Option Nat := s.entries.find? fun e => s.esession e == session && s.tag e == tag && !(s.req e).silent

/-- Positions of a request, and its page indexes. -/
def State.positions (s : State) (e : Nat) : Nat := s.ePrompt e + s.eMax e
def pagesOf (n : Nat) : Nat := ceilDiv n 64
def State.epages (s : State) (e : Nat) : Nat := pagesOf (s.positions e)

/-- A request id in a log entry (R318). -/
def State.rid (s : State) (e : Nat) : List Byte := leBytes 2 e ++ leBytes 2 (s.esession e) ++ leBytes 4 (s.tag e)

/-- Wafer time in us. -/
def State.us (s : State) : Nat := s.waferTime / 1000

/-! ### Token history (R221) -/

/-- Byte o of the history pool. -/
def historyAddr (o : Nat) : Nat := hbmAddr (o / 4096 % 24) (0x8E0000000 + o / 4096 / 24 * 4096 + o % 4096)
def State.token (s : State) (e p : Nat) : Nat := Mem.nat s.hbm (historyAddr (256 * s.hist e + 4 * p)) 4
def setToken (e p v : Nat) : Prog := .get fun s => .one (.hbm (historyAddr (256 * s.hist e + 4 * p)) (leBytes 4 v))
/-- Tokens of positions a to a + n - 1. -/
def State.tokens (s : State) (e a n : Nat) : List Nat := (List.range n).map fun i => s.token e (a + i)

/-- 64-byte units of a page-list area, and 256-byte units of a token-history area with its mirror. -/
def listUnits (n : Nat) : Nat := ceilDiv (64 + 4 * pagesOf n) 64
def historyRun (n : Nat) : Nat := pagesOf n + ceilDiv (64 + 4 * pagesOf n) 256

/-! ### Page lists (R155, R221) -/

def listAddr (s : State) (e : Nat) : Nat := 64 * s.plist e
def noPage : Nat := 0xFFFFF800
def pageWord (f count : Nat) : Nat := f * 4096 + count
def wordPage (w : Nat) : Option Nat := if bit w 11 then none else some (w / 4096)
def wordCount (w : Nat) : Nat := w % 128

/-- Writes bytes of the page-list area, then the same bytes of its mirror. -/
def putArea (e off : Nat) (bs : List Byte) : Prog :=
  .get fun s => .ups [.sm (listAddr s e + off) bs, .hbm (historyAddr (256 * (s.hist e + s.epages e) + off)) bs]

def State.listWord (s : State) (e i : Nat) : Nat := Mem.nat s.sm (listAddr s e + 64 + 4 * i) 4
def setListWord (e i v : Nat) : Prog := putArea e (64 + 4 * i) (leBytes 4 v)
/-- The page at index i of a request's list. -/
def State.pageAt (s : State) (e i : Nat) : Option Nat := wordPage (s.listWord e i)

/-- The image header of a page-list area (R235): address, stack, flags, rows, digest, pause time in us. -/
def State.imgAddr (s : State) (e : Nat) : Nat := Mem.nat s.sm (listAddr s e) 8
def State.imgStack (s : State) (e : Nat) : Nat := Mem.nat s.sm (listAddr s e + 8) 1
def State.imgFlags (s : State) (e : Nat) : Nat := Mem.nat s.sm (listAddr s e + 9) 1
def State.imgRows (s : State) (e : Nat) : Nat := Mem.nat s.sm (listAddr s e + 16) 4
def State.imgDigest (s : State) (e : Nat) : List Byte := Mem.read s.sm (listAddr s e + 24) 32

/-! ### The transmit ring and statuses (R48, R298, R300) -/

def txAddr (n : Nat) : Nat := 0x0ED00000 + 128 * (n % 16384)

/-- A transmit record. -/
def txRecord (session typ : Nat) (payload : List Byte) : List Byte :=
  leBytes 2 session ++ leBytes 1 typ ++ leBytes 1 payload.length ++ slice payload 0 124

/-- Writes a record to the transmit ring; with no record free it waits at its tumbler core. -/
def pushTx (session typ : Nat) (payload : List Byte) : Prog :=
  .get fun s =>
    if s.serving.outbox.isEmpty && ringUsed s 1 < 16384 then
      (Prog.one (.sm (txAddr (ringProd s 1)) (txRecord session typ payload))).andThen (setRingProd 1 (ringProd s 1 + 1))
    else setServing fun v => { v with outbox := v.outbox ++ [txRecord session typ payload] }

def statusBody (tag code detail a0 a1 : Nat) : List Byte :=
  leBytes 4 tag ++ leBytes 1 code ++ leBytes 1 detail ++ leBytes 2 0 ++ leBytes 4 a0 ++ leBytes 4 a1

/-- A STATUS of an entry, unless its session has ended (R301). -/
def entryStatus (e code detail a0 a1 : Nat) : Prog :=
  .get fun s => .when (!(s.req e).silent) (pushTx (s.esession e) 0x20 (statusBody (s.tag e) code detail a0 a1))

/-- The records of the transmit ring that no engine has taken. -/
def State.txWaiting (s : State) : List Nat := (List.range (ringUsed s 1)).map fun k => txAddr (ringCons s 1 + k)

/-- The place of a terminal status in TERMINAL_TOTALS. -/
def termIndex (code : Nat) : Option Nat :=
  if code = 0 then some 0 else if 0x10 ≤ code && code ≤ 0x14 then some (code - 0x10 + 1) else if code = 0x20 then some 6
  else if code = 0x30 then some 7 else none
def terminalCode (c : Nat) : Bool := (termIndex c).isSome
def countTerm (code : Nat) : Prog := match termIndex code with
  | some i => addReg 0x5013 (i + 1) 1
  | none => .done

end Sys2Proof.Machine
end

