-- ==== Sys2Proof/Machine/Staging.lean ====
section
/-! DEFINITION. The staging engine, its shadow writes, and a core that falls silent (R157 to R163, R393). -/

namespace Sys2Proof.Machine

/-! ### The staging configuration (R157) -/

def stSbuf (w : Nat) : Nat := bits w 255 240
def stRecords (w : Nat) : Nat := bits w 239 230
def stRows (w : Nat) : Nat := bits w 229 226
def stRctr (w : Nat) : Nat := bits w 225 221
def stFctr (w : Nat) : Nat := bits w 220 216
def stAcfg (w : Nat) : Nat := bits w 215 214
def stWay (w : Nat) : Nat := bits w 213 206
def stWays (w : Nat) : Nat := bits w 205 198 + 1
def stSep (w : Nat) : Nat := bits w 197 188
def stBase (w : Nat) : Nat := bits w 187 158
def stSctr (w : Nat) : Nat := bits w 157 153
def stSrow (w : Nat) : Nat := bits w 152 137
def stEnabled (w : Nat) : Bool := bit w 136

/-- The AP configuration of R90 that a staging engine uses: pool handle, rows per page, head dimension, element bits. -/
def sgPool (a : Nat) : Nat := bits a 127 122
def apRows (a : Nat) : Nat := bits a 121 112
def apDim (a : Nat) : Nat := if bit a 111 then 128 else 64
def apBits (a : Nat) : Nat := if bit a 106 then 4 else 8

/-- Bytes of K (or V) of one position (R156). -/
def posBytes (a : Nat) : Nat := apDim a * apBits a / 8

/-- Bytes of a run of rows, from a byte offset. -/
def rowsBytes (rows : List Row) : List Byte := rows.flatMap rowBytes

/-- A run of bytes laid into a slot from its byte o on: (row, data, byte mask) for each row it touches; `rowAt` gives the slot's rows. -/
def bytePieces (rowAt : Nat → Nat) (o : Nat) (bs : List Byte) : List (Nat × Row × Nat) :=
  let n := bs.length
  if n = 0 then []
  else (List.range ((o + n - 1) / 64 - o / 64 + 1)).map fun i =>
    let r := o / 64 + i
    let lo := max o (64 * r)
    let hi := min (o + n) (64 * r + 64)
    (rowAt r, BitVec.ofNat 512 (leNat ((bs.drop (lo - o)).take (hi - lo)) * 256 ^ (lo - 64 * r)),
      (2 ^ (hi - lo) - 1) * 2 ^ (lo - 64 * r))

/-- Writes pieces: a whole row as a row, a part through the gather buffer. -/
def writePieces (k : Nat) (ps : List (Nat × Row × Nat)) : Prog :=
  .each ps fun p => if p.2.2 = fullMask then writeRow k p.1 p.2.1 else narrowWrite k p.1 p.2.1 p.2.2

/-- The header of a QPUT to an endpoint (R29, R30). -/
def qputHdr (ep len : Nat) : BitVec 64 := BitVec.ofNat 64 (127 * 2 ^ 57 + ep / 32 * 2 ^ 52 + ep % 32 * 2 ^ 47 + 3 * 2 ^ 44 + len * 2 ^ 37)

/-- A write descriptor (R97). -/
def writeDesc (addr rows ctr rrow key : Nat) : Row :=
  rowOfFields [(0, 8, addr), (8, 2, rows), (10, 1, 1), (11, 1, ctr), (12, 2, rrow), (14, 1, key / 1024), (15, 1, key / 32 % 32), (16, 1, key % 32)]

/-- The shadow write of a full slot: its rows and a seal row, in QPUT packets of up to 15 rows, to one queue pair (R163). -/
def shadowPackets (k w a page gen pseq : Nat) (rows : List Row) : List Packet :=
  let sealRow := rowOfFields [(0, 4, page), (4, 4, gen), (8, 4, pseq), (12, 1, k / 1024), (13, 1, k / 32 % 32), (14, 1, k % 32), (15, 1, 0x5E)]
  let all := rows ++ [sealRow]
  let frame := stBase w * 64 + page / stWays w * (apRows a + 1) * 64
  (List.range ((all.length + 14) / 15)).map fun i =>
    let fl := (all.drop (15 * i)).take 15
    ⟨k, qputHdr (stSep w) fl.length, writeDesc (frame + 64 * 15 * i) fl.length (stSctr w) (stSrow w) k :: fl⟩

/-- One record (R159): its rows, from the header row on; the slot's rows are the pool handle's (R156, R59). -/
def stagingProg (k : Nat) : Prog :=
  .get fun s =>
    let c := s.core k
    let w := c.staging
    let n := stRows w
    if !stEnabled w || n = 0 || stRecords w = 0 || c.stagingRows < n then .done
    else
      let at_ := stSbuf w + c.stagingDone % stRecords w * n
      let rows := (List.range n).map fun i => s.unitRow k c (at_ + i)
      let hd := rows.headD 0
      let slot := rowField hd 0 2
      let j := rowField hd 2 1
      let data := rowField hd 3 1 % 2 == 1
      let page := rowField hd 4 4
      let gen := rowField hd 8 4
      let pseq := rowField hd 12 4
      let a := AMap.get 0 c.apCfg (stAcfg w)
      let h := c.handle (sgPool a)
      let taken := ({ ((List.range n).map (at_ + ·)).foldl Core.countRow c with stagingDone := c.stagingDone + 1, stagingRows := c.stagingRows - n }).event 0x12 1
      let step4 : Prog := .get fun s => setCore k ((s.core k).advance (stFctr w) 1)
      match (List.range n).find? fun i => c.rowBad (at_ + i) with
      | some i => (setCore k taken).andThen ((voidCore k codeEcc (at_ + i)).andThen step4)
      | none =>
      if slot = 0xFFFF || page % stWays w != stWay w then (setCore k taken).andThen step4
      else if slot ≥ hLength h / max 1 (apRows a) || j > 63 then
        (setCore k taken).andThen ((voidCore k codeBounds noRow).andThen step4)
      else
        let b := posBytes a
        let rowAt (r : Nat) : Nat := handleRow h (slot * apRows a + r)
        let kv := rowsBytes (rows.drop 2)
        let kRows := ceilDiv b 64
        let kBytes := kv.take b
        let vBytes := (kv.drop (64 * kRows)).take b
        let scales := (rowBytes (rows.getD 1 0)).take (apDim a / 16)
        .seq [setCore k taken,
          .when data (writePieces k (bytePieces rowAt (j * b) kBytes ++ bytePieces rowAt (64 * b + j * b) vBytes ++
            bytePieces rowAt (128 * b + j * (apDim a / 16)) scales)),
          step4,
          .when (j == 63) (.get fun s =>
            let c := s.core k
            let rows := (List.range (apRows a)).map rowAt
            match rows.find? c.rowBad with
            | some r => (setCore k (rows.foldl Core.countRow c)).andThen (voidCore k codeEcc r)
            | none =>
              let ps := shadowPackets k w a page gen pseq (rows.map (s.unitRow k c))
              (setCore k ((rows.foldl Core.countRow c).event 0x13 (flitCount ps))).andThen (.one (.net (s.net ++ ps))))]

def execStagingRecord (c : CoreId) (s : State) : Host.Outcome State Fault Refusal := (withCore c fun _ => stagingProg c.key).run s

/-- CORE_SILENT: the hub of a live core raises a void with cause 0x0A (R393). -/
def execCoreSilent (c : CoreId) (s : State) : Host.Outcome State Fault Refusal :=
  (withCore c fun _ => .get fun s => .when (s.fieldLive c.field) (voidCore c.key 0x0A noRow)).run s

end Sys2Proof.Machine
end

