-- ==== Sys2Proof/Machine/Pages.lean ====
section
/-! DEFINITION. The page directory, hot slots, fetches of pages and the prefix tree (R154, R163 to R178). -/

namespace Sys2Proof.Machine

/-! ### The choreography that serves -/

/-- The main (false) or the lead (true) model. -/
def State.srv (s : State) (lead : Bool) : Model := s.model (boolNat lead)
def State.ways (s : State) (lead : Bool) : Nat := max 1 (s.hWays (s.srv lead))
def State.frames (s : State) (lead : Bool) : Nat := s.hFrames (s.srv lead)
/-- The taken beats of a choreography (R139). -/
def State.takenOf (s : State) (lead : Bool) : Nat := AMap.get 0 s.beat.taken (boolNat lead)
def wayKey (lead : Bool) (w : Nat) : Nat := boolNat lead * 256 + w
def pageKey (lead : Bool) (f : Nat) : Nat := boolNat lead * 2 ^ 20 + f

/-! ### Directory entries (R165) -/

/-- A page directory entry. -/
structure DirEnt where
  hot : Nat
  state : Nat
  flags : Nat
  refs : Nat
  count : Nat
  gen : Nat
  fill : Nat
  node : Nat
  tenant : Nat
  use : Nat
  deriving DecidableEq, Repr

def pgFree : Nat := 0
def pgOpen : Nat := 1
def pgFull : Nat := 2
def pgCold : Nat := 3
def pgLoading : Nat := 4

def State.dirAddr (s : State) (lead : Bool) (f : Nat) : Nat := AMap.get 0 s.serving.dirBase (boolNat lead) + f / 1024 * 0x10000 + 32 * (f % 1024)

/-- Bytes of a structure whose copy B lies 32 KiB after copy A: read from copy A, but from copy B where the word of copy A is uncorrectable (R169). -/
def State.readPair (s : State) (a n : Nat) : List Byte :=
  if s.smBad.isEmpty then Mem.read s.sm a n
  else (List.range n).map fun i => Mem.byte s.sm (if AMap.get false s.smBad ((a + i) / 8) then a + i + 0x8000 else a + i)

def State.dir (s : State) (lead : Bool) (f : Nat) : DirEnt :=
  let b := s.readPair (s.dirAddr lead f) 32
  ⟨field b 0 2, field b 2 1, field b 3 1, field b 4 2, field b 6 1, field b 8 4, field b 12 4, field b 16 4, field b 20 2, field b 24 8⟩

def DirEnt.bytes (d : DirEnt) : List Byte :=
  leBytes 2 d.hot ++ leBytes 1 d.state ++ leBytes 1 d.flags ++ leBytes 2 d.refs ++ leBytes 1 d.count ++ leBytes 1 0 ++ leBytes 4 d.gen ++
    leBytes 4 d.fill ++ leBytes 4 d.node ++ leBytes 2 d.tenant ++ leBytes 2 0 ++ leBytes 8 d.use

/-- The words of copy A of an entry that were found uncorrectable are good again, and logged (R169). -/
def mendEntry (a : Nat) : Prog :=
  .get fun s => .each ((List.range 4).filter fun i => AMap.get false s.smBad (a / 8 + i)) fun i =>
    (Prog.one (.smBad (a / 8 + i) false)).andThen (appendOpen (dutySrc dutyServing) openSmEcc (some (leBytes 4 (a + 8 * i))))

/-- Writes an entry, copy A then copy B (R169); in a group the change goes out with an issue record (R278). -/
def putDir (lead : Bool) (f : Nat) (g : DirEnt → DirEnt) : Prog :=
  .get fun s => .seq [writeBoth (s.dirAddr lead f) (g (s.dir lead f)).bytes, .when (!s.smBad.isEmpty) (mendEntry (s.dirAddr lead f)),
    .when (!lead && s.inGroup) (setServing fun v => { v with dirChanges := if v.dirChanges.contains f then v.dirChanges else v.dirChanges ++ [f] })]

def DirEnt.shared (d : DirEnt) : Bool := bit d.flags 0
/-- The local slot of a hot page. -/
def State.slotOf (s : State) (lead : Bool) (f : Nat) : Nat := (s.dir lead f).hot / s.ways lead

/-! ### Hot slots and page ids (R154, R166, R167) -/

def State.freeSlots (s : State) (lead : Bool) (w : Nat) : List Nat := AMap.get [] s.serving.hotFree (wayKey lead w)
def setStack (lead : Bool) (w : Nat) (l : List Nat) : Prog := setServing fun v => { v with hotFree := AMap.put [] v.hotFree (wayKey lead w) l }

/-- The page ids of a way, up to n of them from the k-th on, that have a property. -/
def State.wayPages (s : State) (lead : Bool) (w : Nat) (p : DirEnt → Bool) : List Nat :=
  ((List.range (ceilDiv (s.frames lead - w) (s.ways lead))).map fun k => k * s.ways lead + w).filter fun f => p (s.dir lead f)

/-- The lowest FREE page id of a way. -/
def State.freePage (s : State) (lead : Bool) (w : Nat) : Option Nat :=
  (findFrom (fun k => (s.dir lead (k * s.ways lead + w)).state == pgFree) (ceilDiv (s.frames lead - w) (s.ways lead)) 0).map fun k => k * s.ways lead + w

def subReg (idx n : Nat) : Prog := .get fun s => setReg idx 0 (s.reg idx - n)

/-- Takes a hot slot of a way; the reservation has made sure there is one. -/
def takeSlot (lead : Bool) (w : Nat) (k : Nat → Prog) : Prog :=
  .get fun s => match s.freeSlots lead w with
    | [] => .done
    | x :: xs => .seq [setStack lead w xs, addReg 0x5402 0 1, k x]

def giveSlot (lead : Bool) (w x : Nat) : Prog :=
  .get fun s => (setStack lead w (x :: s.freeSlots lead w)).andThen (subReg 0x5402 1)

/-- The hot slot of a page returns to its way's stack. -/
def dropSlot (lead : Bool) (f : Nat) : Prog :=
  .get fun s => .when ((s.dir lead f).hot != 0xFFFF) (giveSlot lead (f % s.ways lead) (s.slotOf lead f))

/-- FREE to OPEN: a page for a request's list (R166). -/
def openPage (lead : Bool) (f tenant count : Nat) : Prog :=
  .get fun s =>
    let w := f % s.ways lead
    takeSlot lead w fun x => putDir lead f fun d =>
      ⟨x * s.ways lead + w, pgOpen, 0, 1, count, (d.gen + 1) % 2 ^ 32, 0, 0, tenant, s.us⟩

/-- Nothing is fetched for a page any more. -/
def dropFetch (lead : Bool) (f : Nat) : Prog :=
  setServing fun v => { v with loading := AMap.put 0 v.loading (pageKey lead f) 0
                               fullAt := AMap.put 0 v.fullAt (pageKey lead f) 0
                               fetchQ := v.fetchQ.map fun kv => (kv.1, kv.2.filter fun d => d.1 != pageKey lead f) }

/-- A page became FULL at this taken beat (R168). -/
def noteFull (lead : Bool) (f : Nat) : Prog := .get fun s => setServing fun v => { v with fullAt := AMap.put 0 v.fullAt (pageKey lead f) (s.takenOf lead + 1) }

/-- A page goes FREE. -/
def clearPage (lead : Bool) (f : Nat) : Prog :=
  .get fun s =>
    let d := s.dir lead f
    .seq [.when (d.state == pgOpen || d.state == pgFull || d.state == pgLoading) (dropSlot lead f), .when (d.state == pgCold) (subReg 0x5403 1),
      dropFetch lead f,
      putDir lead f fun d => { d with hot := 0xFFFF, state := pgFree, flags := 0, refs := 0, count := 0, fill := 0, node := 0, tenant := 0, use := s.us }]

/-- FULL to COLD: the hot slot returns, the frame stays. -/
def coolPage (lead : Bool) (f : Nat) : Prog :=
  .seq [dropSlot lead f, addReg 0x5403 0 1, putDir lead f fun d => { d with hot := 0xFFFF, state := pgCold }]

/-! ### Fetches (R168) -/

/-- A read descriptor (R97). -/
def readDesc (addr rows ctr rrow key : Nat) : Row :=
  rowOfFields [(0, 8, addr), (8, 2, rows), (10, 1, 0), (11, 1, ctr), (12, 2, rrow), (14, 1, key / 1024), (15, 1, key / 32 % 32), (16, 1, key % 32)]

/-- The KV-holding cores of a way. -/
def State.wayCores (s : State) (lead : Bool) (w : Nat) : List Nat :=
  ((s.coreRecs (s.srv lead)).filter fun r => r.flags % 2 == 1 && stWay (s.core r.key).staging == w).map (·.key)

/-- Runs of consecutive rows, as (place of the first in the list, first row, rows). -/
def rowRuns : Nat → List Nat → List (Nat × Nat × Nat)
  | _, [] => []
  | i, r :: rs => match rowRuns (i + 1) rs with
    | (_, q, n) :: runs => if q = r + 1 then (i, r, n + 1) :: runs else (i, r, 1) :: (i + 1, q, n) :: runs
    | [] => [(i, r, 1)]

/-- The descriptors that read a page's frame into the same rows of a slot of one core: at most 256 rows in each (R168).  Rows of the slot that do not follow one another need a descriptor of their own, since a descriptor fills consecutive rows. -/
def pageReads (s : State) (key ways src slot : Nat) : List Row :=
  let c := s.core key
  let w := c.staging
  let a := AMap.get 0 c.apCfg (stAcfg w)
  let pr := apRows a
  let frame := stBase w * 64 + src / ways * (pr + 1) * 64
  (List.range (ceilDiv pr 256)).flatMap fun k =>
    (rowRuns 0 ((List.range (min 256 (pr - 256 * k))).map fun i => handleRow (c.handle (sgPool a)) (slot * pr + 256 * k + i))).map fun r =>
      readDesc (frame + 64 * (256 * k + r.1)) r.2.2 (Config.firmwareCtr 0 key).toNat r.2.1 key

/-- Queues the descriptors that fill page f's slot from the frame of page src; f waits for them. -/
def fetchPage (lead : Bool) (src f : Nat) : Prog :=
  .get fun s =>
    .seq [setServing fun v => { v with loading := AMap.put 0 v.loading (pageKey lead f) 1 },
      .each (s.wayCores lead (f % s.ways lead)) fun key => setServing fun v =>
        { v with fetchQ := AMap.put [] v.fetchQ key (AMap.get [] v.fetchQ key ++ (pageReads s key (s.ways lead) src (s.slotOf lead f)).map fun d => (pageKey lead f, d)) }]

/-- COLD to LOADING: a slot is taken and the frame read into it. -/
def warmPage (lead : Bool) (f : Nat) : Prog :=
  .get fun s =>
    takeSlot lead (f % s.ways lead) fun x => .seq [subReg 0x5403 1,
      putDir lead f fun d => { d with hot := x * s.ways lead + f % s.ways lead, state := pgLoading }, fetchPage lead f f]

/-! ### Prefix nodes (R170, R171) -/

def nodeAddr (n : Nat) : Nat := 0x07800000 + 320 * n
def bucketAddr (b : Nat) : Nat := 0x0C800000 + 4 * b
def nodesMax : Nat := 262144
/-- Where the tumbler cores keep the first node of depth 0, in their working area. -/
def rootChild : Nat := 0x520000

def State.node (s : State) (n off k : Nat) : Nat := Mem.nat s.sm (nodeAddr n + off) k
def State.nodeDigest (s : State) (n : Nat) : List Byte := Mem.read s.sm (nodeAddr n) 16
def ndPage : Nat := 16
def ndParent : Nat := 20
def ndNext : Nat := 24
def ndChild : Nat := 28
def ndSib : Nat := 32
def ndTenant : Nat := 36
def ndDepth : Nat := 38
def ndState : Nat := 40
def ndUse : Nat := 48
def setNode (n off k v : Nat) : Prog := .one (.sm (nodeAddr n + off) (leBytes k v))

/-- A node that can be read and is live. -/
def State.nodeLive (s : State) (n : Nat) : Bool :=
  s.node n ndState 1 == 1 && !(List.range 40).any fun w => AMap.get false s.smBad (nodeAddr n / 8 + w)

def zero16 : List Byte := List.replicate 16 0

/-- The digest of a prompt page (R170). -/
def pageDigest (parent salt : List Byte) (ids : List Nat) : List Byte := shake256 16 (parent ++ salt ++ ids.flatMap (leBytes 4))
def bucketOf (digest : List Byte) : Nat := field digest 0 4 % 2 ^ 18

/-- The salt of a tenant. -/
def saltAddr (tenant : Nat) : Nat := interleaved 0x600000 (16 * tenant)
def State.salt (s : State) (tenant : Nat) : List Byte := Mem.read s.sm (saltAddr tenant) 16

def State.nodeIds (s : State) (n : Nat) : List Nat := (List.range 64).map fun i => s.node n (64 + 4 * i) 4

/-- The node of a chain that matches: live, same digest, tenant, parent and tokens (R172). -/
def findNode (s : State) (digest : List Byte) (tenant parent : Nat) (ids : List Nat) : Nat → Nat → Option Nat
  | 0, _ => none
  | k + 1, link =>
    if link = 0 then none
    else
      let n := link - 1
      if (List.range 40).any fun w => AMap.get false s.smBad (nodeAddr n / 8 + w) then none
      else if s.nodeLive n && s.nodeDigest n == digest && s.node n ndTenant 2 == tenant && s.node n ndParent 4 == parent && s.nodeIds n == ids then some n
      else findNode s digest tenant parent ids k (s.node n ndNext 4)

def State.lookup (s : State) (digest : List Byte) (tenant parent : Nat) (ids : List Nat) : Option Nat :=
  let b := bucketAddr (bucketOf digest)
  if AMap.get false s.smBad (b / 8) then none else findNode s digest tenant parent ids nodesMax (Mem.nat s.sm b 4)

/-- PMODE bits: 3 public lookup, 2 tenant lookup, 1 tenant insert, 0 public insert. -/
def pmPublicLookup (m : Nat) : Bool := bit m 3
def pmTenantLookup (m : Nat) : Bool := bit m 2
def pmTenantInsert (m : Nat) : Bool := bit m 1
def pmPublicInsert (m : Nat) : Bool := bit m 0

/-- What a lookup knows so far: nodes matched in order, whether the chain is public. -/
structure PrefixHit where
  nodes : List Nat
  isPublic : Bool
  deriving DecidableEq, Repr

/-- The prompt's pages matched from page i on (R172). -/
def matchPages (s : State) (tenant pmode : Nat) (ids : Nat → List Nat) : Nat → Nat → PrefixHit → PrefixHit
  | 0, _, h => h
  | k + 1, i, h =>
    let parent := match h.nodes.getLast? with
      | some n => n + 1
      | none => 0
    let pd := if parent = 0 then zero16 else s.nodeDigest (parent - 1)
    let salt := s.salt tenant
    let a := if pmPublicLookup pmode && h.isPublic then s.lookup (pageDigest pd zero16 (ids i)) 0xFFFF parent (ids i) else none
    match a with
    | some n => matchPages s tenant pmode ids k (i + 1) ⟨h.nodes ++ [n], true⟩
    | none =>
      if pmTenantLookup pmode && salt != zero16 then
        match s.lookup (pageDigest pd salt (ids i)) tenant parent (ids i) with
        | some n => matchPages s tenant pmode ids k (i + 1) ⟨h.nodes ++ [n], false⟩
        | none => h
      else h

/-- The common leading run of two token lists. -/
def commonRun : List Nat → List Nat → Nat
  | a :: as, b :: bs => if a = b then commonRun as bs + 1 else 0
  | _, _ => 0

/-- The children of a node (0: the root), earliest in the sibling chain first. -/
def siblings (s : State) : Nat → Nat → List Nat
  | 0, _ => []
  | k + 1, link => if link = 0 then [] else (link - 1) :: siblings s k (s.node (link - 1) ndSib 4)
def State.childHead (s : State) (parent : Nat) : Nat := if parent = 0 then Mem.nat s.sm rootChild 4 else s.node (parent - 1) ndChild 4

/-- The live child of the divergence node that shares the longest run with a page of the prompt: (node, run) (R174). -/
def bestChild (s : State) (parent : Nat) (ids : List Nat) : Option (Nat × Nat) :=
  ((siblings s nodesMax (s.childHead parent)).filter s.nodeLive).foldl
    (fun b n =>
      let d := commonRun ids (s.nodeIds n)
      match b with
      | some x => if d > x.2 then some (n, d) else b
      | none => some (n, d)) none

/-! ### Removing nodes (R176, R178) -/

/-- Takes a node out of a chain whose head word and link offset are given. -/
def unchain (off target : Nat) : Nat → Nat → Prog
  | 0, _ => .done
  | k + 1, ptr => .get fun s =>
    let v := Mem.nat s.sm ptr 4
    if v = 0 then .done
    else if v = target + 1 then .one (.sm ptr (leBytes 4 (s.node target off 4)))
    else unchain off target k (nodeAddr (v - 1) + off)

/-- A node leaves its bucket chain and its parent's child chain. -/
def unlinkNode (n : Nat) : Prog :=
  .get fun s =>
    let parent := s.node n ndParent 4
    .seq [unchain ndNext n nodesMax (bucketAddr (bucketOf (s.nodeDigest n))),
      unchain ndSib n nodesMax (if parent = 0 then rootChild else nodeAddr (parent - 1) + ndChild)]

/-- Removes a node: it leaves its chains, its page is freed. -/
def removeNode (n : Nat) : Prog :=
  .get fun s => .seq [unlinkNode n, clearPage false (s.node n ndPage 4), .one (.smZero (nodeAddr n) 320), subReg 0x5410 1,
      setServing fun v => { v with flushing := v.flushing.filter (· != n) }]

/-- Nodes with a property. -/
def State.nodesWhere (s : State) (p : Nat → Bool) : List Nat := (List.range nodesMax).filter fun n => s.nodeLive n && p n

/-- The one of a list that was used longest ago. -/
def oldest (use : Nat → Nat) : List Nat → Option Nat
  | [] => none
  | x :: xs => match oldest use xs with
    | some y => if use y < use x then some y else some x
    | none => some x

/-- The leaf node, its page without references, used longest ago; `ok` may ask for more. -/
def State.oldLeaf (s : State) (ok : Nat → Bool) : Option Nat :=
  oldest (fun n => (s.dir false (s.node n ndPage 4)).use) (s.nodesWhere fun n => s.node n ndChild 4 == 0 && (s.dir false (s.node n ndPage 4)).refs == 0 &&
    AMap.get 0 s.serving.loading (pageKey false (s.node n ndPage 4)) == 0 && ok n)

/-- The shared page of a way without references that was used longest ago, among those not to be kept (R176). -/
def State.oldShared (s : State) (lead : Bool) (w : Nat) (keep : List Nat) : Option Nat :=
  oldest (fun f => (s.dir lead f).use) (s.wayPages lead w fun d => d.state == pgFull && d.shared && d.refs == 0) |>.bind fun f =>
    if keep.contains f then oldest (fun f => (s.dir lead f).use)
      ((s.wayPages lead w fun d => d.state == pgFull && d.shared && d.refs == 0).filter fun f => !keep.contains f) else some f

/-- A page whose last reference is gone: unshared it is freed, and with a node that waits to be flushed or is quarantined it goes with its node or its node's words (R166, R177, R178).  A page that is still being filled stays until its rows are there. -/
def freeIdle (lead : Bool) (f : Nat) : Prog :=
  .get fun s =>
    let d := s.dir lead f
    let n := d.node - 1
    if AMap.get 0 s.serving.loading (pageKey lead f) != 0 then .done
    else if !d.shared then clearPage lead f
    else if d.node != 0 && (s.serving.flushing.contains n) then removeNode n
    else if d.node != 0 && s.node n ndState 1 == 2 then clearPage lead f
    else .done

/-- A reference is given back. -/
def releasePage (lead : Bool) (f : Nat) : Prog :=
  .get fun s => (putDir lead f fun d => { d with refs := d.refs - 1, use := s.us }).andThen (.when ((s.dir lead f).refs ≤ 1) (freeIdle lead f))

/-- A node is quarantined: it leaves its chains, its words say no more than that, and its page is freed once nobody refers to it (R177, R178). -/
def quarantine (n : Nat) : Prog :=
  .get fun s => .when (s.node n ndState 1 == 1) (.seq [unlinkNode n, .one (.smZero (nodeAddr n) 320), setNode n ndState 1 2, subReg 0x5410 1,
    match (List.range (s.frames false)).find? fun f => (s.dir false f).node == n + 1 with
    | some f => .when ((s.dir false f).refs = 0) (freeIdle false f)
    | none => .done])

/-- A bucket's chain is built again from the node array (R177). -/
def rebuildBucket (b : Nat) : Prog :=
  .get fun s =>
    let ns := s.nodesWhere fun n => bucketOf (s.nodeDigest n) == b
    .ups ([.sm (bucketAddr b) (leBytes 4 (match ns with | n :: _ => n + 1 | [] => 0)), .smBad (bucketAddr b / 8) false] ++
      ns.zipIdx.map fun x => .sm (nodeAddr x.1 + ndNext) (leBytes 4 (match ns[x.2 + 1]? with | some q => q + 1 | none => 0)))

/-- The buckets whose chain comes to a node. -/
def bucketsOf (s : State) (n : Nat) : List Nat :=
  let rec comes : Nat → Nat → Bool
    | 0, _ => false
    | k + 1, link => link != 0 && (link == n + 1 || comes k (s.node (link - 1) ndNext 4))
  (List.range (2 ^ 18)).filter fun b => comes nodesMax (Mem.nat s.sm (bucketAddr b) 4)

/-! ### Inserting a node (R175) -/

def State.publishes (s : State) (tenant : Nat) : Bool := (List.range (s.reg 0x5421 0)).any fun i => s.reg 0x5421 (i + 1) == tenant

/-- A free node, if need be by removing the oldest leaf. -/
def freeNode (k : Nat → Prog) : Prog :=
  .get fun s => match findFrom (fun n => s.node n ndState 1 == 0) nodesMax 0 with
    | some n => k n
    | none => match s.oldLeaf fun _ => true with
      | some n => (removeNode n).andThen (k n)
      | none => .done

/-- Inserts prompt page i of an entry, held by page f, behind its last node.  DESIGN CHOICE (log 188): where the modes allow a public and a tenant insertion, the node is inserted publicly, as the lookup of R172 tries the public chain first; a new node comes first among its parent's children. -/
def insertPage (e i f : Nat) : Prog :=
  .get fun s =>
    let w := s.ctrl e
    let parent := s.pnode e
    let atNode := if i = 0 then parent == 0 else parent != 0 && s.node (parent - 1) ndState 1 == 1 && s.node (parent - 1) ndDepth 2 == i - 1
    let pub := (parent == 0 || s.node (parent - 1) ndTenant 2 == 0xFFFF) && pmPublicInsert (cPmode w) && s.publishes (cTenant w)
    let salt := if pub then zero16 else s.salt (cTenant w)
    let ids := s.tokens e (64 * i) 64
    let pd := if parent = 0 then zero16 else s.nodeDigest (parent - 1)
    let digest := pageDigest pd salt ids
    let owner := if pub then 0xFFFF else cTenant w
    .when (atNode && 64 * i + 64 ≤ s.ePrompt e && (pub || (pmTenantInsert (cPmode w) && salt != zero16)))
      (match s.lookup digest owner parent ids with
        | some n => setLinks e (s.plist e) (n + 1)
        | none => freeNode fun n => .get fun s =>
          let b := bucketAddr (bucketOf digest)
          .seq [.one (.sm (nodeAddr n) (digest ++ leBytes 4 f ++ leBytes 4 parent ++ leBytes 4 (Mem.nat s.sm b 4) ++ leBytes 4 0 ++
                leBytes 4 (s.childHead parent) ++ leBytes 2 owner ++ leBytes 2 i ++ leBytes 1 1 ++ leBytes 7 0 ++ leBytes 8 s.us ++ leBytes 8 0 ++
                ids.flatMap (leBytes 4))),
            .one (.sm b (leBytes 4 (n + 1))), .one (.sm (if parent = 0 then rootChild else nodeAddr (parent - 1) + ndChild) (leBytes 4 (n + 1))),
            putDir false f fun d => { d with flags := d.flags ||| (if pub then 3 else 1), node := n + 1, tenant := owner },
            addReg 0x5410 0 1, setLinks e (s.plist e) (n + 1)])

/-! ### Tenants (R173, R178, R241) -/

/-- Marks the nodes of a tenant (0xFFFF: of every tenant) for removal; those without references go at once. -/
def prefixFlush (tenant : Nat) (k : Answer → Prog) : Prog :=
  .get fun s =>
    let ns := s.nodesWhere fun n => tenant == 0xFFFF || s.node n ndTenant 2 == tenant
    .seq [.each ns fun n => .get fun s =>
        if (s.dir false (s.node n ndPage 4)).refs = 0 && AMap.get 0 s.serving.loading (pageKey false (s.node n ndPage 4)) = 0 then removeNode n
        else setServing fun v => { v with flushing := if v.flushing.contains n then v.flushing else v.flushing ++ [n] }, k .ok]

/-- TENANT_SALT_SET: a salt of zeros is out of range. -/
def tenantSaltSet (tenant salt : Nat) (k : Answer → Prog) : Prog :=
  if salt = 0 then k (.refuse 4) else (writeBoth (saltAddr tenant) (leBytes 16 salt)).andThen (k .ok)

/-- Tenant limits: a count and up to 256 records of tenant and limit, in two copies. -/
def limitBase : Nat := 0x510000
def State.tenantLimits (s : State) : List (Nat × Nat) :=
  (List.range (Mem.nat s.sm limitBase 4)).map fun i => (Mem.nat s.sm (limitBase + 4 + 4 * i) 2, Mem.nat s.sm (limitBase + 6 + 4 * i) 2)
def State.tenantLimit (s : State) (t : Nat) : Nat :=
  match s.tenantLimits.find? fun p => p.1 == t with
  | some p => p.2
  | none => s.reg 0x5002

/-- TENANT_LIMIT_SET: 0xFFFF removes the tenant; a 257th tenant is out of range. -/
def tenantLimitSet (tenant limit : Nat) (k : Answer → Prog) : Prog :=
  .get fun s =>
    let rest := s.tenantLimits.filter fun p => p.1 != tenant
    let new := if limit = 0xFFFF then rest else rest ++ [(tenant, limit)]
    if new.length > 256 then k (.refuse 4)
    else (writeBoth limitBase (leBytes 4 new.length ++ slice (new.flatMap fun p => leBytes 2 p.1 ++ leBytes 2 p.2) 0 1024)).andThen (k .ok)

end Sys2Proof.Machine
end

