-- ==== Sys2Proof/Machine/Ports.lean ====
section
/-! DEFINITION. The Ethernet ports: links, cages, announcements, address resolution, MACsec and dropped frames (R282 to R285, R291, R326). -/

namespace Sys2Proof.Machine

def setPorts (f : EthPorts → EthPorts) : Prog := .get fun s => .one (.ports (f s.ports))

/-- A port command with its port checked. -/
def withPort (e : Nat) (p : Prog) : Prog := if e > 1 then .fault (.noSuchUnit e) else p

/-! ### Links (R282, R291) -/

/-- Every session whose present path is on a port that went down takes its other path, and every message of its window is retransmitted at once (R291). -/
def leavePort (csp : Bool) (e : Nat) : Prog :=
  .get fun s => .when (s.served csp) (.each (List.range (sessionsMax csp)) fun i => .get fun s =>
    let x := s.session csp i
    .when (x.usable && x.cur == e) (match otherPath s x with
      | some o => (switchPath csp i o).andThen (.get fun s => .each (s.session csp i).inflight fun m => retransmit csp i m)
      | none => .done))

def portDown (e : Nat) : Prog :=
  .get fun s => .when (s.portUp e) (.seq [setReg 0x1400 (e + 1) 0, leavePort false e, leavePort true e, sakEvents])

/-- M4 is back: COL sessions leave the ports that went down meanwhile (R291). -/
def leaveDownPorts : Prog := .get fun s => .each ((List.range 2).filter fun e => !s.portUp e) (leavePort false)

def execPortDown (e : Nat) (s : State) : Host.Outcome State Fault Refusal := (withPort e (portDown e)).run s

/-- The link a port comes up with: PORT_RATE 1, 2, 3 fix 400G, 200G, 100G, which PORT_LINK reads as 3, 2, 1. -/
def linkOf (setting best : Nat) : Nat := if setting = 0 then best else 4 - setting

/-- A cage holds a module that is powered, from an Ethernet domain that is ON (R326). -/
def State.cagePowered (s : State) (e : Nat) : Bool := s.domain (216 + e) == domOn && AMap.get 0 s.ports.module e != 0 && !AMap.get false s.ports.lowPower e

/-- PORT_UP at the best rate of the far end (1 100G, 2 200G, 3 400G); a port of an empty or low-power cage, or one that failed its self-test (R387), stays down, and M5 runs auto-negotiation. -/
def execPortUp (e rate : Nat) (s : State) : Host.Outcome State Fault Refusal :=
  (withPort e (.get fun s =>
    .when (s.running 5 && s.cagePowered e && !s.boot.report.badPorts.contains e && 1 ≤ rate && rate ≤ 3 && s.reg 0x1401 (e + 1) ≤ 3)
      ((setPorts fun p => { p with best := AMap.put 0 p.best e rate }).andThen (setReg 0x1400 (e + 1) (linkOf (s.reg 0x1401 (e + 1)) rate))))).run s

/-- Largest class power a cage takes: class 7, 14 W. -/
def cageMaxDeciWatt : Nat := 140

/-- Whether the module of a cage stays in low-power mode. -/
def holdModule (e deciWatt : Nat) (low : Bool) : Prog :=
  setPorts fun p => { p with module := AMap.put 0 p.module e (deciWatt + 1), lowPower := AMap.put false p.lowPower e low }

/-- M5 powers a module that its cage may take, that its domain can feed and that M1 grants; else it stays in low-power mode (R326). -/
def powerCage (e deciWatt : Nat) : Prog :=
  .get fun s => if deciWatt > cageMaxDeciWatt || s.domain (216 + e) != domOn then holdModule e deciWatt true
  else needM1 (.cage e deciWatt) (holdModule e deciWatt true)
    (askGrant 5 actPort e (30 + 10 * ceilDiv deciWatt 54) (holdModule e deciWatt false) fun _ => holdModule e deciWatt true)

/-- CAGE_MODULE_CHANGE: M5 reads a cage; class 255 is an empty cage.  A module that the ledger cannot price stays in low-power mode with its port down. -/
def execCageModuleChange (e klass deciWatt : Nat) (s : State) : Host.Outcome State Fault Refusal :=
  (withPort e (.get fun s =>
    .when (s.running 5) (.seq [setReg 0x1022 (e + 1) klass, portDown e, releaseGrant actPort e,
      if klass = 255 then setPorts fun p => { p with module := AMap.put 0 p.module e 0, lowPower := AMap.put false p.lowPower e false }
      else powerCage e deciWatt]))).run s

/-- DROPPED_FRAME: counted on its port. -/
def execDroppedFrame (e : Nat) (s : State) : Host.Outcome State Fault Refusal := (withPort e (addReg 0x1420 (e + 1) 1)).run s

/-! ### Settings (R282, R285) -/

/-- A value written to element e + 1 of a two-element array of ports, with its largest value. -/
def portSetting (idx e v most : Nat) (k : Answer → Prog) : Prog :=
  if e > 1 then k (.refuse 1)
  else if v > most then k (.refuse 4)
  else (setReg idx (e + 1) v).andThen (k .ok)

/-- A port that is up goes on at the rate that PORT_RATE gives: 0 the best rate of the far end, as PORT_UP told it. -/
def renegotiate (e : Nat) : Prog :=
  .get fun s => .when (s.portUp e) (setReg 0x1400 (e + 1) (linkOf (s.reg 0x1401 (e + 1)) (AMap.get 0 s.ports.best e)))

/-- PORT_RATE takes effect on the next frame (R308); while M5 restarts it waits (R291). -/
def portRate (e v : Nat) (k : Answer → Prog) : Prog :=
  portSetting 0x1401 e v 3 fun a => (Prog.get fun s => .when (s.running 5 && a == .ok) (renegotiate e)).andThen (k a)
def macsecMode (e v : Nat) (k : Answer → Prog) : Prog := portSetting 0x1410 e v 2 k

def execPortRate (sid : Sid) (e v : Nat) (s : State) : Host.Outcome State Fault Refusal :=
  (ownerWrite sid (fun _ => .done) (portRate e v)).run s
def execMacsecMode (sid : Sid) (e v : Nat) (s : State) : Host.Outcome State Fault Refusal :=
  (ownerWrite sid (fun _ => .done) fun k => featureOr 8 sid k (macsecMode e v)).run s

/-- MACSEC_SAK: an association is installed; a transmit association is used from then on. -/
def macsecSak (e dir an key ssci salt : Nat) (k : Answer → Prog) : Prog :=
  .get fun s =>
    if e > 1 || dir > 1 || an > 1 then k (.refuse 4)
    else if s.reg 0x1410 (e + 1) = 0 then k (.refuse 3)
    else .seq [sakEvents, setPorts fun p => { p with
          assoc := AMap.put MacAssoc.none p.assoc (4 * e + 2 * dir + an)
            ⟨true, key, if s.reg 0x1410 (e + 1) = 2 then ssci else 0, if s.reg 0x1410 (e + 1) = 2 then salt else 0, 1⟩,
          tx := if dir = 0 then AMap.put 0 p.tx e (an + 1) else p.tx,
          warned := if dir = 0 then AMap.put false p.warned e false else p.warned },
        k .ok]

def execMacsecSak (sid : Sid) (e dir an : Nat) (key : BitVec 256) (ssci : BitVec 32) (salt : BitVec 96) (s : State) : Host.Outcome State Fault Refusal :=
  (ownerCmd 0x1411 sid (fun _ => .done) fun k => featureOr 8 sid k (macsecSak e dir an key.toNat ssci.toNat salt.toNat)).run s

/-! ### Addresses (R283, R284) -/

/-- A number from bytes in network order. -/
def beNat (bs : List Byte) : Nat := leNat bs.reverse

/-- Octet k of a MAC address, which PORT_MAC holds in bits [47:0], first octet lowest (R8). -/
def macOctet (mac k : Nat) : Nat := bits mac (8 * k + 7) (8 * k)

/-- The link-local address of a port, by modified EUI-64. -/
def linkLocal (mac : Nat) : Nat :=
  0xFE80 * 2 ^ 112 + (macOctet mac 0 ^^^ 2) * 2 ^ 56 + macOctet mac 1 * 2 ^ 48 + macOctet mac 2 * 2 ^ 40 + 0xFFFE * 2 ^ 24 +
    macOctet mac 3 * 2 ^ 16 + macOctet mac 4 * 2 ^ 8 + macOctet mac 5

/-- The global address of a port; zero for none. -/
def State.globalV6 (s : State) (e : Nat) : Nat := beNat (slice (s.blob 0x1406) (16 * e) 16)

def State.ownsV6 (s : State) (e a : Nat) : Bool := a == linkLocal (s.reg 0x1402 (e + 1)) || (a != 0 && a == s.globalV6 e)
def State.ownsV4 (s : State) (e a : Nat) : Bool := a != 0 && a == s.reg 0x1404 (e + 1)

/-- The payload of ANNOUNCE. -/
def announceBody (s : State) (e : Nat) : List Byte :=
  leBytes 2 0x0100 ++ leBytes 1 (s.reg 0x1002) ++ leBytes 1 (boolNat (s.owner.sid != 0) + 2 * s.reg 0x1300) ++ leBytes 8 deviceFeatures ++
    leBytes 4 (s.reg 0x9002) ++ leBytes 1 (s.reg 0x9004) ++ leBytes 1 e ++ leBytes 2 0

/-- ANNOUNCE of a port, once a second; its TYPE is not given. -/
def execAnnounce (e : Nat) (s : State) : Host.Outcome State Fault Refusal :=
  (withPort e (.get fun s =>
    let t := max s.now (AMap.get 0 s.ticks (tkAnnounce + 100 * e) + 1000000000)
    .when (s.portUp e) (.seq [.one (.time t), .one (.tick (tkAnnounce + 100 * e) t),
      drawFree fun typ => .get fun s => .seq [
        .one (.sent ⟨e, 0xFF02 * 2 ^ 112 + 1, 47810, 0xC0, typ % 256, 0, 0, 0, 0, announceBody s e⟩),
        .when (s.reg 0x1404 (e + 1) != 0)
          (.one (.sent ⟨e, 0xFFFFFFFF, 47810, 0xC0, typ % 256, 0, 0, 0, 0, announceBody s e⟩))],
      sakEvents]))).run s

/-- A frame that is no UDP datagram. -/
def plainFrame (e addr typ : Nat) (payload : List Byte) : Prog := .one (.sent ⟨e, addr, 0, 0, typ, 0, 0, 0, 0, payload⟩)

/-- ARP_REQUEST for the port's IPv4 address: answered with its MAC address. -/
def execArpRequest (e : Nat) (target sender : BitVec 32) (s : State) : Host.Outcome State Fault Refusal :=
  (arriving e (.get fun s => .when (s.ownsV4 e target.toNat) (plainFrame e sender.toNat 1 (leBytes 6 (s.reg 0x1402 (e + 1)))))).run s

/-- NEIGHBOR_SOLICITATION for one of the port's IPv6 addresses. -/
def execNeighborSolicitation (e : Nat) (target sender : BitVec 128) (s : State) : Host.Outcome State Fault Refusal :=
  (arriving e (.get fun s => .when (s.ownsV6 e target.toNat) (plainFrame e sender.toNat 2 (leBytes 6 (s.reg 0x1402 (e + 1)))))).run s

/-- ECHO_REQUEST to an address of the port: its payload comes back. -/
def execEchoRequest (e : Nat) (v6 : Bool) (dst src : BitVec 128) (payload : List Byte) (s : State) : Host.Outcome State Fault Refusal :=
  (arriving e (.get fun s =>
    .when (if v6 then s.ownsV6 e dst.toNat else s.ownsV4 e dst.toNat) (plainFrame e src.toNat (if v6 then 4 else 3) payload))).run s

end Sys2Proof.Machine
end

