-- ==== Sys2Proof/Machine/Image.lean ====
section
/-! DEFINITION. The image channel: sources, fetches and what arrives (R209, R302, R303). -/

namespace Sys2Proof.Machine

def setImage (f : ImageCh → ImageCh) : Prog := .get fun s => .one (.image (f s.image))
def setLoad (f : Load → Load) : Prog := .get fun s => .one (.load (f s.load))

/-! ### Ranges -/

/-- Adds [a, b) to disjoint rising ranges, joining those it meets. -/
def addRange (rs : List (Nat × Nat)) (a b : Nat) : List (Nat × Nat) :=
  if b ≤ a then rs
  else
    let meets := rs.filter fun r => r.1 ≤ b && a ≤ r.2
    let lo := meets.foldl (fun m r => min m r.1) a
    let hi := meets.foldl (fun m r => max m r.2) b
    (rs.filter fun r => r.2 < a) ++ [(lo, hi)] ++ rs.filter fun r => b < r.1

/-- [a, b) has arrived whole. -/
def covers (rs : List (Nat × Nat)) (a b : Nat) : Bool := b ≤ a || rs.any fun r => r.1 ≤ a && b ≤ r.2

/-- What of [a, b) has not arrived, given rising ranges. -/
def gaps : List (Nat × Nat) → Nat → Nat → List (Nat × Nat)
  | [], a, b => if a < b then [(a, b)] else []
  | r :: rs, a, b => (if a < min r.1 b then [(a, min r.1 b)] else []) ++ gaps rs (max a r.2) b

/-! ### Sources (R209, R303) -/

/-- One IMAGE_SOURCE record: the remote address (an IPv4-mapped one as its 32-bit address) and UDP port. -/
def sourceRec (bs : List Byte) : Nat × Nat :=
  let a := beNat (bs.take 16)
  (if a / 2 ^ 32 = 0xFFFF then a % 2 ^ 32 else a, field bs 16 2)

def State.sourceRecs (s : State) : List (Nat × Nat) :=
  let b := s.blob 0x1409
  (List.range (b.length / 18)).map fun i => sourceRec (slice b (18 * i) 18)

/-- The owner's session. -/
def State.ownerSession (s : State) : Option Session := (s.colSid s.owner.sid).map (s.session false)

/-- The owner's address on a port, else on its present path. -/
def State.ownerAddr (s : State) (e : Nat) : Option (Nat × Nat) :=
  s.ownerSession.bind fun x => (AMap.get none x.paths e).or (AMap.get none x.paths x.cur)

/-- The port of the next host request: the ports take turns when both are up. -/
def State.hostPort (s : State) : Option Nat :=
  if s.portUp 0 && s.portUp 1 then some (1 - s.image.port)
  else if s.portUp 0 then some 0 else if s.portUp 1 then some 1 else none

/-- Host i of the list, reached through a port; with an empty list the one host is the owner. -/
def State.hostPath (s : State) (i e : Nat) : Option Path :=
  (match s.sourceRecs with
    | [] => s.ownerAddr e
    | rs => rs[i % rs.length]?).map fun (a : Nat × Nat) => ⟨e, a.1, a.2⟩

/-- The links that may serve an object: in the mask, up, and leading to a wafer that reports the digest, lowest first. -/
def State.linkSources (s : State) (digest : List Byte) : List Nat :=
  (List.range 32).filter fun l => bit s.load.sources 1 && bit s.load.links l && s.reg 0x9010 (l + 1) == 2 && Config.neighbourHolds l digest

/-- The permitted sources of a transfer, in order: (link, none) or (_, host). -/
def State.sourcesFor (s : State) (kind : Nat) (digest : List Byte) : List (Nat ⊕ Nat) :=
  let hosts : List (Nat ⊕ Nat) := if s.sourceRecs.isEmpty then (if s.ownerSession.isSome then [.inr 0] else [])
    else (List.range s.sourceRecs.length).map .inr
  if kind ≤ 2 then (s.linkSources digest).map .inl ++ (if bit s.load.sources 0 then hosts else [])
  else hosts

/-- Where the n-th request of a transfer goes. -/
def State.sourceAt (s : State) (kind : Nat) (digest : List Byte) (n : Nat) : Option Path :=
  let xs := s.sourcesFor kind digest
  match xs[n % max 1 xs.length]? with
  | some (.inl l) => some ⟨2 + l, 0, 0⟩
  | some (.inr h) => s.hostPort.bind (s.hostPath h)
  | none => none

/-- A datagram comes from an address that may send DATA. -/
def State.fromSource (s : State) (x : Xfer) (p : Path) : Bool :=
  (s.sourcesFor x.kind x.digest).any fun o => match o with
    | .inl l => p.port == 2 + l
    | .inr h => p.port < 2 && (match s.hostPath h p.port with
      | some q => q.addr == p.addr && q.udp == p.udp
      | none => false)

/-! ### Requests -/

def imageFrame (p : Path) (typ : Nat) (payload : List Byte) : Update := .sent ⟨p.port, p.addr, p.udp, 0xC2, typ, 0, 0, 0, 0, payload⟩

/-- A FETCH of a range. -/
def fetchRange (x : Xfer) (p : Path) (r : Nat × Nat) : Update :=
  imageFrame p 1 (leBytes 4 x.xid ++ leBytes 1 x.kind ++ leBytes 3 0 ++ slice x.digest 0 32 ++ leBytes 4 x.num ++ leBytes 8 r.1 ++ leBytes 4 (r.2 - r.1))

/-- The end of what is sought now: the head of an object whose length is not known, else all of it. -/
def Xfer.stop (x : Xfer) : Nat := if x.len = 0 then 4096 else x.len

def State.xfer (s : State) (xid : Nat) : Option Xfer := s.image.xfers.find? fun x => x.xid == xid

def setXfer (x : Xfer) : Prog := setImage fun i => { i with xfers := i.xfers.map fun y => if y.xid == x.xid then x else y }
def dropXfer (xid : Nat) : Prog := setImage fun i => { i with xfers := i.xfers.filter fun y => y.xid != xid }

/-- Asks the present source of a transfer for what is missing; with no source nothing goes out. -/
def askMissing (xid : Nat) : Prog :=
  .get fun s => match s.xfer xid with
    | none => .done
    | some x =>
      match s.sourceAt x.kind x.digest x.tried with
      | none => setXfer { x with dest := none }
      | some p => .seq [setXfer { x with dest := some p }, .when (p.port < 2) (setImage fun i => { i with port := p.port }),
          .ups ((gaps x.runs 0 x.stop).map (fetchRange x p))]

/-- Starts a transfer. -/
def startXfer (kind : Nat) (digest : List Byte) (num len : Nat) : Prog :=
  .get fun s =>
    let xid := (s.image.xid + 1) % 2 ^ 32
    .seq [setImage fun i => { i with xid := xid, xfers := i.xfers ++ [⟨xid, kind, digest, num, len, 0, none, s.now, s.now, 0, [], []⟩] }, askMissing xid]

/-- A new copy from the next source, under a new XID. -/
def nextCopy (x : Xfer) : Prog :=
  .get fun s =>
    let xid := (s.image.xid + 1) % 2 ^ 32
    .seq [setImage fun i => { i with xid := xid, xfers := i.xfers.map fun y => if y.xid == x.xid then
        { x with xid := xid, len := if x.kind < 2 then 0 else x.len, tried := x.tried + 1, failed := x.failed + 1, last := s.now, runs := [], buf := [] } else y },
      .when (x.kind < 3) (addReg 0xA006 0 1), askMissing xid]

/-! ### What arrives -/

/-- Writes bytes of the staged binary, block by block of 4 KiB. -/
def stagedWrites (region : Nat) : Nat → Nat → List Byte → List Update
  | 0, _, _ => []
  | _, _, [] => []
  | n + 1, off, bs =>
    let k := 4096 - off % 4096
    .hbm (stagedAddr region off) (bs.take k) :: stagedWrites region n (off + k) (bs.drop k)

/-- Stores arrived bytes of a transfer: a binary and a shard in HBM, anything else beside the transfer. -/
def storeData (x : Xfer) (off : Nat) (bs : List Byte) : Prog :=
  .get fun s =>
    if x.kind = 0 then .ups (stagedWrites s.load.cand.region 4 off bs)
    else if x.kind = 2 then
      let e := shardEntry s.load.cand.manifest x.num
      .one (.hbm (hbmAddr (shPort e) (regionBase s.load.cand.region + shOff e + off)) bs)
    else .done

/-- A transfer with bytes added. -/
def Xfer.add (x : Xfer) (now off : Nat) (bs : List Byte) : Xfer :=
  { x with last := now, runs := addRange x.runs off (off + bs.length),
           buf := if x.kind = 0 || x.kind = 2 then x.buf else Mem.write x.buf off bs }

def Xfer.bytes (x : Xfer) : List Byte := Mem.read x.buf 0 x.len

/-- The length that the head of a binary or a manifest gives, at most 1 GiB. -/
def State.headLength (s : State) (x : Xfer) : Option Nat :=
  if x.kind = 0 then (if covers x.runs 0 24 then some (min (2 ^ 30) (leNat (s.staged s.load.cand.region 16 8) + 2828)) else none)
  else if covers x.runs 0 12 then some (min (2 ^ 30) (64 + 96 * Mem.nat x.buf 8 4 + 2828)) else none

/-- After bytes have come: a known head gives the length and the object is fetched in full; a whole object goes to `whole`. -/
def afterData (xid : Nat) (whole : Xfer → Prog) : Prog :=
  .get fun s => match s.xfer xid with
    | none => .done
    | some x =>
      if x.len = 0 then
        match s.headLength x with
        | none => .done
        | some n => .when (covers x.runs 0 (min n 4096)) ((setXfer { x with len := n, runs := [], buf := [] }).andThen (askMissing xid))
      else .when (covers x.runs 0 x.len) (whole x)

end Sys2Proof.Machine
end

