-- ==== Sys2Proof/Machine/Tables.lean ====
section
/-! DEFINITION. Decoding tables: their forms, their store and how they are loaded (R245, R249, R251, R254). -/

namespace Sys2Proof.Machine

def setTables (f : Tables → Tables) : Prog := .get fun s => .one (.tables (f s.tables))

/-! ### The store (R254) -/

def tkSampling : Nat := 0
def tkGrammar : Nat := 1
def tkStop : Nat := 2
def tableIds (kind : Nat) : Nat := [4096, 8, 256].getD kind 0
def tableSize (kind : Nat) : Nat := [64, 0x400000, 8464].getD kind 0
def tableAddr (kind id : Nat) : Nat :=
  if kind = 0 then 0x0C900000 + 64 * id else if kind = 1 then 0x0C940000 + 0x400000 * id else 0x0E940000 + 8464 * id
def tableKey (kind id : Nat) : Nat := kind * 65536 + id
def State.tableLoaded (s : State) (kind id : Nat) : Bool := !(AMap.get [] s.tables.digests (tableKey kind id)).isEmpty

/-- The table whose place holds an address. -/
def tableOfAddr (a : Nat) : Option (Nat × Nat) :=
  if 0x0C900000 ≤ a && a < 0x0C940000 then some (0, (a - 0x0C900000) / 64)
  else if 0x0C940000 ≤ a && a < 0x0E940000 then some (1, (a - 0x0C940000) / 0x400000)
  else if 0x0E940000 ≤ a && a < 0x0E940000 + 8464 * 256 then some (2, (a - 0x0E940000) / 8464)
  else none

/-! ### Forms: the byte offset of the first fault -/

/-- The first fault of a list. -/
def firstFault : List (Option Nat) → Option Nat
  | [] => none
  | some f :: _ => some f
  | none :: r => firstFault r

def want (ok : Bool) (off : Nat) : Option Nat := if ok then none else some off

/-- The first byte of [off, off + n) that is not zero. -/
def wantZero (b : List Byte) (off n : Nat) : Option Nat := ((List.range n).map (off + ·)).find? fun i => field b i 1 != 0

/-- FP32: finite. -/
def f32Finite (x : Nat) : Bool := bits x 30 23 != 255
/-- FP32: finite and greater than zero. -/
def f32Pos (x : Nat) : Bool := f32Finite x && !bit x 31 && x != 0

/-- The first fault of a body that must have `len` bytes: one that lies before its end, or its end where it ends early. -/
def withEnd (b : List Byte) (len : Nat) (f : Option Nat) : Option Nat :=
  if b.length < len then some (min (f.getD b.length) b.length) else f

/-- A field of n bytes at an offset: judged where the body holds it whole. -/
def wantAt (b : List Byte) (off n : Nat) (ok : Bool) : Option Nat := want (ok || b.length < off + n) off

/-- A sampling table (R245). -/
def samplingFault (b : List Byte) : Option Nat :=
  let sample := field b 0 1 == 1
  withEnd b 64 (firstFault [wantAt b 0 1 (field b 0 1 < 2), wantAt b 1 1 (field b 1 1 < 8), wantAt b 2 2 (1 ≤ field b 2 2 && field b 2 2 ≤ 256),
    wantAt b 4 4 (!sample || f32Pos (field b 4 4)), wantAt b 8 4 (!sample || (f32Pos (field b 8 4) && field b 8 4 ≤ 0x3F800000)),
    wantAt b 12 4 (f32Pos (field b 12 4) && 0x3F800000 ≤ field b 12 4), wantAt b 16 2 (1 ≤ field b 16 2 && field b 16 2 ≤ 4096),
    wantAt b 18 2 (field b 18 2 < 8 || field b 18 2 == 0xFFFF), wantAt b 20 2 (field b 20 2 < 256 || field b 20 2 == 0xFFFF), wantZero b 22 2, wantZero b 32 32])

/-- Where the parts of a grammar image lie (R249). -/
def grStates (b : List Byte) : Nat := field b 8 4
def grStart (b : List Byte) : Nat := field b 12 4
def grRows (b : List Byte) : Nat := field b 16 4
def grExcs (b : List Byte) : Nat := field b 20 4
def grExcOff (b : List Byte) : Nat := 32 + 16 * grStates b
def grRowOff (b : List Byte) : Nat := grExcOff b + 8 * grExcs b
def grPoolOff (b : List Byte) : Nat := grRowOff b + 4 * grRows b
def grLen (b : List Byte) : Nat := grPoolOff b + field b 24 4
/-- Where row r begins. -/
def grRowAt (b : List Byte) (r : Nat) : Nat := grPoolOff b + field b (grRowOff b + 4 * r) 4
def grEnd : Nat := 0xFFFFFFFF

/-- A token id that a mask row allows. -/
def rowAllows (b : List Byte) (r id : Nat) : Bool :=
  let o := grRowAt b r
  let h := field b o 4
  if bit h 31 then id < 131072 && bit (field b (o + 4 + id / 8) 1) (id % 8)
  else (List.range (h % 2 ^ 31)).any fun i => field b (o + 4 + 8 * i) 4 ≤ id && id ≤ field b (o + 8 + 8 * i) 4

def rowFault (b : List Byte) (r : Nat) : Option Nat :=
  let o := grRowAt b r
  let h := field b o 4
  let n := h % 2 ^ 31
  if o + 4 > b.length then some (grRowOff b + 4 * r)
  else if bit h 31 then
    firstFault [want (n == 0) o, want (o + 4 + 16384 ≤ b.length) o, want ((slice b (o + 4) 16384).any (· != 0)) (o + 4)]
  else firstFault (want (n != 0 && o + 4 + 8 * n ≤ b.length) o :: (List.range n).map fun i =>
    let lo := field b (o + 4 + 8 * i) 4
    want (lo ≤ field b (o + 8 + 8 * i) 4 && (i == 0 || field b (o + 8 + 8 * (i - 1)) 4 + 1 < lo)) (o + 4 + 8 * i))

def stRow (b : List Byte) (q : Nat) : Nat := field b (32 + 16 * q) 4
def stNext (b : List Byte) (q : Nat) : Nat := field b (36 + 16 * q) 4
def stExc (b : List Byte) (q : Nat) : Nat := field b (40 + 16 * q) 4
def stFallback (b : List Byte) (q : Nat) : Nat := bits (field b (44 + 16 * q) 4) 31 15
def stNexc (b : List Byte) (q : Nat) : Nat := bits (field b (44 + 16 * q) 4) 14 2

def stateGood (b : List Byte) (t : Nat) : Bool := t < grStates b || t == grEnd

def stateFault (b : List Byte) (q : Nat) : Option Nat :=
  let o := 32 + 16 * q
  firstFault [want (stRow b q < grRows b) o, want (stateGood b (stNext b q)) (o + 4), want (stExc b q + stNexc b q ≤ grExcs b) (o + 8),
    want (field b (o + 12) 4 % 4 == 0) (o + 12), want (rowAllows b (stRow b q) (stFallback b q)) (o + 12)]

def excFault (b : List Byte) (q : Nat) : Option Nat :=
  firstFault ((List.range (stNexc b q)).map fun i =>
    let o := grExcOff b + 8 * (stExc b q + i)
    firstFault [want (rowAllows b (stRow b q) (field b o 4) && (i == 0 || field b (o - 8) 4 < field b o 4)) o, want (stateGood b (field b (o + 4) 4)) (o + 4)])

def grammarFault (b : List Byte) : Option Nat :=
  withEnd b 32 (firstFault [wantAt b 0 4 (b.take 4 == ascii "CRGA"), wantAt b 4 2 (field b 4 2 == 1), wantZero b 6 2,
    wantAt b 8 4 (1 ≤ grStates b && grStates b ≤ 65536), wantAt b 12 4 (grStart b < grStates b), wantAt b 16 4 (1 ≤ grRows b && grRows b ≤ 65536), wantZero b 28 4,
    want (grLen b == b.length) (min (grLen b) b.length), firstFault ((List.range (grStates b)).map (stateFault b)),
    firstFault ((List.range (grStates b)).map (excFault b)), firstFault ((List.range (grRows b)).map (rowFault b))])

/-- The string records of a stop table from an offset on: offsets of the records, and where a fault lies (R251). -/
def stopFaults (b : List Byte) : Nat → Nat → Option Nat
  | 0, o => want (o == b.length) (min o b.length)
  | n + 1, o =>
    (firstFault [want (o + 4 ≤ b.length) b.length, want (1 ≤ field b o 1 && field b o 1 ≤ 32) o, want (field b (o + 1) 1 < 2) (o + 1), wantZero b (o + 2) 2,
      want (o + 4 + 4 * field b o 1 ≤ b.length) b.length]).or (stopFaults b n (o + 4 + 4 * field b o 1))

def stopFault (b : List Byte) : Option Nat :=
  withEnd b 16 (firstFault [wantAt b 0 4 (b.take 4 == ascii "CRST"), wantAt b 4 2 (field b 4 2 == 1), wantAt b 6 1 (1 ≤ field b 6 1 && field b 6 1 ≤ 64),
    wantZero b 7 9, stopFaults b (field b 6 1) 16])

def tableFaultOf (kind : Nat) (b : List Byte) : Option Nat :=
  if b.length > tableSize kind then some (tableSize kind)
  else if kind = 0 then samplingFault b else if kind = 1 then grammarFault b else stopFault b

/-! ### Loading (R254) -/

/-- An id that a non-FREE entry names, by its SAMP or by that table's GRAMMAR or STOP. -/
def State.tableNamed (s : State) (kind id : Nat) : Bool :=
  s.entries.any fun e =>
    let t := tableAddr 0 (s.samp e)
    if kind = 0 then s.samp e == id else if kind = 1 then Mem.nat s.sm (t + 18) 2 == id else Mem.nat s.sm (t + 20) 2 == id

/-- Puts a body in its place. -/
def storeTable (kind id : Nat) (body : List Byte) : Prog :=
  .seq [.one (.smZero (tableAddr kind id) (tableSize kind)), .one (.sm (tableAddr kind id) body),
    setTables fun t => { t with
      digests := AMap.put [] t.digests (tableKey kind id) (shake256 32 body)
      lens := AMap.put 0 t.lens (tableKey kind id) body.length },
    .get fun s => setReg 0x5502 0 (s.tables.digests.countP fun kv => kv.1 < 65536)]

def tableResult (status kind id off : Nat) : Prog := setReg 0x5501 0 (status * 2 ^ 56 + kind * 2 ^ 48 + id * 2 ^ 32 + off % 2 ^ 32)

/-- Judges a body and stores it: the status and the offset of the first fault. -/
def judgeTable (s : State) (kind id : Nat) (digest body : List Byte) : Nat × Nat :=
  if shake256 32 body != digest then (0x43, 0)
  else match tableFaultOf kind body with
    | some o => (0x43, o)
    | none => if s.tableNamed kind id then (0x41, 0) else (0, 0)

/-- TABLE_LOAD. -/
def tableLoad (kind id len : Nat) (digest : List Byte) (k : Answer → Prog) : Prog :=
  .get fun s =>
    if kind > 2 || id ≥ tableIds kind then k (.refuse 4)
    else if s.tables.loading.isSome then k .busy
    else if s.tableNamed kind id then (tableResult 0x41 kind id 0).andThen (k .busy)
    else if len > tableSize kind then (tableResult 0x43 kind id (tableSize kind)).andThen (k (.code 0x43))
    else if len = 0 then
      let r := judgeTable s kind id digest []
      (tableResult r.1 kind id r.2).andThen (k (.code r.1))
    else .seq [setTables fun t => { t with loading := some (kind, id, len, digest, s.now) }, startXfer 3 digest (tableKey kind id) len, k .later]

def execTableLoad (sid : Sid) (kind id len : Nat) (digest : BitVec 256) (s : State) : Host.Outcome State Fault Refusal :=
  (ownerCmd 0x5500 sid (fun _ => .done) (tableLoad kind id len (leBytes 32 digest.toNat))).run s

/-- A TABLE_LOAD ends. -/
def endTableLoad (status off : Nat) : Prog :=
  .get fun s => match s.tables.loading with
    | none => .done
    | some (kind, id, _) => .seq [setTables fun t => { t with loading := none },
        setImage fun i => { i with xfers := i.xfers.filter fun x => !(x.kind == 3 && x.num < 2 ^ 20) },
        tableResult status kind id off, finishCmd 0x5500 status]

/-- The body of a TABLE_LOAD has arrived. -/
def tableArrived (body : List Byte) : Prog :=
  .get fun s => match s.tables.loading with
    | none => .done
    | some (kind, id, _, digest, _) =>
      let r := judgeTable s kind id digest body
      (Prog.when (r.1 == 0) (storeTable kind id body)).andThen (endTableLoad r.1 r.2)

/-- TABLE_BODY_TIMEOUT: 2 s after the command. -/
def execTableBodyTimeout (s : State) : Host.Outcome State Fault Refusal :=
  (Prog.get fun s => match s.tables.loading with
    | none => .done
    | some (_, _, _, _, t) => .seq [.one (.time (t + 2000000000)), endTableLoad 0x44 0]).run s

/-! ### The TABLES section at a start beat (R254, R259) -/

/-- One record: loaded, or skipped and logged with the status it would have received. -/
def loadRecord (kind id : Nat) (body : List Byte) : Prog :=
  .get fun s =>
    let r := if kind > 2 || id ≥ tableIds kind then (0xFF, 0) else judgeTable s kind id (shake256 32 body) body
    if r.1 = 0 then storeTable kind id body
    else appendLog (dutySrc dutyDecoding) 0x57 3 (leBytes 1 kind ++ leBytes 2 id ++ leBytes 1 r.1 ++ leBytes 4 r.2)

/-- The records of a TABLES section: (kind, id, offset of the body in the binary, length). -/
def tableRecords (s : State) (m : Model) : Nat → Nat → List (Nat × Nat × Nat × Nat)
  | 0, _ => []
  | n + 1, o =>
    if o ≥ s.secOff m 14 + s.secLen m 14 then []
    else (s.bin m o 1, s.bin m (o + 1) 2, o + 7, s.bin m (o + 3) 4) :: tableRecords s m n (o + 7 + s.bin m (o + 3) 4)

def State.tableRecs (s : State) (m : Model) : List (Nat × Nat × Nat × Nat) := tableRecords s m (s.secLen m 14 / 7 + 1) (s.secOff m 14)

def loadTables (m : Model) : Prog := .get fun s => .each (s.tableRecs m) fun r => loadRecord r.1 r.2.1 (s.staged m.region r.2.2.1 r.2.2.2)

/-! ### A damaged table (R49) -/

/-- A table with an uncorrectable word is put right from the staged binary, or fetched again from the image sources. -/
def refetchTable (kind id : Nat) : Prog :=
  .get fun s =>
    let digest := AMap.get [] s.tables.digests (tableKey kind id)
    let held := [0, 1].findSome? fun i => if (s.model i).running then
        (s.tableRecs (s.model i)).find? (fun r => r.1 == kind && r.2.1 == id && shake256 32 (s.staged (s.model i).region r.2.2.1 r.2.2.2) == digest) |>.map
          fun r => s.staged (s.model i).region r.2.2.1 r.2.2.2
      else none
    if digest.isEmpty then .one (.smZero (tableAddr kind id) (tableSize kind))
    else match held with
      | some body => storeTable kind id body
      | none => .when (!s.tables.refetch.any fun r => r.1 == kind && r.2.1 == id) (.seq [
          setTables fun t => { t with refetch := t.refetch ++ [(kind, id, s.now)] }, startXfer 3 digest (2 ^ 20 + tableKey kind id) (AMap.get 0 s.tables.lens (tableKey kind id))])

end Sys2Proof.Machine
end

