-- ==== Sys2Proof/Machine/Sampling.lean ====
section
/-! DEFINITION. Choosing tokens: candidate lists, draws, sampling, grammars, stop conditions and acceptance (R244 to R256). -/

namespace Sys2Proof.Machine

/-! ### The candidate list (R244) -/

/-- The ranking of candidates (id, FP32 value): value descending, NaN below minus infinity, -0 below +0, then the lower id. -/
def ranksAbove (a b : Nat × Nat) : Bool :=
  Fmt.fp32.orderKey a.2 > Fmt.fp32.orderKey b.2 || (Fmt.fp32.orderKey a.2 == Fmt.fp32.orderKey b.2 && a.1 < b.1)

def rankIn (x : Nat × Nat) : List (Nat × Nat) → List (Nat × Nat)
  | [] => [x]
  | y :: ys => if ranksAbove x y then x :: y :: ys else y :: rankIn x ys

def rankAll (xs : List (Nat × Nat)) : List (Nat × Nat) := xs.foldl (fun acc x => rankIn x acc) []

/-! ### Draws (R246) -/

/-- The draw d at position p of a stream seed: an exact FP32 value in [0, 1). -/
def drawU (seed p d : Nat) : Nat := Fmt.fp32.round false (splitMix seed (4 * p + d) / 2 ^ 40) 1 (-24)

/-- FP32 a < b for values that are not NaN. -/
def fpBelow (a b : Nat) : Bool :=
  let z (x : Nat) : Nat := if x = 2 ^ 31 then 0 else x
  !Fmt.fp32.isNan a && !Fmt.fp32.isNan b && Fmt.fp32.orderKey (z a) < Fmt.fp32.orderKey (z b)

def fpInf : Nat := 0x7F800000

/-! ### A sampling table's fields (R245) -/

def tSample (t : List Byte) : Bool := field t 0 1 == 1
def tTagmix (t : List Byte) : Bool := bit (field t 1 1) 0
def tPenalty (t : List Byte) : Bool := bit (field t 1 1) 1
/-- ACCEPT; a greedy table behaves as MATCH. -/
def tReject (t : List Byte) : Bool := tSample t && bit (field t 1 1) 2
def tTopk (t : List Byte) : Nat := field t 2 2
def tTemp (t : List Byte) : Nat := field t 4 4
def tTopp (t : List Byte) : Nat := field t 8 4
def tPen (t : List Byte) : Nat := field t 12 4
def tPwin (t : List Byte) : Nat := field t 16 2
def tGrammar (t : List Byte) : Nat := field t 18 2
def tStop (t : List Byte) : Nat := field t 20 2
/-- The stream seed of a request. -/
def streamSeed (t : List Byte) (tag : Nat) : Nat :=
  if tTagmix t then field t 24 8 ^^^ (tag * 0x9E3779B97F4A7C15 % 2 ^ 64) else field t 24 8

/-! ### Grammars (R249, R250) -/

/-- The state after a token; END (and no grammar) stays. -/
def grNext (g : List Byte) (q tok : Nat) : Nat :=
  if g.isEmpty || q = grEnd then q
  else match (List.range (stNexc g q)).find? fun i => field g (grExcOff g + 8 * (stExc g q + i)) 4 == tok with
    | some i => field g (grExcOff g + 8 * (stExc g q + i) + 4) 4
    | none => stNext g q

/-- The state after some tokens from START on (R253). -/
def grAfter (g : List Byte) (toks : List Nat) : Nat := toks.foldl (grNext g) (grStart g)

/-- Ids that the state allows; past END nothing is delivered, so nothing is forbidden there. -/
def grAllows (g : List Byte) (q id : Nat) : Bool := g.isEmpty || q == grEnd || rowAllows g (stRow g q) id

/-! ### The choice (R247, R248) -/

/-- A choice: the token, its kept distribution (id, FP32), and what is logged: 1 a grammar fallback, 2 no finite candidate; the number of candidates that were not finite. -/
structure Choice where
  tok : Nat
  kept : List (Nat × Nat)
  event : Nat
  bad : Nat
  deriving DecidableEq, Repr

def sure (tok : Nat) : Choice := ⟨tok, [(tok, 0x3F800000)], 0, 0⟩

/-- Cumulative sums, each rounded. -/
def cumSums : Nat → List Nat → List Nat
  | _, [] => []
  | acc, w :: ws => let c := Fmt.fp32.add acc w; c :: cumSums c ws

/-- The least index whose sum exceeds t, or the last. -/
def pickAbove (cum : List Nat) (t : Nat) : Nat := (cum.findIdx? fun c => fpBelow t c).getD (cum.length - 1)

/-- The penalty (R248): ids of the window become l / PEN or l * PEN. -/
def penalise (pen : Nat) (window : List Nat) (xs : List (Nat × Nat)) : List (Nat × Nat) :=
  rankAll (xs.map fun x => if window.contains x.1 then (x.1, if fpBelow 0 x.2 then Fmt.fp32.div x.2 pen else Fmt.fp32.mul x.2 pen) else x)

/-- Chooses a token from a candidate list; u is the draw, window the ids of the penalty window. -/
def choose (t g : List Byte) (q : Nat) (window : List Nat) (cands : List (Nat × Nat)) (u : Nat) : Choice :=
  let list := if tPenalty t then penalise (tPen t) window cands else cands
  let ok := (list.filter fun x => grAllows g q x.1).filter fun x => !Fmt.fp32.isNan x.2 && x.2 != fpInf + 2 ^ 31
  match ok with
  | [] =>
    if g.isEmpty || q = grEnd then { sure (cands.headD (0, 0)).1 with event := 2, bad := list.length }
    else { sure (stFallback g q) with event := 1 }
  | first :: _ =>
    if first.2 = fpInf then sure first.1
    else if !tSample t then sure first.1
    else
      let xs := ok.take (tTopk t)
      let z := xs.map fun x => Fmt.fp32.div x.2 (tTemp t)
      let w := z.map fun v => fexp32 (Fmt.fp32.sub v (z.headD 0))
      let cum := cumSums 0 w
      let last := cum.getLastD 0
      if Fmt.fp32.isNan last || last = fpInf || !fpBelow 0 last then sure first.1
      else
        let bound := Fmt.fp32.mul (tTopp t) last
        let n := (cum.findIdx? fun c => !fpBelow c bound).getD (cum.length - 1) + 1
        let total := cum.getD (n - 1) 0
        let i := pickAbove (cum.take n) (Fmt.fp32.mul u total)
        ⟨(xs.getD i (0, 0)).1, List.zipWith (fun x v => (x.1, Fmt.fp32.div v total)) (xs.take n) w, 0, 0⟩

/-- The probability of an id under a kept distribution. -/
def probOf (d : List (Nat × Nat)) (id : Nat) : Nat :=
  match d.find? fun x => x.1 == id with
  | some x => x.2
  | none => 0

/-! ### Stop conditions (R251, R252) -/

/-- The string records of a stop table: (INCLUDE, ids). -/
def stopStrings (b : List Byte) : Nat → Nat → List (Bool × List Nat)
  | 0, _ => []
  | n + 1, o => (bit (field b (o + 1) 1) 0, (List.range (field b o 1)).map fun i => field b (o + 4 + 4 * i) 4) ::
      stopStrings b n (o + 4 + 4 * field b o 1)

/-- The first stop string that some generated tokens end with: whether it is included, and its length. -/
def stopHit (b : List Byte) (gen : List Nat) : Option (Bool × Nat) :=
  if b.isEmpty then none
  else ((stopStrings b (field b 6 1) 16).find? fun r => r.2.isSuffixOf gen).map fun r => (r.1, r.2.length)

/-- How a batch ends: tokens kept, tokens withheld at its end, the end reason. -/
structure Cut where
  kept : Nat
  withheld : Nat
  reason : Option Nat
  deriving DecidableEq, Repr

/-- Examines the tokens of a batch in order after the tokens generated before (R252); q is the grammar state, left the tokens up to MAX. -/
def examine (g stop : List Byte) (left : Nat) : List Nat → List Nat → Nat → Nat → Cut
  | [], _, _, n => ⟨n, 0, none⟩
  | t :: ts, gen, q, n =>
    let q' := grNext g q t
    if !g.isEmpty && q' = grEnd then ⟨n + 1, 0, some 0⟩
    else match stopHit stop (gen ++ [t]) with
      | some r => ⟨n + 1, if r.1 then 0 else min r.2 (n + 1), some 0⟩
      | none => if n + 1 ≥ left then ⟨n + 1, 0, some 1⟩ else examine g stop left ts (gen ++ [t]) q' (n + 1)

/-! ### The tables of a request -/

def State.sampTable (s : State) (e : Nat) : List Byte := Mem.read s.sm (tableAddr 0 (s.samp e)) 64
def State.tableBody (s : State) (kind id : Nat) : List Byte := Mem.read s.sm (tableAddr kind id) (AMap.get 0 s.tables.lens (tableKey kind id))
/-- The grammar and the stop table of a request; empty where it has none. -/
def State.grammarOf (s : State) (e : Nat) : List Byte :=
  let g := tGrammar (s.sampTable e)
  if g = 0xFFFF then [] else s.tableBody 1 g
def State.stopOf (s : State) (e : Nat) : List Byte :=
  let g := tStop (s.sampTable e)
  if g = 0xFFFF then [] else s.tableBody 2 g

/-- The generated tokens of a request. -/
def State.genTokens (s : State) (e : Nat) : List Nat := s.tokens e (s.ePrompt e) (s.generated e)

/-- The ids of the penalty window of position p, where `extra` follow the history up to position a. -/
def windowIds (s : State) (e pwin a : Nat) (extra : List Nat) (p : Nat) : List Nat :=
  (List.range (min pwin p)).map fun i =>
    let x := p - 1 - i
    if x < a then s.token e x else extra.getD (x - a) 0

/-- The choice at position p of a request, when `extra` follow the delivered positions; d is the purpose of the draw. -/
def State.chooseAt (s : State) (e p d : Nat) (extra : List Nat) (cands : List (Nat × Nat)) : Choice :=
  let t := s.sampTable e
  let g := s.grammarOf e
  let a := s.ePrompt e + s.generated e
  choose t g (if g.isEmpty then 0 else grAfter g (s.genTokens e ++ extra)) (if tPenalty t then windowIds s e (tPwin t) a extra p else []) cands
    (drawU (streamSeed t (s.tag e)) p d)

/-! ### Acceptance (R256) -/

/-- Acceptance under MATCH: the choices of positions p, p + 1, … until one differs from its draft. -/
def acceptMatch (s : State) (e p : Nat) : List (List (Nat × Nat)) → List Nat → List Nat → List Choice
  | [], _, _ => []
  | c :: cs, drafts, extra =>
    let f := s.chooseAt e p 0 extra c
    match drafts with
    | [] => [f]
    | d :: ds => if f.tok = d then f :: acceptMatch s e (p + 1) cs ds (extra ++ [f.tok]) else [f]

/-- The residual choice: the follow's distribution less the lead's, by cumulative sums. -/
def residual (follow lead : List (Nat × Nat)) (u : Nat) : Option Nat :=
  let r := follow.map fun x =>
    let d := Fmt.fp32.sub x.2 (probOf lead x.1)
    if fpBelow 0 d then d else 0
  if r.all (· == 0) then none
  else
    let cum := cumSums 0 r
    let i := pickAbove cum (Fmt.fp32.mul u (cum.getLastD 0))
    some (follow.getD i (0, 0)).1

/-- Acceptance under REJECT, with the lead's kept distribution of each draft. -/
def acceptReject (s : State) (e p : Nat) : List (List (Nat × Nat)) → List (Nat × List (Nat × Nat)) → List Nat → List Choice
  | [], _, _ => []
  | c :: cs, drafts, extra =>
    let f := s.chooseAt e p 0 extra c
    match drafts with
    | [] => [f]
    | d :: ds =>
      let seed := streamSeed (s.sampTable e) (s.tag e)
      if fpBelow (Fmt.fp32.mul (drawU seed p 2) (probOf d.2 d.1)) (probOf f.kept d.1) then
        { f with tok := d.1 } :: acceptReject s e (p + 1) cs ds (extra ++ [d.1])
      else match residual f.kept d.2 (drawU seed p 3) with
        | none => [f]
        | some tok => [{ f with tok := tok }]

end Sys2Proof.Machine
end

