-- ==== Sys2Proof/Machine/Serve.lean ====
section
/-! DEFINITION. Serving: issue slots, passes, the end of a request, and the admission order (R142, R204, R222, R224, R226, R231, R300). -/

namespace Sys2Proof.Machine

/-! ### Issue slots (R142, R204) -/

/-- The phases of the cadence that hold an issue slot. -/
def phases (s : State) (m : Model) : List Nat := (List.range (s.hCadence m)).filter fun p => bit (s.bin m (s.secOff m 9 + p) 1) 0
/-- The phase and the taken beat of issue slot n. -/
def slotPhase (s : State) (m : Model) (n : Nat) : Nat := (phases s m).getD (n % max 1 (phases s m).length) 0
def slotBeat (s : State) (m : Model) (n : Nat) : Nat := n / max 1 (phases s m).length * s.hCadence m + slotPhase s m n
def wideSlot (n : Nat) : Bool := n % 16 == 15

/-- How many beats before a slot its content is decided (R202; R278 in a group). -/
def State.ahead (s : State) : Nat := if s.inGroup then 3 else 2
/-- The first taken beat since the last start or resume, plus one. -/
def State.floorBeat (s : State) (lead : Bool) : Nat := AMap.get 0 s.serving.nextSlot (2 + boolNat lead)
/-- A slot that may be decided now: `ahead` beats or one more before it, or while the first beats after a start or a resume run. -/
def slotOpen (s : State) (lead : Bool) (n : Nat) : Bool :=
  let t := slotBeat s (s.srv lead) n
  let b := s.takenOf lead
  (b + s.ahead ≤ t && t ≤ b + s.ahead + 1) || (b ≤ t && t + 1 < s.floorBeat lead + s.ahead)

/-- What is due at a taken beat is written 2 taken beats before it (R202).  DESIGN CHOICE: what is due in the first two beats after a start or a resume is written up to that beat, there being no earlier one. -/
def inTime (s : State) (lead : Bool) (t : Nat) : Bool :=
  let b := s.takenOf lead
  b + 2 ≤ t || (b ≤ t && t < s.floorBeat lead + 1)

/-- The slot that is decided next. -/
def nextIssue (s : State) (lead : Bool) : Option Nat :=
  let m := s.srv lead
  let per := (phases s m).length
  findFrom (slotOpen s lead) (2 * per + 2) (max (AMap.get 0 s.serving.nextSlot (boolNat lead)) (s.takenOf lead / max 1 (s.hCadence m) * per))

/-- At a start or a resume the slots count again from the present beat. -/
def restartSlots (lead : Bool) : Prog :=
  .get fun s => setServing fun v => { v with
    nextSlot := AMap.put 0 (AMap.put 0 v.nextSlot (boolNat lead) 0) (2 + boolNat lead) (s.takenOf lead + 1)
    decided := v.decided.filter fun kv => kv.1 % 2 != boolNat lead }

/-! ### Passes -/

def State.pass (s : State) (pseq : Nat) : Option Pass := s.serving.passes.find? fun p => p.pseq == pseq
def setPass (pseq : Nat) (f : Pass → Pass) : Prog := setServing fun v => { v with passes := v.passes.map fun p => if p.pseq == pseq then f p else p }
def removePass (pseq : Nat) : Prog := setServing fun v => { v with passes := v.passes.filter fun p => p.pseq != pseq }
/-- A pass of the request has not left the pipeline. -/
def State.inPipe (s : State) (e : Nat) : Bool := s.serving.passes.any fun p => p.entry == e
/-- A pass of the request is queued or runs wide (R145). -/
def State.wideBusy (s : State) (e : Nat) : Bool :=
  s.serving.wide.any (fun w => w.1.entry == e) || s.serving.passes.any (fun p => p.entry == e && p.wide && !p.delivered && !p.dropped) ||
    s.serving.reissue.any fun p => p.entry == e && p.wide
/-- A pass joins the wide queue with its close; the deepest the queue has been is kept at 0x5303 (R142). -/
def queueWide (p : Pass) (close : Nat) : Prog :=
  (setServing fun v => { v with wide := v.wide ++ [(p, close)] }).andThen (.get fun s => setReg 0x5303 0 (max (s.reg 0x5303) s.serving.wide.length))
def State.attemptOf (s : State) (pseq : Nat) : Bool := s.serving.attempts.any fun a => a.1 == pseq
/-- The candidate slots of a pass are reset (R243). -/
def resetSlots (pseq : Nat) : Prog :=
  setServing fun v => { v with sorter := v.sorter.filter fun kv => match kv.2 with
    | some x => x.pseq != pseq
    | none => true }
/-- Reports, waiting passes and drafts of a request are discarded (R145, R231, R258). -/
def dropQueued (e : Nat) : Prog :=
  .seq [setServing fun v => { v with
      attempts := v.attempts.filter fun a => !(v.passes ++ v.reissue).any fun p => p.pseq == a.1 && p.entry == e
      wide := v.wide.filter fun w => w.1.entry != e
      reissue := v.reissue.filter fun p => p.entry != e },
    setReq e fun r => { r with recompute := [], drafts := [], draftsDone := false }]

/-! ### The end of a request (R222, R231, R239, R301) -/

/-- Gives back pages, areas, reservations, the prompt's run and the pause image of a request; an export or import of it ends (R166, R167, R221, R235). -/
def releaseAll (e : Nat) : Prog :=
  .get fun s =>
    let r := s.req e
    .seq [
      .when (s.plist e != 0) (.seq [
        .each ((List.range (s.epages e)).filterMap (s.pageAt e)) (releasePage false),
        .when (bit (s.imgFlags e) 0) (freeRun (poolPause (s.imgStack e)) (s.imgAddr e / 64)),
        freeRun poolPages (s.plist e - 0x20000), freeRun poolHistory (s.hist e), setLinks e 0 0]),
      .each (r.leadPages.map fun kv => kv.2 - 1) (releasePage true),
      .when (r.pool.2 != 0) (freeRun poolPrompt r.pool.1),
      .when ((s.image.pushes.any fun p => p.entry == e)) (finishImage 0x5020 e 0x41),
      .when ((s.image.xfers.any fun x => x.kind == 4 && x.num == e)) (finishImage 0x5021 e 0x41),
      setImage fun i => { i with pushes := i.pushes.filter fun p => p.entry != e
                                 xfers := i.xfers.filter fun x => !(x.kind == 4 && x.num == e) },
      setReq e fun q => { q with resv := [], leadResv := [], leadPages := [], pool := (0, 0) }]

/-- DRAINING, QUEUED or PAUSED to RETIRED: the terminal status goes out, then everything is released. -/
def retireEntry (e : Nat) : Prog :=
  .get fun s =>
    let code := cTerm (s.ctrl e)
    let a := if code = 0 then (s.ent e 56 4, s.ent e 62 2) else if code = 0x20 || code = 0x30 then (s.generated e, 0) else (0, 0)
    .seq [setState e stRetired, entryStatus e code (s.req e).detail a.1 a.2, countTerm code, dropQueued e,
      setReq e fun r => { r with retiredAt := s.now },
      setServing fun v => { v with retires := s.us :: v.retires.filter fun t => s.us ≤ t + 1000000
                                   ring := if (s.req e).ring = 0 then v.ring else AMap.put 0 v.ring ((s.req e).ring - 1) 0 },
      releaseAll e]

/-- Retires a draining request whose last pass has left the pipeline. -/
def retireIfDone (e : Nat) : Prog := .get fun s => .when (s.est e == stDraining && !s.inPipe e) (retireEntry e)

/-- RETIRED to FREE. -/
def freeEntry (e : Nat) : Prog := (setState e stFree).andThen (setServing fun v => { v with reqs := AMap.put Req.none v.reqs e Req.none })

/-- Ends a request that waits: its terminal code, then RETIRED. -/
def endWaiting (e code detail : Nat) : Prog :=
  .seq [setCtrl e (withBits 23 16 code), setReq e fun r => { r with detail := detail }, retireEntry e]

/-- The swap of R231: DISCARD and TERM, while neither DONE nor DISCARD is set; the request then acts by its state. -/
def discardEntry (e code : Nat) : Prog :=
  .get fun s =>
    let w := s.ctrl e
    let st := cState w
    if cDone w || cDiscard w || st == stFree || st == stRetired then .done
    else .seq [setCtrl e fun w => withBits 23 16 code (withBits 59 59 1 w), dropQueued e,
      if st == stQueued || st == stPaused then retireEntry e
      else (setState e stDraining).andThen (retireIfDone e)]

/-- ABORTED_DEGRADED (R239). -/
def abortEntry (e : Nat) : Prog := discardEntry e 0x30

/-- OK_COMPLETE without a further batch, because the end deadline has passed (R229). -/
def expireEntry (e : Nat) : Prog :=
  .get fun s => .seq [setCtrl e fun w => withBits 58 58 1 (withBits 23 16 0 w), setReq e fun r => { r with detail := 3 }, dropQueued e,
    if s.est e == stPaused then retireEntry e else (setState e stDraining).andThen (retireIfDone e)]

/-- The end deadline of a request has been reached. -/
def State.pastEnd (s : State) (e : Nat) : Bool := s.endDl e != 0 && s.arrival e + s.endDl e ≤ s.us
/-- The position of the last delivered token. -/
def State.lastPos (s : State) (e : Nat) : Nat := s.ePrompt e + s.generated e - 1
/-- What a pass yields has gone out: its batch, or the batch after the position that its draft is for. -/
def State.passSent (s : State) (p : Pass) : Bool := if p.lead then p.yields && decide (p.first + p.count ≤ s.lastPos p.entry) else p.delivered
/-- A pass of the request will still yield a batch. -/
def State.awaitsBatch (s : State) (e : Nat) : Bool :=
  (s.serving.passes.any fun p => p.entry == e && !p.lead && p.yields && !p.dropped && !p.delivered) ||
    s.serving.wide.any (fun w => w.1.entry == e && !w.1.lead) || s.serving.reissue.any fun p => p.entry == e && !p.lead && p.yields

/-! ### Deadlines and ranks (R224, R227, R228) -/

def lexLt : List Nat → List Nat → Bool
  | [], _ => false
  | _, [] => false
  | a :: as, b :: bs => a < b || (a == b && lexLt as bs)

def insertRank2 (x : List Nat × Nat) : List (List Nat × Nat) → List (List Nat × Nat)
  | [] => [x]
  | y :: ys => if lexLt x.1 y.1 then x :: y :: ys else y :: insertRank2 x ys

/-- Entries by rising rank. -/
def rankBy (key : Nat → List Nat) (es : List Nat) : List Nat := (es.foldl (fun acc e => insertRank2 (key e, e) acc) []).map (·.2)

/-- The deadline of a request's next batch, in us of wafer time. -/
def State.deadline (s : State) (e : Nat) : Option Nat :=
  if s.generated e = 0 then (if s.ttftDl e = 0 then none else some (s.arrival e + s.ttftDl e))
  else if s.tbtTgt e = 0 then none else (s.req e).base.map fun b => b + s.tbtTgt e

def noDeadline : Nat := 2 ^ 64
/-- The keys of R227. -/
def State.issueKey (s : State) (e : Nat) : List Nat := [cPrio (s.ctrl e), (s.deadline e).getD noDeadline, e]

/-- The keys of R224. -/
def State.admissionKey (s : State) (e : Nat) : List Nat :=
  let paused := s.est e == stPaused
  [cPrio (s.ctrl e), boolNat (!paused), if paused then (s.req e).pausedAt else if s.ttftDl e = 0 then noDeadline else s.arrival e + s.ttftDl e, s.arrival e, e]

/-- The admission order: QUEUED requests, and PAUSED ones that no resume has taken up. -/
def State.admissionOrder (s : State) : List Nat :=
  rankBy s.admissionKey ((s.inState [stQueued, stPaused]).filter fun e => !(s.req e).resuming)

/-- The place of an entry in the admission order, from 1. -/
def State.queuePlace (s : State) (e : Nat) : Nat := (s.admissionOrder.findIdx? (· == e)).getD 0 + 1

/-- The estimated wait of R226. -/
def State.estimate (s : State) (pos : Nat) : Nat :=
  let n := s.serving.retires.countP fun t => s.us < t + 1000000
  if n = 0 then 0xFFFFFFFF else min (pos * (1000000 / n)) 0xFFFFFFFE

/-- Sends QUEUED with the present place. -/
def sendQueued (e : Nat) : Prog :=
  .get fun s =>
    let pos := s.queuePlace e
    (entryStatus e 3 0 pos (s.estimate pos)).andThen (setReq e fun r => { r with qpos := pos, qsent := s.now })

/-- Microseconds that the prefill of a request takes at most, up to the next whole one: a whole number of them is below the exact value exactly when it is below this (R223, R226). -/
def State.prefillUs (s : State) (prompt : Nat) : Nat := s.reg 0x5005 + ceilDiv (prompt * s.reg 0x5004) 1000

/-- A table of the request is fetched again (R49). -/
def State.tableMissing (s : State) (e : Nat) : Bool :=
  let t := s.sampTable e
  s.tables.refetch.any fun r => (r.1 == 0 && r.2.1 == s.samp e) || (r.1 == 1 && r.2.1 == tGrammar t) || (r.1 == 2 && r.2.1 == tStop t)

end Sys2Proof.Machine
end

