-- ==== Sys2Proof/Machine/Arrive.lean ====
section
/-! DEFINITION. Requests arrive, are refused, cancelled and reclaimed, and CSP sessions end (R48, R222, R223, R226, R231, R232, R278, R291, R298 to R301). -/

namespace Sys2Proof.Machine

/-! ### Acknowledgements (R222, R300) -/

/-- A status of a tag with this code and detail that the client has yet to acknowledge: in its session's window or backlog, or still to be taken from the transmit ring. -/
def State.statusPending (s : State) (i tag code detail : Nat) : Bool :=
  let x := s.session true i
  let same (typ : Nat) (b : List Byte) : Bool := typ == 0x20 && field b 0 4 == tag && field b 4 1 == code && field b 5 1 == detail
  x.inflight.any (fun m => same m.typ m.payload) || x.backlog.any (fun b => same (b.1 % 256) b.2) ||
    s.serving.outbox.any (fun r => field r 0 2 == i && same (field r 2 1) (r.drop 4)) ||
    s.txWaiting.any fun a => Mem.nat s.sm a 2 == i && same (Mem.nat s.sm (a + 2) 1) (Mem.read s.sm (a + 4) 8)

/-- The terminal STATUS of a request, its last message, moves the entry from RETIRED to FREE once its client has acknowledged it; an earlier status of the same tag does not (R222, R300). -/
def ackStatus (i : Nat) (m : SentMsg) : Prog :=
  .get fun s => .when (m.typ == 0x20 && terminalCode (field m.payload 4 1))
    (match s.entryOf i (field m.payload 0 4) with
      | some e => .when (s.est e == stRetired && field m.payload 4 1 == cTerm (s.ctrl e) && field m.payload 5 1 == (s.req e).detail &&
          !s.statusPending i (s.tag e) (cTerm (s.ctrl e)) (s.req e).detail) (freeEntry e)
      | none => .done)

/-! ### REQUEST (R299) -/

/-- Bytes 0 to 31 of a REQUEST. -/
def reqHead (m : ReqMsg) : List Byte :=
  leBytes 4 m.tag ++ leBytes 1 (m.prio % 8) ++ leBytes 1 (m.flags % 128) ++ leBytes 1 m.kreq ++ leBytes 1 0 ++ leBytes 2 m.tenant ++ leBytes 2 m.samp ++
    leBytes 4 m.ttftDl ++ leBytes 4 m.endDl ++ leBytes 2 m.tbtTgt ++ leBytes 2 0 ++ leBytes 4 m.prompt ++ leBytes 4 m.maxPos

def promptRun (prompt : Nat) : Nat := ceilDiv (4 * prompt) 64
def promptAddr (place : Nat) : Nat := 0x0F500000 + 64 * place
def requestAddr (n : Nat) : Nat := 0x0EC00000 + 64 * (n % 16384)

/-- The Ethernet engine refuses a request at once. -/
def refuseNow (i tag code detail : Nat) : Prog := (sendMsg true i 0x20 0 (statusBody tag code detail 0 0)).andThen (countTerm code)

def Partial.tag (p : Partial) : Nat := field p.head 0 4
def State.part (s : State) (i tag : Nat) : Option Partial := s.serving.parts.find? fun p => p.session == i && p.tag == tag
/-- An assembly ends; its run of the prompt pool is freed, or goes on with the request. -/
def endPart (p : Partial) (free : Bool) : Prog :=
  .seq [setServing fun v => { v with parts := v.parts.filter fun q => !(q.session == p.session && q.tag == p.tag) },
    .when (free && promptRun (field p.head 24 4) != 0) (freeRun poolPrompt p.pool.1)]

/-- Request-ring records that wait or are held, by record number: 1 waits, 2 is held by an entry. -/
def State.ringTag (s : State) (i tag : Nat) : Bool :=
  s.serving.ring.any fun kv => kv.2 == 1 && Mem.nat s.sm (requestAddr kv.1 + 32) 2 == i && Mem.nat s.sm (requestAddr kv.1) 4 == tag

/-- A whole request goes onto the request ring. -/
def toRing (p : Partial) : Prog :=
  .get fun s => match findFrom (fun n => AMap.get 0 s.serving.ring (n % 16384) == 0) 16384 (ringProd s 0) with
    | none => (endPart p true).andThen (refuseNow p.session p.tag 0x11 1)
    | some n => .seq [endPart p false, .ups ((List.range 8).map fun w => .smBad (requestAddr n / 8 + w) false),
        .one (.sm (requestAddr n) (p.head ++ leBytes 2 p.session ++ leBytes 1 p.port ++ leBytes 1 0 ++ leBytes 4 p.pool.1 ++ leBytes 24 0)),
        setServing fun v => { v with ring := AMap.put 0 v.ring (n % 16384) 1 }, setRingProd 0 ((n + 1) % 2 ^ 32)]

/-- Ids of one message go into the prompt's run. -/
def addIds (i tag : Nat) (m : ReqMsg) : Prog :=
  .get fun s => match s.part i tag with
    | none => .done
    | some p =>
      let ids := m.ids.take (m.prompt - m.offset)
      let q := { p with got := addRange p.got m.offset (m.offset + ids.length) }
      .seq [.one (.sm (promptAddr p.pool.1 + 4 * m.offset) (ids.flatMap (leBytes 4))),
        setServing fun v => { v with parts := v.parts.map fun x => if x.session == i && x.tag == tag then q else x },
        .when (covers q.got 0 m.prompt) (toRing q)]

def requestMsg (i port : Nat) (m : ReqMsg) : Prog :=
  .get fun s =>
    let tag := m.tag % 2 ^ 32
    if s.inGroup && s.groupMember != 0 then refuseNow i tag 0x13 3
    else match s.part i tag with
      | some p =>
        if p.head != reqHead m || p.got.any (fun r => r.1 < m.offset + m.ids.length && m.offset < r.2) then (endPart p true).andThen (refuseNow i tag 0x10 5)
        else addIds i tag m
      | none =>
        if (s.entryOf i tag).isSome || s.ringTag i tag then refuseNow i tag 0x10 6
        else
          let n := promptRun (m.prompt % 2 ^ 32)
          match s.poolFit poolPrompt n promptUnits with
          | none => refuseNow i tag 0x10 8
          | some a => .seq [.when (n != 0) (takeRun poolPrompt a n),
              setServing fun v => { v with parts := v.parts ++ [⟨i, port, reqHead m, [], (a, n), s.now⟩] }, addIds i tag m]

/-- REQUEST_ASSEMBLY_TIMEOUT: the ids have not all arrived 1 s after the first message. -/
def execRequestAssemblyTimeout (sid : Sid) (tag : Nat) (s : State) : Host.Outcome State Fault Refusal :=
  (Prog.get fun s => match (s.cspSid sid).bind fun i => s.part i tag with
    | none => .done
    | some p => .seq [.one (.time (p.first + 1000000000)), endPart p true, refuseNow p.session p.tag 0x10 4]).run s

/-! ### Arrival (R223) -/

/-- A request as the request ring holds it, with the features of its session off read as zero (R297). -/
structure Arrival where
  rec_ : Nat
  session : Nat
  tag : Nat
  prio : Nat
  flags : Nat
  kreq : Nat
  tenant : Nat
  samp : Nat
  ttft : Nat
  endDl : Nat
  tbt : Nat
  prompt : Nat
  maxPos : Nat
  place : Nat
  features : Nat
  deriving DecidableEq, Repr

def arrivalOf (s : State) (n : Nat) : Arrival :=
  let b := Mem.read s.sm (requestAddr n) 64
  let i := field b 32 2
  let f := (s.session true i).features
  let fl := field b 5 1
  let spec := bit fl 2 && bit f 0
  let fl' := fl % 4 + boolNat spec * 4 + (if bit f 3 then bits fl 5 4 * 16 else 0) + (if bit f 2 then boolNat (bit fl 6) * 64 + boolNat (bit fl 3) * 8 else 0)
  ⟨n % 16384, i, field b 0 4, field b 4 1 % 8, fl', if bit f 0 then min 8 (field b 6 1) else 0, field b 8 2, field b 10 2, field b 12 4, field b 16 4, field b 20 2,
    field b 24 4, field b 28 4, field b 36 4, f⟩

/-- A refusal: a status, the record and the prompt's run are free, no entry. -/
def refuseArrival (a : Arrival) (code detail : Nat) : Prog :=
  .seq [pushTx a.session 0x20 (statusBody a.tag code detail 0 0), countTerm code, setServing fun v => { v with ring := AMap.put 0 v.ring a.rec_ 0 },
    .when (promptRun a.prompt != 0) (freeRun poolPrompt a.place)]

def State.contextLimit (s : State) (m : Model) : Nat := min 262144 (64 * s.hListLen m * max 1 (s.hWays m))

/-- Check 3: the sampling table and what it names; a feature outside the negotiated set is refused here. -/
def samplingRefused (s : State) (a : Arrival) : Bool :=
  let t := Mem.read s.sm (tableAddr 0 a.samp) 64
  !(a.samp < 4096 && s.tableLoaded 0 a.samp) || (tGrammar t != 0xFFFF && !(s.tableLoaded 1 (tGrammar t) && bit a.features 1)) ||
    (tStop t != 0xFFFF && !s.tableLoaded 2 (tStop t)) || (tReject t && !bit a.features 7)

def State.freeEntry (s : State) : Option Nat := findFrom (fun e => !(s.req e).live) 16384 0

/-- The arrival checks in order: the first that fails gives its status and detail. -/
def arrivalRefusal (s : State) (a : Arrival) : Option (Nat × Nat) :=
  let m := s.model 0
  let pages := pagesOf (a.prompt + a.maxPos)
  firstFail [
    need (s.badWords (requestAddr a.rec_) 64 == [] && s.badWords (promptAddr a.place) (4 * a.prompt) == []) (0x10, 9),
    need m.running (0x13, 1), need (!m.draining) (0x13, 2),
    need ((List.range (min a.prompt 262144)).all fun i => Mem.nat s.sm (promptAddr a.place + 4 * i) 4 < s.hVocab m) (0x10, 7),
    need (1 ≤ a.prompt && 1 ≤ a.maxPos && a.prompt + a.maxPos ≤ s.contextLimit m) (0x10, 1),
    need (!samplingRefused s a) (0x10, 2),
    need (ceilDiv pages (max 1 (s.hWays m)) ≤ s.hHotSlots m) (0x10, 3),
    need ((s.entries.countP fun e => cTenant (s.ctrl e) == a.tenant && s.est e != stRetired && s.est e != stFree) < s.tenantLimit a.tenant) (0x14, 0),
    need ((a.ttft == 0 || s.prefillUs a.prompt ≤ a.ttft) && (a.endDl == 0 || a.ttft ≤ a.endDl)) (0x12, 1),
    need ((s.entries.countP fun e => s.est e == stQueued && cPrio (s.ctrl e) == a.prio) < s.reg 0x5001 (a.prio + 1) && s.freeEntry.isSome) (0x11, 0)]

/-- The 64 bytes of a new entry. -/
def newEntry (s : State) (a : Arrival) : List Byte :=
  leBytes 8 (stQueued * 2 ^ 60 + a.prio * 2 ^ 54 + boolNat (bit a.flags 0) * 2 ^ 53 + boolNat (bit a.flags 1) * 2 ^ 52 + boolNat (bit a.flags 2) * 2 ^ 51 +
      bits a.flags 6 3 * 2 ^ 47 + a.tenant * 2 ^ 24 + 0xFF * 2 ^ 16) ++
    leBytes 2 a.session ++ leBytes 6 s.us ++ leBytes 4 a.tag ++ leBytes 4 a.ttft ++ leBytes 4 a.endDl ++ leBytes 2 a.tbt ++ leBytes 2 a.samp ++
    leBytes 8 (a.prompt * 2 ^ 45 + a.maxPos * 2 ^ 7) ++ leBytes 8 0 ++ leBytes 4 0 ++ leBytes 4 (lfWord 0 a.kreq 0 0) ++ leBytes 8 0

/-- The request takes the lowest FREE entry. -/
def enter (a : Arrival) (e : Nat) : Prog :=
  .get fun s => .seq [.ups ((List.range 8).flatMap fun w => [.smBad (cardA e / 8 + w) false, .smBad (cardB e / 8 + w) false]),
    .one (.sm (cardA e) (newEntry s a)), .one (.sm (cardB e) (newEntry s a)),
    setReq e fun _ => { Req.none with live := true, ring := a.rec_ + 1, pool := (a.place, promptRun a.prompt) },
    setServing fun v => { v with ring := AMap.put 0 v.ring a.rec_ 2 }, sendQueued e]

/-! ### Cancel (R231, R232) -/

def cancelTooLate (i tag : Nat) : Prog := (addReg 0x5016 0 1).andThen (pushTx i 0x20 (statusBody tag 0x21 1 0 0))

def cancelTag (i tag : Nat) : Prog :=
  .get fun s => match s.entryOf i tag with
    | none => cancelTooLate i tag
    | some e => if [stQueued, stPrefill, stDecode, stPaused].contains (s.est e) && !cDone (s.ctrl e) && !cDiscard (s.ctrl e) then discardEntry e 0x20 else cancelTooLate i tag

/-! ### The end of a CSP session (R291, R301) -/

/-- What the ended session was still to be sent is gone: its records on the transmit ring name no session, those that wait for the ring are dropped (R16).  DESIGN CHOICE (log 186): such a record carries session index 0xFFFF. -/
def dropOutput (i : Nat) : Prog :=
  .get fun s => .seq [.ups ((s.txWaiting.filter fun a => Mem.nat s.sm a 2 == i).map fun a => .sm a (leBytes 2 0xFFFF)),
    setServing fun v => { v with outbox := v.outbox.filter fun r => field r 0 2 != i }]

/-- Requests of an ended session are cancelled without a status; requests not yet taken are dropped. -/
def endCsp (i : Nat) : Prog :=
  .get fun s => .seq [
    .each (s.entries.filter fun e => s.esession e == i) fun e => (setReq e fun r => { r with silent := true }).andThen (discardEntry e 0x20),
    .each (s.serving.parts.filter fun p => p.session == i) fun p => endPart p true,
    .each ((s.serving.ring.filter fun kv => kv.2 == 1 && Mem.nat s.sm (requestAddr kv.1 + 32) 2 == i).map (·.1)) fun n => .seq [
      setServing fun v => { v with ring := AMap.put 0 v.ring n 0 },
      .when (promptRun (Mem.nat s.sm (requestAddr n + 24) 4) != 0) (freeRun poolPrompt (Mem.nat s.sm (requestAddr n + 36) 4))],
    dropOutput i, setSession true i { Session.closed with gen := (s.session true i).gen }, countSessions]

end Sys2Proof.Machine
end

