-- ==== Sys2Proof/Machine/Mends.lean ====
section
/-! DEFINITION. What an uncorrectable word of each structure of shared memory brings about, and how serving firmware finds and mends the words it reads (R47 to R49, R169, R177, R240). -/

namespace Sys2Proof.Machine

/-! ### Frames and seals (R156, R163, R168) -/

/-- Format, head dimension and rows per page of a KV-holding core. -/
def kvConf (s : State) (key : Nat) : Nat := let c := s.core key; AMap.get 0 c.apCfg (stAcfg c.staging)

/-- The model's address of the frame of page f of a core. -/
def frameAddr (s : State) (key f : Nat) : Nat :=
  let w := (s.core key).staging
  hbmAddr (stSep w / 16) (stBase w * 64 + f / stWays w * (apRows (kvConf s key) + 1) * 64)

/-- The slots of a way: as many as the choreography declares, below floor(LENGTH of KVPOOL / PAGE_ROWS) on every core of the way (R154). -/
def hotSlots (s : State) (lead : Bool) (w : Nat) : Nat :=
  (s.coreRecs (s.srv lead)).foldl (fun n r =>
    let c := s.core r.key
    let a := AMap.get 0 c.apCfg (stAcfg c.staging)
    if stEnabled c.staging && stWay c.staging == w then min n (hLength (c.handle (apPool a)) / max 1 (apPageRows a)) else n) (s.hHotSlots (s.srv lead))

/-- Recomputes positions of a page, once, from the token history of the request that holds it.  A shared page is written by no pass (R167): its node is quarantined and the page is the private one of its holders, or freed where it has none. -/
def recomputePage (lead : Bool) (f : Nat) : Prog :=
  .get fun s =>
    let d := s.dir lead f
    let n := if d.state == pgOpen then d.count else 64
    if lead then
      .each s.entries fun e => .each (s.req e).leadPages fun kv => .when (kv.2 = f + 1) (setReq e fun r => { r with leadAt := min r.leadAt (64 * kv.1) })
    else .seq [
      .when (d.node != 0) (quarantine (d.node - 1)),
      match s.entries.findSome? fun e => if s.plist e = 0 then none else ((List.range (s.epages e)).find? fun i => s.pageAt e i == some f).map fun i => (e, i) with
      | some (e, i) => .seq [.when d.shared (putDir false f fun d => { d with flags := 0, node := 0 }),
          .when (n > 0 && !(s.req e).recompute.any (fun r => r.1 == 64 * i)) (.seq [addReg 0x5405 0 n, setReq e fun r => { r with recompute := r.recompute ++ [(64 * i, n)] }])]
      | none => .get fun s => .when (d.node != 0 && (s.dir false f).state != pgFree) (clearPage false f)]

/-- The frame of a page that this core holds is whole: its rows can be read and its seal row agrees with the directory. -/
def sealGood (s : State) (lead : Bool) (key f : Nat) : Bool :=
  let d := s.dir lead f
  let a := frameAddr s key f
  let n := apRows (kvConf s key)
  let b := Mem.read s.hbm (a + 64 * n) 16
  field b 0 4 == f && field b 4 4 == d.gen && field b 8 4 == d.fill && !(List.range (8 * (n + 1))).any fun w => AMap.get false s.hbmBad (a / 8 + w)

/-! ### Entry cores (R200, R202) -/

def State.entryRecs (s : State) (lead : Bool) : List CoreRec := (s.coreRecs (s.srv lead)).filter fun r => r.flags / 2 % 2 == 1
def svIssue (s : State) (m : Model) (r : CoreRec) : Nat := s.servingOf m r 2 1
def svFetch (s : State) (m : Model) (r : CoreRec) : Nat := s.servingOf m r 3 1
def svIssueDepth (s : State) (m : Model) (r : CoreRec) : Nat := s.servingOf m r 4 2
def svIssueRows (s : State) (m : Model) (r : CoreRec) : Nat := s.servingOf m r 6 2
def svIctr (s : State) (m : Model) (r : CoreRec) : Nat := s.servingOf m r 8 1
def svFetchDepth (s : State) (m : Model) (r : CoreRec) : Nat := s.servingOf m r 10 2
def svFetchPer (s : State) (m : Model) (r : CoreRec) : Nat := s.servingOf m r 12 2

/-- The queue pair that the figure's DQGETs through a handle ask (R96). -/
def fetchPair (c : Core) (handle : Nat) : Option Nat :=
  c.store.findSome? fun w => match decodeSlot ⟨0, 0, 0⟩ 3 (slotDm w.2) with
    | some (.dqget _ hs _ route _ _) => if hs.toNat = handle then some (hdrEndpoint (AMap.get 0 c.routes route.toNat / 2 ^ 64)) else none
    | _ => none

/-- The fetch latency of a core's ring in beats (R193); A_max is what the choreography declares for the ring's pair.  DESIGN CHOICE: 16 384 rows, the most a pair holds, where it declares none. -/
def fetchLatency (s : State) (m : Model) (c : Core) (handle : Nat) : Nat :=
  let most := match (fetchPair c handle).bind fun ep => (hbmDecls s m).find? fun d => d.1 == ep with
    | some d => d.2
    | none => 16384
  ceilDiv (1200 + 4 * (most + apRows (AMap.get 0 c.apCfg (stAcfg c.staging)))) (max 1 s.period) + 1

/-- The frame of a page may be read: it became FULL one fetch latency ago or earlier (R168). -/
def frameOld (s : State) (lead : Bool) (key f : Nat) : Bool :=
  let t := AMap.get 0 s.serving.fullAt (pageKey lead f)
  t == 0 || (match (s.coreRecs (s.srv lead)).find? fun r => r.key == key with
    | some r => decide (t + fetchLatency s (s.srv lead) (s.core key) (svFetch s (s.srv lead) r) ≤ s.takenOf lead + 1)
    | none => true)

/-! ### One uncorrectable word (R49, R169, R177, R240) -/

/-- The other copy of an address in a structure held twice: dance card (R217), interleaved blocks of 32 KiB (escalation ring, tenant words, tenant salts, page directory), ring indexes (R47, R48, R165). -/
def otherCopy (a : Nat) : Option Nat :=
  if a < 0x100000 then some (a + 0x108000)
  else if 0x108000 ≤ a && a < 0x208000 then some (a - 0x108000)
  else if (0x400000 ≤ a && a < 0x520000) || (0x600000 ≤ a && a < 0x800000) || (0x1800000 ≤ a && a < 0x7800000) then
    some (if a / 0x8000 % 2 = 0 then a + 0x8000 else a - 0x8000)
  else none

/-- The entry before admission whose prompt or record lies at an address, and the record that waits there. -/
def promptEntry (s : State) (a : Nat) : Option Nat :=
  (s.inState [stQueued]).find? fun e =>
    let r := s.req e
    (r.ring != 0 && requestAddr (r.ring - 1) ≤ a && a < requestAddr (r.ring - 1) + 64) ||
      (promptAddr r.pool.1 ≤ a && a < promptAddr r.pool.1 + 64 * r.pool.2)
def promptRecord (s : State) (a : Nat) : Option Nat :=
  ((s.serving.ring.filter fun kv => kv.2 == 1).map (·.1)).find? fun n =>
    let v := arrivalOf s n
    (requestAddr n ≤ a && a < requestAddr n + 64) || (promptAddr v.place ≤ a && a < promptAddr v.place + 64 * promptRun v.prompt)

/-- A damaged request before admission: refused at once, or its entry ends (R49). -/
def damagedRequest (a : Nat) : Prog :=
  .get fun s => match promptRecord s a, promptEntry s a with
    | some n, _ => (refuseArrival (arrivalOf s n) 0x10 9).andThen (.one (.smBad (a / 8) false))
    | none, some e => (abortEntry e).andThen (.one (.smBad (a / 8) false))
    | none, none => .one (.smBad (a / 8) false)

/-- A page-list word is put back from its mirror in the token-history area (R49). -/
def mirrorWord (a : Nat) : Prog :=
  .get fun s => .seq [match (s.inState [stPrefill, stDecode, stPaused, stDraining]).find? fun e =>
      s.plist e != 0 && listAddr s e ≤ a && a < listAddr s e + 64 + 4 * s.epages e with
    | some e => .one (.sm a (Mem.read s.hbm (historyAddr (256 * (s.hist e + s.epages e) + (a - listAddr s e))) 8))
    | none => .done, .one (.smBad (a / 8) false)]

/-- The page whose directory entry lies at an address. -/
def pageOfDirWord (s : State) (a : Nat) : Option (Bool × Nat) :=
  [false, true].findSome? fun lead =>
    let base := AMap.get 0 s.serving.dirBase (boolNat lead)
    if base != 0 && base ≤ a && a < base + directoryBytes s (s.srv lead) then some (lead, (a - base) / 0x10000 * 1024 + (a - base) % 0x8000 / 32) else none

/-- Where a page stands in a request's list, and its filled positions. -/
def placeOf (s : State) (lead : Bool) (f e : Nat) : Option (Nat × Nat) :=
  if lead then ((s.req e).leadPages.find? fun kv => kv.2 == f + 1).map fun kv => (kv.1, 64)
  else if s.plist e = 0 then none
  else ((List.range (s.epages e)).find? fun i => s.pageAt e i == some f).map fun i => (i, wordCount (s.listWord e i))

/-- The slot of a way that is neither free nor another page's. -/
def straySlot (s : State) (lead : Bool) (f : Nat) : Option Nat :=
  let w := f % s.ways lead
  (List.range (hotSlots s lead w)).find? fun x => !(s.freeSlots lead w).contains x &&
    !(s.wayPages lead w fun d => d.state == pgOpen || d.state == pgFull || d.state == pgLoading).any fun g => g != f && s.slotOf lead g == x

/-- An entry as the live page lists, the prefix nodes and a frame's seal give it; without a reference and a node the page is FREE (R169).  The slot is the one of the way that nobody else holds. -/
def rebuiltEntry (s : State) (lead : Bool) (f : Nat) : DirEnt :=
  let places := s.entries.filterMap (placeOf s lead f)
  let node := if lead then none else (s.nodesWhere fun n => s.node n ndPage 4 == f).head?
  let sl := ((s.wayCores lead (f % s.ways lead)).map fun key => Mem.read s.hbm (frameAddr s key f + 64 * apRows (kvConf s key)) 16).find? fun b => field b 0 4 == f
  let slot := straySlot s lead f
  let tenant := match node, s.entries.find? fun e => (placeOf s lead f e).isSome with
    | some n, _ => s.node n ndTenant 2
    | none, some e => cTenant (s.ctrl e)
    | none, none => 0
  let count := ((places.map (·.2)).foldl max 0)
  if places.isEmpty && node.isNone then ⟨0xFFFF, pgFree, 0, 0, 0, (sl.map fun b => field b 4 4).getD 0, 0, 0, 0, s.us⟩
  else ⟨match slot with | some x => x * s.ways lead + f % s.ways lead | none => 0xFFFF,
    if slot.isNone then pgCold else if node.isSome || count = 64 then pgFull else pgOpen,
    match node with | some n => if s.node n ndTenant 2 = 0xFFFF then 3 else 1 | none => 0,
    places.length, if node.isSome then 64 else count, (sl.map fun b => field b 4 4).getD 0, (sl.map fun b => field b 8 4).getD 0,
    match node with | some n => n + 1 | none => 0, tenant, s.us⟩

/-- A directory word bad in both copies: the entry is built again; without a matching seal its positions are recomputed (R169). -/
def rebuildDir (a b : Nat) : Prog :=
  .get fun s => match pageOfDirWord s a with
    | some (lead, f) => .seq [
        .ups ((List.range 4).flatMap fun i => [.smBad (s.dirAddr lead f / 8 + i) false, .smBad (s.dirAddr lead f / 8 + 0x1000 + i) false]),
        putDir lead f fun _ => rebuiltEntry s lead f,
        .get fun s => .when ((s.dir lead f).state != pgFree && !(s.wayCores lead (f % s.ways lead)).all fun key => sealGood s lead key f) (recomputePage lead f)]
    | none => .ups [.smBad (a / 8) false, .smBad (b / 8) false]

/-- An uncorrectable word of a bucket or of a prefix node: the chain is built again; a damaged node is quarantined (R177). -/
def mendPrefix (w : Nat) : Prog :=
  .get fun s =>
    let a := 8 * w
    if 0x0C800000 ≤ a then .seq [rebuildBucket ((a - 0x0C800000) / 4), rebuildBucket ((a - 0x0C800000) / 4 + 1)]
    else
      let n := (a - 0x07800000) / 320
      .seq [.one (.smBad w false), quarantine n, .each (bucketsOf s n) rebuildBucket]

/-- An entry with a word bad in both copies: its stream is found through the request that the request ring still holds, and it ends with ABORTED_DEGRADED (R240). -/
def loseEntry (e : Nat) : Prog :=
  .get fun s => .when (s.req e).live (.seq [
    .when ((s.req e).ring != 0) (let a := requestAddr ((s.req e).ring - 1); .seq [putEnt e 8 2 (Mem.nat s.sm (a + 32) 2), putEnt e 16 4 (Mem.nat s.sm a 4)]),
    abortEntry e])

/-- Both copies of a word are bad.  DESIGN CHOICE (log 185): a ring index, a salt or a word of the limits then holds a free value, since the spec names no third source of it. -/
def bothBad (a b : Nat) : Prog :=
  let good := Prog.ups [.smBad (a / 8) false, .smBad (b / 8) false]
  if a < 0x400000 then good.andThen (loseEntry (a % 0x108000 / 64))
  else if a < 0x500000 then requestHold 0x12
  else if 0x1800000 ≤ a then rebuildDir a b
  else good.andThen (drawFree fun v => .ups [.sm a (leBytes 8 v), .sm b (leBytes 8 v)])

/-- What follows an uncorrectable word (R49, R169, R177, R240): the other copy is rewritten over it, its owner rebuilds it, or what it belonged to ends.  A transmit record, a word of a working area and a word that no structure fills are written again as they were last written. -/
def mendWord (w : Nat) : Prog :=
  .get fun s =>
    let a := 8 * w
    match otherCopy a with
    | some b =>
      if !AMap.get false s.smBad (b / 8) then
        .seq [.ups [.sm a (Mem.read s.sm b 8), .smBad w false], .when (a < 0x108000) (addReg 0x5017 0 1)]
      else bothBad a b
    | none =>
      if (0x0EC00000 ≤ a && a < 0x0ED00000) || 0x0F500000 ≤ a then damagedRequest a
      else if 0x800000 ≤ a && a < 0x1800000 then mirrorWord a
      else if 0x0C900000 ≤ a && a < 0x0EC00000 then (match tableOfAddr a with
        | some t => refetchTable t.1 t.2
        | none => .one (.smBad w false))
      else if 0x7800000 ≤ a && a < 0x0C900000 then mendPrefix w
      else .when ((0x520000 ≤ a && a < 0x600000) || (0x0ED00000 ≤ a && a < 0x0F000000)) (.one (.smBad w false))

/-! ### Words that serving firmware reads -/

/-- A word of a structure that the tumbler cores read to serve, read from copy A where there are two; not one of a table that is being fetched again, nor the escalation ring, whose reader falls back on copy B itself, nor a record or prompt that REQUEST_TAKE judges. -/
def State.servingWord (s : State) (w : Nat) : Bool :=
  let a := 8 * w
  if a < 0x400000 then a < 0x100000
  else if (0x500000 ≤ a && a < 0x520000) || (0x600000 ≤ a && a < 0x800000) || (0x1800000 ≤ a && a < 0x7800000) then a / 0x8000 % 2 == 0
  else if 0x0C900000 ≤ a && a < 0x0EC00000 then (match tableOfAddr a with
    | some t => !s.tables.refetch.any fun r => r.1 == t.1 && r.2.1 == t.2
    | none => true)
  else if (0x0EC00000 ≤ a && a < 0x0ED00000) || 0x0F500000 ≤ a then (promptEntry s a).isSome
  else 0x520000 ≤ a && a < 0x0C900000

/-- The uncorrectable words that serving firmware would meet. -/
def State.damaged (s : State) : List Nat := (s.smBad.filter fun kv => kv.2 && s.servingWord kv.1).map (·.1)

/-- The tumbler cores log each such word with its address and put right what it belongs to. -/
def mendNow : Prog :=
  .get fun s => .each s.damaged fun w => .get fun s => .when (AMap.get false s.smBad w)
    ((appendOpen (dutySrc dutyServing) openSmEcc (some (leBytes 4 (8 * w)))).andThen (mendWord w))

/-- What serving firmware does, after it has mended the words that it would read damaged: no pass issues and nothing is looked up or released before (R49, R169, R177, R240).  DESIGN CHOICE (log 187): an uncorrectable word is met by the next command that serves. -/
def served (p : Prog) : Prog := .get fun s => if s.damaged.isEmpty then p else mendNow.andThen p

end Sys2Proof.Machine
end

