-- ==== Sys2Proof/Machine/Pause.lean ====
section
/-! DEFINITION. Pausing: releasing a paused request's slots, pause images and their conversion, exports and imports (R164, R234 to R238, R304). -/

namespace Sys2Proof.Machine

/-! ### Frames and slices (R156, R163, R235, R236) -/

def pauseSeed : Nat := 0x50415553

/-- The format of a KV-holding core. -/
def kvFmt (a : Nat) : Nat := if apBits a = 4 then fmtK4 else fmtK8
def kvLog (a : Nat) : Nat := if apDim a = 128 then 7 else 6

/-- The elements of a run as FP32. -/
def decodeRun (fmt n : Nat) (data : Nat) (scales : List Byte) : List Nat :=
  (List.range n).map fun e => decodeFp32 fmt (data >>> (fmtBits fmt * e) % 2 ^ fmtBits fmt) (field scales (e / 32) 1)

/-- Quantises a run: its codes and its scale bytes. -/
def encodeRun (fmt n : Nat) (xs : List Nat) : List Nat × List Byte :=
  let bs := (List.range (n / 32)).map fun i => quantBlock fmt 0 ((xs.drop (32 * i)).take 32)
  (bs.flatMap (·.codes), bs.flatMap fun b => leBytes 1 b.scale)

/-- Pause: the rotated run in K3 (R236). -/
def toK3 (a : Nat) (xs : List Nat) : List Nat × List Byte := encodeRun fmtK3 (apDim a) (spin (kvLog a) pauseSeed xs)
/-- Resume: the run rotated back, in the page's format. -/
def fromK3 (a : Nat) (data : Nat) (scales : List Byte) : List Nat × List Byte :=
  let y := spin (kvLog a) 0 (decodeRun fmtK3 (apDim a) data scales)
  encodeRun (kvFmt a) (apDim a) ((List.range (apDim a)).map fun i => if bit (splitMix pauseSeed (i / 64)) (i % 64) then fpNeg (y.getD i 0) else y.getD i 0)

/-- The K (part 0) or V (part 1) run of position j in a frame. -/
def frameRun (a part j : Nat) (fr : List Byte) : List Nat :=
  let b := posBytes a
  let d := apDim a
  decodeRun (kvFmt a) d (leNat (slice fr (64 * b * part + j * b) b)) (slice fr (128 * b + j * (d / 16) + part * (d / 32)) (d / 32))

/-- One core's slice of a page, from its frame (R235). -/
def sliceBytes (a : Nat) (fr : List Byte) : List Byte :=
  let k := (List.range 64).map fun j => toK3 a (frameRun a 0 j fr)
  let v := (List.range 64).map fun j => toK3 a (frameRun a 1 j fr)
  leBytes (24 * apDim a) (packLanes 3 (k.flatMap (·.1))) ++ leBytes (24 * apDim a) (packLanes 3 (v.flatMap (·.1))) ++
    (List.zipWith (fun x y => x.2 ++ y.2) k v).flatten

def sliceLen (a : Nat) : Nat := 52 * apDim a

/-- The rows of a page, rebuilt from a slice. -/
def framePage (a : Nat) (sl : List Byte) : List Byte :=
  let d := apDim a
  let run (part j : Nat) : List Nat × List Byte :=
    fromK3 a (leNat (slice sl (24 * d * part + j * (3 * d / 8)) (3 * d / 8))) (slice sl (48 * d + j * (d / 16) + part * (d / 32)) (d / 32))
  let k := (List.range 64).map (run 0)
  let v := (List.range 64).map (run 1)
  let b := posBytes a
  slice (leBytes (64 * b) (packLanes (apBits a) (k.flatMap (·.1))) ++ leBytes (64 * b) (packLanes (apBits a) (v.flatMap (·.1))) ++
    (List.zipWith (fun x y => x.2 ++ y.2) k v).flatten) 0 (64 * apRows a)

/-- A seal row (R163). -/
def sealBytes (page gen pseq fld row col : Nat) : List Byte :=
  leBytes 4 page ++ leBytes 4 gen ++ leBytes 4 pseq ++ leBytes 1 fld ++ leBytes 1 row ++ leBytes 1 col ++ leBytes 1 0x5E ++ leBytes 48 0

/-! ### The pause pool (R235) -/

/-- The last choreography-area range that the main binary declares for a stack. -/
def pauseRange (s : State) (stack : Nat) : Option (Nat × Nat) :=
  (((areaRanges s (s.model 0)).filter fun r => r.1 == stack).getLast?).map fun r => r.2

def State.hasPausePool (s : State) : Bool := !(areaRanges s (s.model 0)).isEmpty

/-- The lowest stack with n free rows in its pause pool, and the first of them (in rows from the start of the stack). -/
def pauseFit (s : State) (n : Nat) : Option (Nat × Nat) :=
  (List.range 24).findSome? fun st => (pauseRange s st).bind fun r =>
    (fitRun n ((r.2 + 1) / 64) (AMap.get [] s.serving.runs (poolPause st)) (ceilDiv r.1 64)).map fun a => (st, a)

/-! ### Pausing (R234) -/

/-- A page that other requests may hold too: shared, or shared until its node was quarantined. -/
def DirEnt.held (d : DirEnt) : Bool := d.shared || d.refs > 1

/-- Page indexes that a request holds as private pages. -/
def State.privatePages (s : State) (e : Nat) : List (Nat × Nat) :=
  (List.range (s.epages e)).filterMap fun i => (s.pageAt e i).bind fun f => if (s.dir false f).held then none else some (i, f)

/-- A full private page that a pause image holds, by index: the request's list names no page there. -/
def State.imagePages (s : State) (e : Nat) : List Nat := (List.range (s.lastPos e / 64)).filter fun i => (s.pageAt e i).isNone

/-- What the other members are told of a pause: the entry, its 64 bytes as words, and its list words, a private FULL page marked by bit 7. -/
def pausedWords (s : State) (e : Nat) : List Nat :=
  e :: (List.range 16).map (fun i => Mem.nat s.sm (cardA e + 4 * i) 4) ++ (List.range (s.epages e)).map fun i => match s.pageAt e i with
    | some f => s.listWord e i + (if !(s.dir false f).held && (s.dir false f).state == pgCold then 128 else 0)
    | none => noPage

/-- The last pass has left the pipeline: hot slots are released and the request is PAUSED.  Positions of full pages that a repair lost stay to be recomputed after the resume. -/
def pauseNow (e : Nat) : Prog :=
  .get fun s => .seq [
    .each (s.privatePages e) fun p => .get fun s =>
      if (s.dir false p.2).state == pgFull then coolPage false p.2
      else if (s.dir false p.2).state == pgOpen then (clearPage false p.2).andThen (setListWord e p.1 noPage)
      else .done,
    .each ((s.req e).leadPages.map fun kv => kv.2 - 1) (releasePage true),
    entryStatus e 4 0 (s.lastPos e) 0, addReg 0x5015 0 1,
    setReq e fun r => { r with resv := [], leadResv := [], leadPages := [], leadAt := 0, drafts := [], draftsDone := false, pausedAt := s.us,
                               recompute := r.recompute.filter fun x => x.1 < s.lastPos e / 64 * 64, resuming := false },
    setCtrl e fun w => withBits 63 60 stPaused (withBits 57 57 0 w),
    .get fun s => .when (s.inGroup && s.groupMember == 0) (.each (otherMembers s) fun m => sendFirmware m 10 (pausedWords s e))]

/-- A request with PAUSE set pauses once no pass of it is in the pipeline. -/
def pauseIfDone (e : Nat) : Prog :=
  .get fun s => .when (s.est e == stDecode && cPause (s.ctrl e) && !s.inPipe e && !s.wideBusy e && !s.serving.reissue.any fun p => p.entry == e) (pauseNow e)

/-- The list words that a pause image holds: shared pages by id, NONE for the others. -/
def imageWords (s : State) (e : Nat) : List Nat := (List.range (s.epages e)).map fun i => match s.pageAt e i with
  | some f => if (s.dir false f).held then s.listWord e i else noPage
  | none => noPage

/-- The bytes of a pause image, from the card entry, its list words and its private pages by index. -/
def imageBytes (s : State) (card : List Byte) (words : List Nat) (pages : List (Nat × Nat)) : List Byte :=
  let m := s.model 0
  let bodies := pages.flatMap fun p => (s.wayCores false (p.1 % s.ways false)).flatMap fun key =>
    sliceBytes (kvConf s key) (Mem.read s.hbm (frameAddr s key p.2) (64 * apRows (kvConf s key)))
  let b := ascii "CRPI" ++ leBytes 2 1 ++ leBytes 2 0 ++ leBytes 4 pages.length ++ leBytes 4 s.groupMember ++ m.digest ++ leBytes 16 0 ++
    slice card 0 64 ++ words.flatMap (leBytes 4) ++ bodies
  slice b 0 (64 * ceilDiv b.length 64)

/-- The image header of the page-list area (R235). -/
def imageHeader (addr stack flags rows : Nat) (digest : List Byte) (pauseUs : Nat) : List Byte :=
  leBytes 8 addr ++ leBytes 1 stack ++ leBytes 1 flags ++ leBytes 6 0 ++ leBytes 4 rows ++ leBytes 4 0 ++ slice digest 0 32 ++ leBytes 8 pauseUs

/-- The frames of some pages may be read on every core that holds them (R168). -/
def framesOld (s : State) (pages : List (Nat × Nat)) : Bool := pages.all fun p => (s.wayCores false (p.1 % s.ways false)).all fun key => frameOld s false key p.2

/-- PAUSE_IMAGE_DONE: the image is written; the page ids of its pages are freed.  It waits while no pause pool has room, and while a frame is too young to be read. -/
def pauseImage (e : Nat) : Prog :=
  .get fun s =>
    let pages := (s.privatePages e).filter fun p => (s.dir false p.2).state == pgCold
    let b := imageBytes s (Mem.read s.sm (cardA e) 64) (imageWords s e) pages
    .when (s.est e == stPaused && !(s.req e).resuming && s.imgFlags e == 0 && framesOld s pages)
      (match pauseFit s (b.length / 64) with
        | none => .done
        | some (st, a) => .seq [takeRun (poolPause st) a (b.length / 64), .one (.hbm (hbmAddr st (64 * a)) b),
            putArea e 0 (imageHeader (64 * a) st 1 (b.length / 64) (shake256 32 b) (s.req e).pausedAt),
            .each pages fun p => (clearPage false p.2).andThen (setListWord e p.1 noPage)])

/-- Another member's image, from the card entry and the list words as member 0 told them at the pause.  DESIGN CHOICE (log 189): no message of the spec tells a member of a pause; member 0 sends the entry and the words as a firmware message, bit 7 of a word marking a private FULL page. -/
def memberImage (e : Nat) : Prog :=
  .get fun s =>
    let told := AMap.get [] s.serving.memberPaused e
    let ws := told.drop 16
    let pages := ws.zipIdx.filterMap fun x => if bit x.1 7 then (wordPage x.1).map fun f => (x.2, f) else none
    let words := ws.map fun w => if bit w 7 then noPage else w
    let b := imageBytes s ((told.take 16).flatMap (leBytes 4)) words pages
    .when (!told.isEmpty && (AMap.get none s.serving.memberImages e).isNone && framesOld s pages) (match pauseFit s (b.length / 64) with
      | none => .done
      | some (st, a) => .seq [takeRun (poolPause st) a (b.length / 64), .one (.hbm (hbmAddr st (64 * a)) b),
          .each pages fun p => putDir false p.2 fun d => { d with hot := 0xFFFF, state := pgFree },
          setServing fun v => { v with memberPaused := AMap.put [] v.memberPaused e []
                                       memberImages := AMap.put none v.memberImages e (some ⟨st, 64 * a, b.length, 128 + 4 * words.length, pages.map (·.1)⟩) }])

/-- PAUSE_IMAGE_DONE. -/
def execPauseImageDone (e : Nat) (s : State) : Host.Outcome State Fault Refusal :=
  (if e ≥ 16384 then (Prog.fault (.noSuchUnit e))
   else served <| .get fun s => if s.inGroup && s.groupMember != 0 then memberImage e else pauseImage e).run s

/-! ### Export and import (R238, R304) -/

/-- An export or an import of an entry is in progress. -/
def State.imageMoving (s : State) (e : Nat) : Bool := (s.image.pushes.any fun p => p.entry == e) || s.image.xfers.any fun x => x.kind == 4 && x.num == e

/-- PUSH messages from an offset up. -/
def pushFrom (p : Push) (off : Nat) : Prog :=
  .get fun s => match s.sourceAt 4 [] 0 with
    | none => .done
    | some d =>
      let n := max 1 (min 8192 (s.lenMax d.addr - 24))
      .seq [.when (d.port < 2) (setImage fun i => { i with port := d.port, pushes := i.pushes.map fun q => if q.xid == p.xid then { q with port := d.port } else q }),
        .ups ((List.range (ceilDiv (p.len - off) n)).map fun i =>
          let o := off + n * i
          imageFrame d 4 (leBytes 4 p.xid ++ leBytes 1 4 ++ leBytes 3 0 ++ leBytes 8 p.len ++ leBytes 8 o ++ Mem.read s.hbm (p.addr + o) (min n (p.len - o))))]

def State.push (s : State) (xid : Nat) : Option Push := s.image.pushes.find? fun p => p.xid == xid
def dropPush (xid : Nat) : Prog := setImage fun i => { i with pushes := i.pushes.filter fun p => p.xid != xid }

def pauseExport (e : Nat) (k : Answer → Prog) : Prog :=
  if e ≥ 16384 then k (.refuse 4)
  else .get fun s =>
    if s.est e != stPaused || (s.req e).resuming || s.imageMoving e || !bit (s.imgFlags e) 0 then k .busy
    else
      let xid := (s.image.xid + 1) % 2 ^ 32
      let p : Push := ⟨xid, e, hbmAddr (s.imgStack e) (s.imgAddr e), 64 * s.imgRows e, 0, s.now, s.now, 0⟩
      .seq [setImage fun i => { i with xid := xid, pushes := i.pushes ++ [p] }, pushFrom p 0, k .later]

def pauseImport (e : Nat) (k : Answer → Prog) : Prog :=
  if e ≥ 16384 then k (.refuse 4)
  else .get fun s =>
    if s.est e != stPaused || s.imageMoving e then k .busy
    else if !bit (s.imgFlags e) 1 then k (if bit (s.imgFlags e) 0 then .ok else .busy)
    else (startXfer 4 (s.imgDigest e) e (64 * s.imgRows e)).andThen (k .later)

def execPauseExport (sid : Sid) (e : Nat) (s : State) : Host.Outcome State Fault Refusal :=
  (ownerCmdAt (cmdKey 0x5020 e) 0x5020 sid (fun _ => .done) fun k => featureOr 4 sid k fun k => served (pauseExport e k)).run s
def execPauseImport (sid : Sid) (e : Nat) (s : State) : Host.Outcome State Fault Refusal :=
  (ownerCmdAt (cmdKey 0x5021 e) 0x5021 sid (fun _ => .done) fun k => featureOr 4 sid k fun k => served (pauseImport e k)).run s

/-- PUSH_ACK: progress, or the end of the export: the HBM copy is freed and the image is marked as exported.  DESIGN CHOICE (log 194): the command names no path; it comes in on the port that the export's last PUSH took. -/
def execPushAck (xid got : Nat) (s : State) : Host.Outcome State Fault Refusal :=
  (Prog.get fun s => match s.push xid with
    | none => .done
    | some p => arriving (p.port % 2) <| served <| .get fun s =>
      if got = p.len then .seq [dropPush xid, freeRun (poolPause (s.imgStack p.entry)) (s.imgAddr p.entry / 64), putArea p.entry 9 (leBytes 1 2), finishImage 0x5020 p.entry 0]
      else .when (p.acked < got && got < p.len) (setImage fun i => { i with pushes := i.pushes.map fun q =>
          if q.xid == xid then { q with acked := got, sent := s.now, progress := s.now } else q })).run s

/-- PUSH_RETRY: 20 ms without progress. -/
def execPushRetry (xid : Nat) (s : State) : Host.Outcome State Fault Refusal :=
  (served <| .get fun s => match s.push xid with
    | none => .done
    | some p => .seq [.one (.time (p.sent + 20000000)), pushFrom p p.acked,
        .get fun s => setImage fun i => { i with pushes := i.pushes.map fun q => if q.xid == xid then { q with sent := s.now } else q }, sakEvents]).run s

/-- PUSH_TIMEOUT: 2 s without progress; the HBM copy is kept. -/
def execPushTimeout (xid : Nat) (s : State) : Host.Outcome State Fault Refusal :=
  (served <| .get fun s => match s.push xid with
    | none => .done
    | some p => .seq [.one (.time (p.progress + 2000000000)), dropPush xid, finishImage 0x5020 p.entry 0x44]).run s

/-- The image of an import has arrived: its digest and its choreography are compared, and it is put into a pause pool. -/
def importArrived (e : Nat) (b : List Byte) : Prog :=
  .get fun s =>
    if shake256 32 b != s.imgDigest e || slice b 16 32 != slice (s.model 0).digest 0 32 then finishImage 0x5021 e 0x43
    else match pauseFit s (b.length / 64) with
      | none => finishImage 0x5021 e 0x41
      | some (st, a) => .seq [takeRun (poolPause st) a (b.length / 64), .one (.hbm (hbmAddr st (64 * a)) b),
          putArea e 0 (leBytes 8 (64 * a) ++ leBytes 1 st ++ leBytes 1 1), finishImage 0x5021 e 0]

end Sys2Proof.Machine
end

