-- ==== Sys2Proof/Machine/Admit.lean ====
section
/-! DEFINITION. The admission scan: reservations, prefix links, copies, resumes and the choice of requests to pause (R167, R172 to R176, R224 to R226, R229, R233, R234). -/

namespace Sys2Proof.Machine

/-! ### Reservations (R167) -/

/-- Hot slots and page ids of a way that requests have reserved and not used. -/
def resvTotal (s : State) (lead : Bool) (w : Nat) : Nat :=
  s.serving.reqs.foldl (fun a kv => a + AMap.get 0 (if lead then kv.2.leadResv else kv.2.resv) w) 0

/-- How many of some page indexes belong to a way. -/
def inWay (ways w : Nat) (is : List Nat) : Nat := is.countP fun i => i % ways == w

/-- A node and its ancestors. -/
def ancestors (s : State) : Nat → Nat → List Nat
  | 0, _ => []
  | k + 1, n => n :: (let p := s.node n ndParent 4; if p = 0 then [] else ancestors s k (p - 1))

/-- Nodes that cannot be removed: those with references, those whose page is still being filled and those to be kept, and their ancestors. -/
def pinnedNodes (s : State) (keep : List Nat) : List Nat :=
  (s.nodesWhere (fun n => (s.dir false (s.node n ndPage 4)).refs > 0 || AMap.get 0 s.serving.loading (pageKey false (s.node n ndPage 4)) != 0) ++ keep).flatMap (ancestors s 4096)

/-- A shared page of the main directory without references that may go. -/
def evictable (s : State) (lead : Bool) (w : Nat) (keep : List Nat) : Nat :=
  ((s.wayPages lead w fun d => d.state == pgFull && d.shared && d.refs == 0).filter fun f => !keep.contains f).length

/-- Page ids of a way that removing nodes would free. -/
def removable (s : State) (w : Nat) (pinned : List Nat) : Nat :=
  (s.nodesWhere fun n => s.node n ndPage 4 % s.ways false == w && !pinned.contains n).length

/-- Removes leaves until a way has so many FREE page ids. -/
def freeIds (w n : Nat) (pinned : List Nat) : Nat → Prog
  | 0 => .done
  | k + 1 => .get fun s =>
    if n ≤ (s.wayPages false w fun d => d.state == pgFree).length then .done
    else match s.oldLeaf fun x => !pinned.contains x with
      | some x => (removeNode x).andThen (freeIds w n pinned k)
      | none => .done

/-- Evicts shared pages until a way has so many free hot slots. -/
def freeHot (lead : Bool) (w n : Nat) (keep : List Nat) : Nat → Prog
  | 0 => .done
  | k + 1 => .get fun s =>
    if n ≤ (s.freeSlots lead w).length then .done
    else match s.oldShared lead w keep with
      | some f => (coolPage lead f).andThen (freeHot lead w n keep k)
      | none => .done

/-- Makes the room that was found. -/
def makeRoom (lead : Bool) (w need hot : Nat) (keep pinned : List Nat) : Prog :=
  .get fun s =>
    let n := resvTotal s lead w + need
    .seq [.when (!lead) (freeIds w n pinned nodesMax), freeHot lead w (n + hot) keep nodesMax]

/-! ### What a request needs -/

/-- What a reservation takes: the nodes its prompt matches, whether the chain is public, the page indexes to reserve in main, and whether it speculates and so reserves its pages in the lead too. -/
structure Plan where
  nodes : List Nat
  isPublic : Bool
  need : List Nat
  lead : Bool
  deriving DecidableEq, Repr

/-- A token of a prompt that still waits in the prompt pool. -/
def State.promptTok (s : State) (e p : Nat) : Nat := Mem.nat s.sm (promptAddr (s.req e).pool.1 + 4 * p) 4
def State.promptPage (s : State) (e i : Nat) : List Nat := (List.range (min 64 (s.ePrompt e - 64 * i))).map fun j => s.promptTok e (64 * i + j)

/-- The lead serves, so that requests may speculate. -/
def State.leadServes (s : State) : Bool := (s.model 1).running && !(s.model 1).draining

/-- The most active requests: ACTIVE_MAX, and never more than the 1 024 streams of R3. -/
def State.activeMax (s : State) : Nat := min 1024 (s.reg 0x5000)

/-- Requests that hold an active place. -/
def State.activeCount (s : State) : Nat :=
  s.entries.countP fun e => [stPrefill, stDecode, stDraining].contains (s.est e) || (s.est e == stPaused && (s.req e).resuming)

/-- The request will speculate: SPEC is set and a lead is resident (R257). -/
def leadHolds (s : State) (e : Nat) : Bool := s.leadServes && cSpec (s.ctrl e) && lfKreq (s.lf e) != 0

/-- Room in every way of the lead for a whole request, beside hot slots and page ids that others will release. -/
def leadRoomBeside (s : State) (e : Nat) (hot ids : Nat → Nat) : Bool :=
  (List.range (s.ways true)).all fun w =>
    let n := resvTotal s true w + inWay (s.ways true) w (List.range (s.epages e))
    n ≤ (s.freeSlots true w).length + evictable s true w [] + hot w && n ≤ (s.wayPages true w fun d => d.state == pgFree).length + ids w
def leadRoom (s : State) (e : Nat) : Bool := leadRoomBeside s e (fun _ => 0) fun _ => 0

/-- What main must hold for a request that waits. -/
def planOf (s : State) (e : Nat) : Plan :=
  if s.est e = stQueued then
    let h := matchPages s (cTenant (s.ctrl e)) (cPmode (s.ctrl e)) (s.promptPage e) (s.ePrompt e / 64) 0 ⟨[], true⟩
    ⟨h.nodes, h.isPublic, (List.range (s.epages e)).drop h.nodes.length, leadHolds s e⟩
  else ⟨[], true, (List.range (s.epages e)).filter fun i => (s.pageAt e i).isNone, leadHolds s e⟩

/-- The main ways can hold a plan, when `extra` gives hot slots and page ids that requests chosen for pause will release. -/
def planFits (s : State) (p : Plan) (extraHot extraIds : Nat → Nat) : Bool :=
  let pages := p.nodes.map fun n => s.node n ndPage 4
  let pinned := pinnedNodes s p.nodes
  (List.range (s.ways false)).all fun w =>
    let need := inWay (s.ways false) w p.need
    let hot := pages.countP fun f => f % s.ways false == w && (s.dir false f).state == pgCold
    resvTotal s false w + need + hot ≤ (s.freeSlots false w).length + evictable s false w pages + extraHot w &&
      resvTotal s false w + need ≤ (s.wayPages false w fun d => d.state == pgFree).length + removable s w pinned + extraIds w

/-- The page-list area and the token-history area of a queued request can be had. -/
def areasFit (s : State) (e : Nat) : Bool :=
  s.est e != stQueued || ((s.poolFit poolPages (listUnits (s.positions e)) pageUnits).isSome && (s.poolFit poolHistory (historyRun (s.positions e)) historyUnits).isSome)

/-- The whole reservation can be made, in the lead too for a request that speculates (R167, R225). -/
def reserves (s : State) (e : Nat) (p : Plan) : Bool :=
  s.activeCount < s.activeMax && areasFit s e && planFits s p (fun _ => 0) (fun _ => 0) && (!p.lead || leadRoom s e)

/-- Makes room in every way and keeps the reservation with the request. -/
def reserve (e : Nat) (p : Plan) : Prog :=
  .get fun s =>
    let pages := p.nodes.map fun n => s.node n ndPage 4
    let pinned := pinnedNodes s p.nodes
    .seq [.each (List.range (s.ways false)) fun w =>
        makeRoom false w (inWay (s.ways false) w p.need) (pages.countP fun f => f % s.ways false == w && (s.dir false f).state == pgCold) pages pinned,
      setReq e fun r => { r with
        resv := (List.range (s.ways false)).foldl (fun m w => AMap.put 0 m w (inWay (s.ways false) w p.need)) []
        leadResv := if p.lead then (List.range (s.ways true)).foldl (fun m w => AMap.put 0 m w (inWay (s.ways true) w (List.range (s.epages e)))) [] else [] }]

/-- Takes one page of a way out of a request's reservation. -/
def useResv (e : Nat) (lead : Bool) (w : Nat) : Prog :=
  setReq e fun r => if lead then { r with leadResv := AMap.put 0 r.leadResv w (AMap.get 0 r.leadResv w - 1) } else { r with resv := AMap.put 0 r.resv w (AMap.get 0 r.resv w - 1) }

/-- A new OPEN page for index i of a request's list. -/
def newPage (e i count : Nat) (k : Nat → Prog) : Prog :=
  .get fun s => match s.freePage false (i % s.ways false) with
    | none => .done
    | some f => .seq [openPage false f (cTenant (s.ctrl e)) count, useResv e false (i % s.ways false), setListWord e i (pageWord f count), k f]

/-- A new OPEN page of the lead for index i. -/
def newLeadPage (e i : Nat) : Prog :=
  .get fun s => match s.freePage true (i % s.ways true) with
    | none => .done
    | some f => .seq [openPage true f (cTenant (s.ctrl e)) 0, useResv e true (i % s.ways true),
        setReq e fun r => { r with leadPages := AMap.put 0 r.leadPages i (f + 1) }]

/-! ### Issue records of a group (R278) -/

/-- The tumbler core that sends and receives the issue records of main or lead. -/
def recordTumbler (lead : Bool) : Nat := (dutyCore dutyServing + boolNat lead) % 24

def wordRows (ws : List Nat) : List Row := (List.range (ceilDiv ws.length 16)).map fun i =>
  BitVec.ofNat 512 (packLanes 32 ((ws.drop (16 * i)).take 16))

/-- One 16-byte directory change. -/
def changeWords (s : State) (lead : Bool) (f : Nat) : List Nat :=
  let d := s.dir lead f
  [f, d.hot + d.state * 2 ^ 16 + d.count * 2 ^ 24, d.gen, 0]

/-- The first data slot of a record. -/
def recordRow (slot entry first count pseq : Nat) : Row := rowOfFields [(0, 8, slot), (8, 2, entry), (10, 4, first), (14, 1, count), (15, 4, pseq)]

/-- A mesh link packet to a tumbler core of another member. -/
def linkPacket (t link mine peer : Nat) (slots : List Row) : Packet :=
  let hdr (ep len ctr : Nat) : Nat := 127 * 2 ^ 57 + ep / 32 * 2 ^ 52 + ep % 32 * 2 ^ 47 + len * 2 ^ 37 + ctr * 2 ^ 28
  ⟨srcEndpoint (0x180 + t), BitVec.ofNat 64 (hdr (0x1A0 + link) slots.length 0),
    rowOfFields [(0, 8, hdr (0x180 + t) (slots.length - 1) 1), (8, 1, 1), (9, 1, peer), (10, 1, mine), (11, 1, slots.length)] :: slots⟩

def toMembers (lead : Bool) (slots : List Row) : Prog :=
  .get fun s => .each ((List.range s.groupSize).filter (· != s.groupMember)) fun peer =>
    match linkTo s peer with
    | some l => inject (linkPacket (recordTumbler lead) l s.groupMember peer slots)
    | none => .done

/-- Changes that do not fit beside the tokens go ahead in records without positions. -/
def changeRecords (lead : Bool) (slot entry first pseq : Nat) : Nat → List Nat → Prog
  | 0, _ => .done
  | n + 1, fs => .get fun s =>
    if fs.isEmpty then .done
    else (toMembers lead (recordRow slot entry first 0 pseq :: wordRows ((fs.take 56).flatMap (changeWords s lead)))).andThen (changeRecords lead slot entry first pseq n (fs.drop 56))

/-- Member 0 tells the others the pages of a request that is taken up with pages still to be loaded, ahead of its first pass.  DESIGN CHOICE: R278 does not say when a directory change is sent; a page to be loaded must be known a fetch latency before a pass names it. -/
def announcePages (e : Nat) : Prog :=
  .get fun s => .when (s.inGroup && s.groupMember == 0)
    (let fs := (List.range (s.epages e)).filterMap (s.pageAt e)
     .when (fs.any fun f => (s.dir false f).state == pgLoading)
       (changeRecords false (AMap.get 0 s.serving.nextSlot 0) e 0 0 128 fs))

/-! ### Admission (R172, R174, R222) -/

/-- Takes a reference on a matched page and links it at index i. -/
def linkNode (e i n : Nat) : Prog :=
  .get fun s =>
    let f := s.node n ndPage 4
    .seq [.when ((s.dir false f).state == pgCold) (warmPage false f), putDir false f fun d => { d with refs := d.refs + 1, use := s.us },
      setNode n ndUse 8 s.us, setListWord e i (pageWord f 64), setLinks e (s.plist e) (n + 1)]

/-- The copy of the page that shares the longest run with the divergence page: positions taken over. -/
def copyTail (e i : Nat) (p : Plan) (k : Nat → Prog) : Prog :=
  .get fun s =>
    let parent := match p.nodes.getLast? with
      | some n => n + 1
      | none => 0
    let ids := (List.range (min 64 (s.ePrompt e - 64 * i))).map fun j => s.token e (64 * i + j)
    match bestChild s parent ids with
    | some (n, d) => if d ≥ s.reg 0x5412 then
        newPage e i d fun f => .seq [fetchPage false (s.node n ndPage 4) f, addReg 0x5413 0 1, k d]
      else k 0
    | none => k 0

/-- The areas of a request that is admitted, and its prompt in the token history. -/
def takeAreas (e : Nat) : Prog :=
  .get fun s =>
    let n := s.positions e
    match s.poolFit poolPages (listUnits n) pageUnits, s.poolFit poolHistory (historyRun n) historyUnits with
    | some a, some h => .seq [takeRun poolPages a (listUnits n), takeRun poolHistory h (historyRun n), setLinks e (0x20000 + a) 0, putEnt e 48 4 h,
        .one (.smZero (0x800000 + 64 * a) (64 * listUnits n)), putArea e 0 (leBytes 64 0), .each (List.range (pagesOf n)) fun i => setListWord e i noPage,
        .each (List.range (s.ePrompt e)) fun p => setToken e p (s.promptTok e p),
        .when ((s.req e).pool.2 != 0) (freeRun poolPrompt (s.req e).pool.1), setReq e fun r => { r with pool := (0, 0) }]
    | _, _ => .done

/-- QUEUED to PREFILL. -/
def admitEntry (e : Nat) (p : Plan) : Prog :=
  .seq [reserve e p, takeAreas e, .each p.nodes.zipIdx fun x => linkNode e x.2 x.1, announcePages e, addReg 0x5411 0 p.nodes.length,
    .get fun s =>
      let l := p.nodes.length
      let after (d : Nat) : Prog := .seq [
        setReq e fun r => { r with linked := 64 * l, issued := min (64 * l + d) (s.ePrompt e - 1), upto := s.ePrompt e },
        setLf e (lfWord (if p.lead then lfKreq (s.lf e) else 0) (lfKreq (s.lf e)) 0 0), setState e stPrefill, entryStatus e 2 0 (64 * l) 0]
      if 64 * l < s.ePrompt e then copyTail e l p after else after 0]

/-! ### Resume (R234) -/

/-- The frames of a page, rebuilt from a body at an offset of an image and sealed with a new GEN, on every core of its way. -/
def writeFrames (s : State) (i f gen : Nat) (img : List Byte) (off : Nat) : Prog :=
  .each (s.wayCores false (i % s.ways false)).zipIdx fun x =>
    let a := kvConf s x.1
    .one (.hbm (frameAddr s x.1 f) (framePage a (slice img (off + x.2 * sliceLen a) (sliceLen a)) ++ sealBytes f gen 0 127 31 31))

/-- One page of an image: a new page id, its frame rebuilt and sealed, COLD and at once LOADING. -/
def restorePage (e i : Nat) (img : List Byte) (off : Nat) : Prog :=
  .get fun s => match s.freePage false (i % s.ways false) with
    | none => .done
    | some f =>
      let gen := ((s.dir false f).gen + 1) % 2 ^ 32
      let tenant := cTenant (s.ctrl e)
      .seq [writeFrames s i f gen img off, putDir false f fun _ => ⟨0xFFFF, pgCold, 0, 1, 64, gen, 0, 0, tenant, s.us⟩, addReg 0x5403 0 1, useResv e false (i % s.ways false),
        setListWord e i (pageWord f 64), warmPage false f]

/-- The bytes that the body of a page takes in an image. -/
def bodyLen (s : State) (i : Nat) : Nat := ((s.wayCores false (i % s.ways false)).map fun k => sliceLen (kvConf s k)).foldl (· + ·) 0

def restorePages (s : State) (e : Nat) (img : List Byte) : List Nat → Nat → List Prog
  | [], _ => []
  | i :: is, off => restorePage e i img off :: restorePages s e img is (off + bodyLen s i)

/-- A paused request is taken up again: pages from its image, the rest of its positions to be recomputed. -/
def resume (e : Nat) (p : Plan) : Prog :=
  .seq [reserve e p, .get fun s =>
    let img := Mem.read s.hbm (hbmAddr (s.imgStack e) (s.imgAddr e)) (64 * s.imgRows e)
    let is := s.imagePages e
    .seq [.seq (restorePages s e img is (128 + 4 * s.epages e)), announcePages e, freeRun (poolPause (s.imgStack e)) (s.imgAddr e / 64), putArea e 0 (leBytes 64 0),
      setReq e fun r => { r with resuming := true, issued := s.lastPos e / 64 * 64, upto := s.lastPos e + 1, base := none },
      .when (!p.lead) (setLf e (lfWord 0 (lfKreq (s.lf e)) (lfLow (s.lf e)) (lfRetry (s.lf e))))]]

/-- Another member of a group takes its own image of a request back once it has been told of the request's new pages (R234, R235). -/
def restoreMember (e : Nat) (pages : List Nat) : Prog :=
  .get fun s => match AMap.get none s.serving.memberImages e with
    | none => .done
    | some m =>
      let img := Mem.read s.hbm (hbmAddr m.stack m.addr) m.len
      let rec go : List Nat → Nat → List Prog
        | [], _ => []
        | i :: is, off => (match pages[i]? with
          | some f => .seq [writeFrames s i f (s.dir false f).gen img off, fetchPage false f f]
          | none => .done) :: go is (off + bodyLen s i)
      .seq [.seq (go m.pages m.body), freeRun (poolPause m.stack) (m.addr / 64),
        setServing fun v => { v with memberImages := AMap.put none v.memberImages e none }]

/-! ### Preemption (R233) -/

/-- Requests that may be paused for H, the first to be chosen first; none with an escalation pending (R145, R240). -/
def pauseCandidates (s : State) (h : Nat) : List Nat :=
  rankBy (fun v => [7 - cPrio (s.ctrl v), noDeadline - (s.deadline v).getD noDeadline, 16383 - v])
    ((s.inState [stDecode]).filter fun v =>
      let w := s.ctrl v
      cPrio w > cPrio (s.ctrl h) && !cPin w && !cPause w && !cDone w && !cDiscard w && !s.wideBusy v &&
        !s.serving.attempts.any (fun a => (s.serving.passes ++ s.serving.reissue).any fun p => p.pseq == a.1 && p.entry == v) &&
        (match (s.req v).resumedAt with
          | some t => t + s.reg 0x5007 * 1000 ≤ s.us
          | none => true))

/-- Hot slots, and page ids, of a way that pausing some requests would release. -/
def releasedHot (s : State) (vs : List Nat) (w : Nat) : Nat :=
  (vs.map fun v => ((s.privatePages v).countP fun p => p.2 % s.ways false == w && (s.dir false p.2).hot != 0xFFFF) + AMap.get 0 (s.req v).resv w).foldl (· + ·) 0
def releasedIds (s : State) (vs : List Nat) (w : Nat) : Nat :=
  (vs.map fun v => ((s.privatePages v).countP fun p => p.2 % s.ways false == w) + AMap.get 0 (s.req v).resv w).foldl (· + ·) 0

/-- The same of the lead's ways: a speculating request releases its lead's pages and reservation. -/
def leadRoomWith (s : State) (h : Nat) (vs : List Nat) : Bool :=
  let pages (v w : Nat) (p : DirEnt → Bool) := (s.req v).leadPages.countP fun kv => (kv.2 - 1) % s.ways true == w && p (s.dir true (kv.2 - 1))
  let total (w : Nat) (p : DirEnt → Bool) := (vs.map fun v => pages v w p + AMap.get 0 (s.req v).leadResv w).foldl (· + ·) 0
  leadRoomBeside s h (fun w => total w fun d => d.hot != 0xFFFF) fun w => total w fun _ => true

/-- H's reservation would succeed with what these requests release (R233). -/
def fitsWith (s : State) (h : Nat) (p : Plan) (vs : List Nat) : Bool :=
  s.activeCount < s.activeMax + vs.length && areasFit s h && planFits s p (releasedHot s vs) (releasedIds s vs) && (!p.lead || leadRoomWith s h vs)

/-- Chooses candidates one at a time until H would fit. -/
def choosePauses (s : State) (h : Nat) (p : Plan) : List Nat → List Nat → Option (List Nat)
  | [], vs => if fitsWith s h p vs then some vs else none
  | v :: rest, vs => if fitsWith s h p vs then some vs else choosePauses s h p rest (vs ++ [v])

def mayPreempt (s : State) (h : Nat) : Bool :=
  s.inGroup && s.groupSize ≥ 4 && s.groupMember == 0 && s.reg 0x5006 == 1 && s.hasPausePool && s.ttftDl h != 0 && !(s.model 0).draining

/-- The scan stops at H: requests may be chosen to pause for it. -/
def preempt (h : Nat) : Prog :=
  .get fun s => .when (mayPreempt s h)
    (let already := (s.inState [stDecode]).filter fun v => cPause (s.ctrl v)
     match choosePauses s h (planOf s h) (pauseCandidates s h) already with
     | some vs => .each (vs.filter fun v => !already.contains v) fun v => (setCtrl v (withBits 57 57 1)).andThen (pauseIfDone v)
     | none => .done)

/-! ### The scan (R225, R226, R229) -/

/-- Requests whose deadlines can no longer be met end. -/
def endLate (e : Nat) : Prog :=
  .get fun s =>
    let st := s.est e
    if st == stQueued then
      if s.ttftDl e != 0 && s.arrival e + s.ttftDl e < s.us + s.prefillUs (s.ePrompt e) then endWaiting e 0x12 2
      else if s.pastEnd e then endWaiting e 0x12 3 else .done
    else if (st == stPaused || st == stPrefill || st == stDecode) && s.pastEnd e && !s.awaitsBatch e then expireEntry e
    else .done

/-- A paused request can be taken up: its image is in HBM. -/
def State.resumable (s : State) (e : Nat) : Bool := s.est e == stQueued || (bit (s.imgFlags e) 0 && !s.imageMoving e)

/-- Admits from the head of the order until a reservation fails. -/
def scanOrder : List Nat → Prog
  | [] => .done
  | e :: es => .get fun s =>
    if !s.resumable e then scanOrder es
    else
      let p := planOf s e
      if reserves s e p then (if s.est e = stQueued then admitEntry e p else resume e p).andThen (scanOrder es) else preempt e

/-- ADMISSION_SCAN: every 16 beats. -/
def execAdmissionScan (s : State) : Host.Outcome State Fault Refusal :=
  (served <| .get fun s =>
    let t := max s.now (AMap.get 0 s.ticks tkAdmission + 16 * s.period)
    .seq [.one (.time t), .one (.tick tkAdmission t), .get fun s => .each s.entries endLate,
      .get fun s => .when ((s.model 0).running) (scanOrder s.admissionOrder)]).run s

end Sys2Proof.Machine
end

