-- ==== Sys2Proof/Machine/Power.lean ====
section
/-! DEFINITION. Power delivery and the current ledger (R336, R340 to R363). -/

namespace Sys2Proof.Machine

/-! ### Fields and segments (R341) -/

def segmentOf (p : Nat) : Nat := p % 11 + 11 * (p / 11 / 4)
/-- The other physical fields of a field's segment. -/
def neighbours (p : Nat) : List Nat := (List.range 88).filter fun q => q != p && segmentOf q == segmentOf p
/-- The 6 V feed current of a field, mA, as last published. -/
def State.feedMa (s : State) (p : Nat) : Nat := s.power.domainMa.getD p 0 + s.power.domainMa.getD (88 + p) 0

/-! ### Requests of the ledger (R353, R354, R358) -/

/-- Price in hundredths of A(L) of an Ethernet module of a class power in tenths of a watt, rounded up to 0.1 A(L) (R354). -/
def portPrice (deciWatt : Nat) : Nat := 30 + 10 * ceilDiv deciWatt 54

/-- Price of an HBM class. -/
def hbmPrice (c : Nat) : Nat := [15, 30, 60].getD c 60

/-- Conditions 2 and 3 of R358. -/
def segmentReady (s : State) (p : Nat) : Bool :=
  s.power.segmentMa.getD (segmentOf p) 0 ≤ 240000 && (neighbours p).all fun q => s.feedMa q ≤ 48000

/-- The soft start: the array rail, then the logic rail to the step-6 set point, with the field at step 6 (R345, R358). -/
def softStart (p : Nat) : Prog :=
  .get fun s => .seq [setDomain (88 + p) domRamp, setDomain p domRamp, setLimit p srcRamp 6, setReg 0x3005 (p + 1) 6,
    setThermal fun t => { t with setPoint := AMap.put 0 (AMap.put 0 t.setPoint (88 + p) (s.arrayVset p)) p (s.fieldVset p 6) }]

/-- The soft start is over: the rails that rose are ON, and with both the ramp surcharge is released.  DESIGN CHOICE (log 196): a field whose logic rail a trip cut during the soft start keeps its array rail. -/
def rampOver (p : Nat) : Prog :=
  .get fun s => .seq [domainBecomes (88 + p) domOn, .when (s.domain p == domRamp) (domainBecomes p domOn)]

/-- The reservation of a power-up is drawn and the soft start begins. -/
def startRamp (p : Nat) : Prog :=
  .seq [setReserve (ledgerKey actField p) 0, .get fun s => setGrant (ledgerKey actField p) (AMap.get 0 s.power.grants (ledgerKey actField p) + 130), softStart p]

/-- A field power-up is asked for: its price is reserved and it waits for its segment; with C below the granted total it waits for capacity (R358, R362). -/
def askPowerUp (requester p : Nat) : Prog :=
  .get fun s =>
    let add (reserved : Bool) : Prog := setPower fun w => { w with powerups := w.powerups ++ [(p, requester, s.now, reserved, false)] }
    if p ≥ 88 then .fault (.noSuchUnit p)
    else if s.domain p != domOff || s.power.powerups.any (fun w => w.1 == p) then .done
    else if s.overGranted then add false
    else askReserve requester actField p 130 (add true) fun _ => .done

/-- Firmware work asks for a step of a field (R354, R355).  A field that a resident choreography names costs nothing and has no RAMP limit; another pays the difference of the peaks to run faster, and holds only the price of its new step when it is lowered, which needs no grant. -/
def stepRequest (requester p step : Nat) : Prog :=
  .get fun s =>
    let key := ledgerKey actStep p
    if ((s.logicalField p).bind s.fieldSlot).isSome then .done
    else if step ≥ s.fieldStep p then
      (setGrant key (min (AMap.get 0 s.power.grants key) (fieldPeak step - fieldPeak 6))).andThen (setLimit p srcRamp step)
    else askGrant requester actStep p (fieldPeak step - fieldPeak (s.fieldStep p)) (setLimit p srcRamp step) fun _ => .done

/-- A priced action of R354: granted or refused. -/
def ledgerProg (requester action unit arg : Nat) : Prog :=
  .get fun s =>
    if action = actTumbler then askGrant requester action 0 600 (setDomain 218 domOn) fun _ => .done
    else if action = actField then askPowerUp requester unit
    else if action = actBist then
      (if unit ≥ 88 then .fault (.noSuchUnit unit) else askGrant requester action unit (fieldPeak arg - 80) .done fun _ => .done)
    else if action = actModel then
      (if unit ≥ 3 then .fault (.noSuchUnit unit) else askReserve requester action unit (100 * arg) .done fun _ => .done)
    else if action = actStep then
      (if unit ≥ 88 || arg > 6 then .fault (.noSuchUnit unit) else stepRequest requester unit arg)
    else if action = actHbm then
      (if unit ≥ 24 || arg > 2 then .fault (.noSuchUnit unit)
       else
        let key := ledgerKey action unit
        let held := AMap.get 0 s.power.grants key
        if hbmPrice arg ≤ held then (setGrant key (hbmPrice arg)).andThen (setReg 0x200E (unit + 1) arg)
        else askGrant requester action unit (hbmPrice arg - held) (setReg 0x200E (unit + 1) arg) fun _ => .done)
    else if action = actLink then
      (if unit ≥ 16 then .fault (.noSuchUnit unit) else askGrant requester action unit 100 (setDomain (176 + unit) domOn) fun _ => .done)
    else if action = actPort then
      (if unit ≥ 2 then .fault (.noSuchUnit unit) else askGrant requester action unit (portPrice arg) .done fun _ => .done)
    else if action = 0 then .done
    else .fault (.noSuchUnit action)

/-- LEDGER_REQUEST: M1 grants or refuses; while it restarts, requests wait (R312). -/
def execLedgerRequest (requester action : Nat) (unit arg : Nat) (s : State) : Host.Outcome State Fault Refusal :=
  (if requester > 5 then (Prog.fault (.noSuchUnit requester))
   else needM1 (.request requester action unit arg) .done (ledgerProg requester action unit arg)).run s

/-! ### LEDGER_LIMIT (R336, R353) -/

/-- F_min in thousandths of a litre per minute for a limit of l amps: max (30, 2 P_L). -/
def flowMin (l : Nat) : Nat := max 30000 (2 * l * 54)

/-- A finite F32 value as a rational number of thousandths is below a bound. -/
def f32BelowMilli (bits_ bound : Nat) : Bool :=
  match Fmt.fp32.decode bits_ with
  | .fin neg m e => neg || (if e ≥ 0 then m * 2 ^ e.toNat * 1000 < bound else m * 1000 < bound * 2 ^ e.natAbs)
  | .inf neg => neg
  | .nan => true

def ledgerLimitWrite (v : Nat) (k : Answer → Prog) : Prog :=
  .get fun s =>
    if v < 100 || v > 560 then k (.refuse 4)
    else if s.capacityFor v < s.grantedTotal * 54000 then k (.refuse 4)
    else if f32BelowMilli (s.reg 0x3883) (flowMin v) then k (.refuse 4)
    else .seq [setReg 0x2000 0 v, publishLedger, k .ok]

def execLedgerLimit (sid : Sid) (v : BitVec 16) (s : State) : Host.Outcome State Fault Refusal :=
  (ownerWrite sid (fun _ => .done) (ledgerLimitWrite v.toNat)).run s

/-! ### The 1 ms tick (R352, R353, R358, R359, R360) -/

def gCurrent : Nat := 0

/-- The 1 ms current of a domain as an F32 number of amps: its mean code less the offset, times the gain in force, less I_CAL while the domain's source is on (R352, R411, R413).  A gain or offset that is no finite number, as an unchecked blob can bring one, makes it none. -/
def domainAmps (s : State) (d : Nat) (code : Int) (source : Option (Nat × Nat)) : Nat :=
  let v := s.calValue gCurrent d
  let ical : Int := match source with
    | some x => if x.1 = d && bit s.calib.mask gCurrent then (x.2 : Int) else 0
    | none => 0
  match f32Scaled v.1, f32Scaled v.2 with
  | some g, some o => f32Rat ((code * 2 ^ 149 - 1000 * o) * g - ical * 2 ^ 298) (1000 * 2 ^ 298)
  | _, _ => 0x7FC00000

/-- The same in whole mA, not below 0. -/
def f32Ma (x : Nat) : Nat := ((f32Scaled x).getD 0 * 1000 / 2 ^ 149).toNat

/-- The published currents of a reading. -/
def readingAmps (s : State) (r : PowerReading) : List Nat := (r.codes.take 220).zipIdx.map fun c => domainAmps s c.2 c.1 r.source

/-- Publishes the readings. -/
def publishCurrents (r : PowerReading) : Prog :=
  .get fun s =>
    let amps := readingAmps s r
    .ups ([.reg (regKey 0x2005 0) (f32Rat r.inputMv 1000), .reg (regKey 0x2006 0) (f32Rat r.inputMa 1000),
    .power { s.power with volts := (s.power.volts.filter fun v => v.1 + 1000000000 > s.now) ++ [(s.now, r.inputMv)], inputMa := r.inputMa, domainMa := amps.map f32Ma, segmentMa := r.segmentMa, lowLogged := s.power.lowLogged && r.inputMv < 51000, highLogged := s.power.highLogged && r.inputMv > 57000 }] ++
    amps.zipIdx.map (fun m => .reg (regKey (0x2100 + m.2) 0) m.1) ++
    (r.segmentMa.take 23).zipIdx.map fun m => .reg (regKey 0x2009 (m.2 + 1)) (f32Rat m.1 1000))

/-- Overdraw and its lifting (R359). -/
def overdrawTick (ma : Nat) : Prog :=
  .get fun s =>
    let l := s.reg 0x2000 * 1000
    let p := s.power
    let n := if ma > l then p.overMs + 1 else 0
    let start := n ≥ 3 && !p.overdraw
    let under := if ma * 100 ≤ 95 * l then some (p.underSince.getD s.now) else none
    .seq [.one (.power { p with overMs := n, overdraw := (p.overdraw || start) && ma > l, underSince := under }),
      .when start (.seq [addReg 0x2007 0 1, mlog 1 0x21 3 (leBytes 4 ma ++ leBytes 4 l)]),
      .get fun s => match under with
        | some t => .when (s.now ≥ t + 100000000 && s.now ≥ s.power.lastLift + 10000000)
            (.seq [.each ((List.range 88).filter fun q => s.limit q srcOverdraw > 0) fun q => .get fun s => setLimit q srcOverdraw (s.limit q srcOverdraw - 1),
              setPower fun p => { p with lastLift := s.now }])
        | none => .done]

/-- The release of the overcurrent floor (R360). -/
def overcurrentTick (ma : Nat) : Prog :=
  .get fun s =>
    let p := s.power
    if !p.overcurrent then .done
    else
      let below := if ma < s.reg 0x2000 * 1000 then some (p.ocBelow.getD s.now) else none
      match below with
      | some t =>
        if s.now ≥ t + 10000000 then
          .seq [.one (.power { p with overcurrent := false, ocBelow := none }), .each (List.range 88) fun q => setLimit q srcOvercurrent 0]
        else .one (.power { p with ocBelow := below })
      | none => .one (.power { p with ocBelow := none })

/-- One waiting power-up at a tick (R358). -/
def powerupTick (w : Nat × Nat × Nat × Bool × Bool) : Prog :=
  let p := w.1
  .get fun s =>
    let drop : Prog := setPower fun x => { x with powerups := x.powerups.filter fun y => y.1 != p }
    let age := s.now - w.2.2.1
    if age ≥ 2000000000 then
      .seq [drop, .when w.2.2.2.1 (setReserve (ledgerKey actField p) 0), refuseLedger w.2.1 actField 0]
    else .seq [.when (!w.2.2.2.1 && !s.overGranted && s.fits 130) ((setReserve (ledgerKey actField p) 130).andThen
        (setPower fun x => { x with powerups := x.powerups.map fun y => if y.1 = p then (y.1, y.2.1, y.2.2.1, true, y.2.2.2.2) else y })),
      .get fun s => if AMap.get 0 s.power.reserved (ledgerKey actField p) != 0 && segmentReady s p then .seq [drop, startRamp p]
      else .when (age ≥ 100000000 && !w.2.2.2.2)
       (.seq [setPower fun x => { x with powerups := x.powerups.map fun y => if y.1 = p then (y.1, y.2.1, y.2.2.1, y.2.2.2.1, true) else y },
        mlog 1 0x2C 2 (leBytes 1 p ++ leBytes 1 (segmentOf p) ++ leBytes 2 (min 0xFFFF (((neighbours p).map s.feedMa).foldl max 0 / 100)))])]

/-! ### Field power -/

/- STEP_RAISE_WRITE: 20 us after the set point rose, M1 writes the step if it still is the effective one (R355, R367, R380). -/
def execStepRaiseWrite (pf : Nat) (s : State) : Host.Outcome State Fault Refusal :=
  (if pf ≥ 88 then (Prog.fault (.noSuchUnit pf))
   else .get fun s =>
    match AMap.get none s.thermal.raises pf with
    | none => .done
    | some (t, step) => .when (s.running 1 && s.running 2)
      (.seq [.one (.time (t + 20000)),
        setThermal fun th => { th with raises := AMap.put none th.raises pf none },
        .when (step == s.effective pf) (setThermal fun th => { th with stepReq := AMap.put 0 th.stepReq pf (step + 1) })])).run s

/-- STEP_MAX: a value above 6 is refused; M2 applies it (R366, R367, R381). -/
def stepMaxWrite (pf v : Nat) (k : Answer → Prog) : Prog :=
  if pf ≥ 88 then k (.refuse 1)
  else if v > 6 then k (.refuse 4)
  else .seq [setReg 0x3007 (pf + 1) v, .get fun s => .when (s.running 2) (setLimit pf srcOwner v), k .ok]

def execStepMax (sid : Sid) (pf v : Nat) (s : State) : Host.Outcome State Fault Refusal :=
  (ownerWrite sid (fun _ => .done) (stepMaxWrite pf v)).run s

/-! ### The input (R342, R343, R360) -/

/-- The SRC byte of what hardware logs without an append slot of its own: the always-on block and the fields.  DESIGN CHOICE (log 197): R318 gives none; the appender's. -/
def srcBlock : Nat := 0x31

/-- INPUT_LOW: the capacity follows V_min; logged once per excursion. -/
def execInputLow (mv : Nat) (s : State) : Host.Outcome State Fault Refusal :=
  (if mv < 46000 || mv ≥ 51000 then Prog.done
   else .get fun s => .seq [.one (.power { s.power with volts := s.power.volts ++ [(s.now, mv)], lowLogged := true }), publishLedger,
    .when (!s.power.lowLogged) (appendLog srcBlock 0x23 3 (leBytes 4 mv))]).run s

/-- INPUT_HIGH: logged once per excursion. -/
def execInputHigh (mv : Nat) (s : State) : Host.Outcome State Fault Refusal :=
  (if mv < 57000 || mv > 61000 then Prog.done
   else .get fun s => .seq [setPower fun p => { p with highLogged := true }, .when (!s.power.highLogged) (appendLog srcBlock 0x24 3 (leBytes 4 mv))]).run s

/-- INPUT_OVERCURRENT: a step request of 6 for every field (R360). -/
def execInputOvercurrent (ma : Nat) (s : State) : Host.Outcome State Fault Refusal :=
  (if ma ≤ 580000 then Prog.done
   else .seq [setPower fun p => { p with overcurrent := true, ocBelow := none },
    .each (List.range 88) fun q => setLimit q srcOvercurrent 6, appendLog srcBlock 0x22 4 (leBytes 4 ma)]).run s

/-- CONVERTER_FAIL: latched off until the next cold start (R343); published when M1 runs. -/
def execConverterFail (bc : Nat) (s : State) : Host.Outcome State Fault Refusal :=
  (if bc ≥ 24 then (Prog.fault (.noSuchUnit bc))
   else .get fun s => .when (s.reg 0x2008 (bc + 1) == 1 && !s.power.deadBc.contains bc)
    (.seq [if s.running 1 then setReg 0x2008 (bc + 1) 2 else setPower fun p => { p with deadBc := p.deadBc ++ [bc] },
      publishLedger, mlog 1 0x26 3 (leBytes 1 bc ++ leBytes 1 (s.workingConverters - 1))])).run s

/-! ### Phases, sense pairs, isolation (R346 to R350) -/

/-- Cap by working phases; 7 is Dark (R346). -/
def logicCap (n : Nat) : Nat := if n ≥ 10 then 0 else if n = 9 then 1 else if n = 8 then 2 else if n = 7 then 3 else if n = 6 then 5 else if n ≥ 4 then 6 else 7
def arrayCap (n : Nat) : Nat := if n ≥ 4 then 0 else if n = 3 then 4 else 7
/-- The working phases of a field rail. -/
def State.phasesLeft (s : State) (d : Nat) : Nat := (List.range (if d < 88 then 12 else 6)).countP fun i => !bit (AMap.get 0 s.power.phases d) i
def fieldCap (s : State) (p : Nat) : Nat := max (logicCap (s.phasesLeft p)) (arrayCap (s.phasesLeft (88 + p)))

/-- M1, while it runs, publishes the working phases of a field's rails and its cap (R312, R363). -/
def publishPhases (p : Nat) : Prog :=
  .get fun s => .when (s.running 1) (.ups [.reg (regKey 0x200B (p + 1)) (s.phasesLeft p), .reg (regKey 0x200B (89 + p)) (s.phasesLeft (88 + p)),
    .reg (regKey 0x200C (p + 1)) (fieldCap s p)])

/-- What M1 reads back when it returns: domains, converters, phases (R311, R351, R362). -/
def readBackAll : Prog :=
  .get fun s => .seq [setPower fun p => { p with unseen := [], deadBc := [] },
    .each (s.power.unseen.reverse) fun kv => readBack kv.1 (kv.2 - 1),
    .each s.power.deadBc fun n => setReg 0x2008 (n + 1) 2, .each (List.range 88) publishPhases, publishLedger]

/-- The isolation switch of a field opens: it stays open, so a power-up that waits is dropped (R350, R351). -/
def isolate (p cause : Nat) : Prog :=
  .get fun s => .when (s.domain p != domIsolated)
    (.seq [domainBecomes p domIsolated, domainBecomes (88 + p) domIsolated,
      setPower fun w => { w with powerups := w.powerups.filter fun y => y.1 != p }, loseField p true, mlog 1 0x29 4 (leBytes 1 p ++ leBytes 1 cause)])

def execRailIsolated (pf cause : Nat) (s : State) : Host.Outcome State Fault Refusal :=
  (if pf ≥ 88 then (Prog.fault (.noSuchUnit pf)) else isolate pf cause).run s

/-- PHASE_FAIL: the phase is disabled, and the field's cap follows its working phases (R347). -/
def execPhaseFail (dom phase : Nat) (s : State) : Host.Outcome State Fault Refusal :=
  (if dom ≥ 176 || phase ≥ (if dom < 88 then 12 else 6) then (Prog.fault (.noSuchUnit dom))
   else .get fun s =>
    let p := dom % 88
    let old := fieldCap s p
    .when (!bit (AMap.get 0 s.power.phases dom) phase)
      (.seq [setPower fun w => { w with phases := AMap.put 0 w.phases dom (AMap.get 0 w.phases dom + 2 ^ phase) }, publishPhases p,
        mlog 1 0x27 3 (leBytes 1 dom ++ leBytes 1 (dom / 256) ++ leBytes 1 phase ++ leBytes 1 (s.phasesLeft dom - 1)),
        .get fun s =>
          let cap := fieldCap s p
          .when (cap != old) (.seq [mlog 1 0x28 3 (leBytes 1 p ++ leBytes 1 old ++ leBytes 1 cap), if cap = 7 then isolate p 2 else setLimit p srcCap cap])])).run s

/-- SENSE_FAULT: the pair is excluded; with fewer than two left the set point rises, once, and it is an error (R348). -/
def execSenseFault (pf rail pair : Nat) (s : State) : Host.Outcome State Fault Refusal :=
  (if pf ≥ 88 || rail > 1 || pair > 3 then (Prog.fault (.noSuchUnit pf))
   else .get fun s =>
    let key := 2 * pf + rail
    let m := AMap.get 0 s.power.pairs key
    let left := (List.range 4).countP fun i => !bit m i && i != pair
    .when (!bit m pair)
      (.seq [setPower fun w => { w with pairs := AMap.put 0 w.pairs key (m + 2 ^ pair) },
        .when (left = 1 && AMap.get 0 s.thermal.setPoint (88 * rail + pf) != 0)
          (setThermal fun t => { t with setPoint := AMap.put 0 t.setPoint (88 * rail + pf) (AMap.get 0 t.setPoint (88 * rail + pf) + 30) }),
        mlog 1 0x2B (if left < 2 then 4 else 3) (leBytes 1 pf ++ leBytes 1 rail ++ leBytes 1 pair ++ leBytes 1 left)])).run s

/-! ### The catch circuit (R349) -/

def execCatchFire (pf rail : Nat) (s : State) : Host.Outcome State Fault Refusal :=
  (if pf ≥ 88 || rail > 1 then (Prog.fault (.noSuchUnit pf))
   else .get fun s => .seq [addRegSat 0x200D (pf + 1) 1, setPower fun p => { p with lastFire := AMap.put 0 p.lastFire pf (s.now + 1) }]).run s

/-- CATCH_EXHAUST: one step below the present step is requested; at step 6 there is none (R349, R362). -/
def execCatchExhaust (pf rail : Nat) (s : State) : Host.Outcome State Fault Refusal :=
  (if pf ≥ 88 || rail > 1 then (Prog.fault (.noSuchUnit pf))
   else .get fun s => .seq [.when (s.fieldStep pf < 6) (setLimit pf srcCatch (max (s.limit pf srcCatch) (s.fieldStep pf + 1))),
    mlog 1 0x2A 3 (leBytes 1 pf ++ leBytes 1 rail)]).run s

/-- CATCH_RELEASE: 100 ms without a firing lift the request. -/
def execCatchRelease (pf : Nat) (s : State) : Host.Outcome State Fault Refusal :=
  (if pf ≥ 88 then (Prog.fault (.noSuchUnit pf))
   else .get fun s =>
    let t := AMap.get 0 s.power.lastFire pf
    .when (s.running 1 && s.limit pf srcCatch > 0)
      (.seq [.when (t > 0) (.one (.time (t - 1 + 100000000))), setLimit pf srcCatch 0])).run s

end Sys2Proof.Machine
end

