-- ==== Sys2Proof/Machine/Firmware.lean ====
section
/-! DEFINITION. The marionette complex: mailboxes, restarts, the log's append slots and trace points, and firmware images (R309 to R321). -/

namespace Sys2Proof.Machine

def setMcores (f : Mcores → Mcores) : Prog := .get fun s => .one (.mcores (f s.mcores))
def setFlash (f : Flash → Flash) : Prog := .get fun s => .one (.flash (f s.flash))

/-! ### The image store (R311, R315) -/

/-- The segment of an M-core as it is reloaded from the image store agrees with the digest recorded when the image was verified. -/
def segmentGood (s : State) (m : Nat) : Bool :=
  match s.flash.digests[m]? with
  | none => true
  | some d => match s.flash.store with
    | none => d == leBytes 32 (Config.segmentDigest s.flash.running m).toNat
    | some im => ((Config.segments im).bind (·[m]?)).any fun seg => shake256 32 seg == d

/-- M0 copies the image of a slot into the store and records the digest of each segment. -/
def fillStore (n : Nat) : Prog :=
  setFlash fun f => { f with running := n, store := AMap.get none f.image n, digests := match AMap.get none f.image n with
    | none => (List.range 7).map fun m => leBytes 32 (Config.segmentDigest n m).toNat
    | some im => ((Config.segments im).getD []).map (shake256 32) }

/-! ### Mailboxes (R309, R312) -/

/-- MAILBOX_REQUEST: a running M-core takes the requests of its mailbox; while it restarts they wait. -/
def execMailboxRequest (src dst : Nat) (req : Nat) (s : State) : Host.Outcome State Fault Refusal :=
  (if src > 5 || dst > 5 then (Prog.fault (.noSuchUnit (max src dst)))
   else .get fun s =>
    .when (s.running src) (
      if s.running dst then setMcores fun m => { m with mail := AMap.put [] m.mail dst [], taken := AMap.put none m.taken dst (some (src, req)) }
      else setMcores fun m => { m with mail := AMap.put [] m.mail dst (AMap.get [] m.mail dst ++ [(src, req)]) })).run s

/-! ### Restarts (R311 to R313) -/

/-- An M-core goes down: its outputs freeze and the always-on block logs the cause; the fourth time within 60 s it stays stopped. -/
def mcoreDown (m cause : Nat) : Prog :=
  .get fun s =>
    .when (s.running m) (
      let past := (AMap.get [] s.mcores.history m).filter fun t => t + 60000000000 > s.now
      let stopHere := past.length ≥ 3
      .seq [setMcores fun x => { x with stopAt := AMap.put 0 x.stopAt m s.waferTime, cause := AMap.put 0 x.cause m cause,
                                        history := AMap.put [] x.history m (s.now :: past),
                                        logHead := if m = 4 then s.reg 0x8023 else x.logHead },
        setReg 0x8010 (m + 1) (if stopHere then 2 else 1),
        appendOpen 0x31 openFreeze (some (leBytes 1 m ++ leBytes 1 cause)),
        if stopHere then appendLog 0x31 0x11 5 (leBytes 1 m ++ leBytes 1 past.length) else addReg 0x8011 (m + 1) 1])

def execWatchdogTimeout (m : Nat) (s : State) : Host.Outcome State Fault Refusal :=
  (if m > 5 then (Prog.fault (.noSuchUnit m)) else mcoreDown m 0).run s
def execMcoreTrap (m : Nat) (s : State) : Host.Outcome State Fault Refusal :=
  (if m > 5 then (Prog.fault (.noSuchUnit m)) else mcoreDown m 1).run s

/-- MCORE_RESTART: a running M-core restarts; a stopped one has its count cleared and restarts (R321). -/
def mcoreRestart (m : Nat) (k : Answer → Prog) : Prog :=
  if m > 5 then k (.refuse 4)
  else .get fun s =>
    let st := s.mcore m
    if st = 0 then (mcoreDown m 2).andThen (k .ok)
    else if st = 2 then
      .seq [setMcores fun x => { x with history := AMap.put [] x.history m [], cause := AMap.put 0 x.cause m 2 },
        setReg 0x8010 (m + 1) 1, addReg 0x8011 (m + 1) 1, k .ok]
    else k .ok

def execMcoreRestart (sid : Sid) (m : Nat) (s : State) : Host.Outcome State Fault Refusal :=
  (ownerCmd 0x8012 sid (fun _ => .done) (mcoreRestart m)).run s

/-! ### The log (R318 to R320) -/

/-- A writer that has an append slot: an M-core, a tumbler core, the sync-network root, the appender. -/
def validSrc (src : Nat) : Bool := src ≤ 5 || (0x10 ≤ src && src ≤ 0x27) || src == 0x30 || src == 0x31

/-- An enabled trace point (R320). -/
def traceEnabled (s : State) (point : Nat) : Bool :=
  let g := point / 256
  let n := point % 256
  g ≤ 6 && bit (s.reg 0x8030 (4 * g + n / 64 + 1)) (n % 64)

/-- A TRACE entry: it is appended when its point is enabled, at most 100 000 a second from one writer (R320). -/
def appendTrace (src sev : Nat) (payload : List Byte) : Prog :=
  .get fun s =>
    let sec := s.now / 1000000000 + 1
    let n := if AMap.get 0 s.mcores.traceSecond src = sec then AMap.get 0 s.mcores.traceCount src else 0
    if !traceEnabled s (field payload 0 2) then .done
    else if n ≥ 100000 then addReg 0x8031 0 1
    else .seq [setMcores fun m => { m with traceSecond := AMap.put 0 m.traceSecond src sec, traceCount := AMap.put 0 m.traceCount src (n + 1) },
      appendRaw src 0xF0 sev payload]

/-- LOG_APPEND: a full-row write to a writer's append slot; a stopped M-core writes nothing. -/
def execLogAppend (src code sev : Nat) (payload : List Byte) (s : State) : Host.Outcome State Fault Refusal :=
  (if !validSrc src then (Prog.fault (.noSuchUnit src))
   else .get fun s =>
    if src ≤ 5 && !s.running src then .done
    else if code = 0xF0 then appendTrace src sev payload
    else appendLog src code sev payload).run s

/-- The place of entry SEQ in the log ring. -/
def logAddr (seq : Nat) : Nat := 0x0F000000 + 64 * (seq % 65536)

/-- One entry as a view returns it; an entry with an uncorrectable word reads as LOG_LOST with its SEQ (R319). -/
def logEntryAt (s : State) (seq : Nat) : List Byte :=
  if (List.range 8).any fun w => AMap.get false s.smBad (logAddr seq / 8 + w) then
    logEntry seq s.waferTime 0x01 4 0x31 (leBytes 4 (seq % 65536))
  else Mem.read s.sm (logAddr seq) 64

/-- The SEQ numbers a view from a selected one holds: at most 128, the oldest held if that is gone (R319). -/
def logSeqs (s : State) (sel : Nat) : List Nat :=
  let head := s.reg 0x8023
  let first := max (max sel 1) (head - 65535)
  (List.range (min 128 (head + 1 - first))).map (first + ·)

/-- LOG_VIEW from a session's LOG_SELECT onward. -/
def logView (s : State) (sel : Nat) : List Byte := (logSeqs s sel).flatMap (logEntryAt s)

/-- The appender rewrites the row of an unreadable entry as LOG_LOST (R319). -/
def rewriteEntry (seq : Nat) : Prog :=
  .get fun s =>
    let bad := (List.range 8).any fun w => AMap.get false s.smBad (logAddr seq / 8 + w)
    .when bad (.ups (.sm (logAddr seq) (logEntryAt s seq) :: (List.range 8).map fun w => .smBad (logAddr seq / 8 + w) false))
/-- The rows of entries that a view found unreadable. -/
def rewriteLost (sel : Nat) : Prog := .get fun s => .each (logSeqs s sel) rewriteEntry
/-- The entry held last at the place of a ring address. -/
def rewriteAt (a : Nat) : Prog :=
  .get fun s => rewriteEntry (s.reg 0x8023 - (s.reg 0x8023 + 65536 - (a - 0x0F000000) / 64 % 65536) % 65536)

/-- EVENTs of the entries that were appended while M4 did not run (R312, R319). -/
def sendMissedEvents : Prog :=
  .get fun s =>
    let first := max (s.mcores.logHead + 1) (s.reg 0x8023 - 65535)
    .each (List.range (s.reg 0x8023 + 1 - first)) fun i =>
      let e := logEntryAt s (first + i)
      .each (List.range 16) fun j => eventTo j (field e 17 1) e

/-! ### Firmware images (R314 to R317) -/

/-- FW_VERSION, own minimum and digest of a slot's image. -/
def slotVersion (s : State) (n : Nat) : Nat :=
  match AMap.get none s.flash.image n with
  | some im => field im 6 4
  | none => (Config.fwVersion n).toNat
def slotMinimum (s : State) (n : Nat) : Nat :=
  match AMap.get none s.flash.image n with
  | some im => field im 10 4
  | none => (Config.fwMinimum n).toNat
def slotDigest (s : State) (n : Nat) : List Byte :=
  match AMap.get none s.flash.image n with
  | some im => shake256 32 im
  | none => leBytes 32 (Config.fwDigest n).toNat

/-- Byte o of the staging buffer at 0x8_FC00_0000 of H00. -/
def stageAddr (o : Nat) : Nat := hbmAddr 0 (0x8FC000000 + o)

/-- Bytes of an image slot. -/
def imageMax : Nat := 48 * 2 ^ 20

/-- The staged image: as long as its header says. -/
def stagedImage (s : State) : List Byte := Mem.read s.hbm (stageAddr 0) (min imageMax (Mem.nat s.hbm (stageAddr 14) 4))

/-- M0 accepts an image (R315): header, segment table, version and signature. -/
def imageGood (s : State) (im : List Byte) : Bool :=
  im.length ≥ 64 + 2820 && im.take 4 == ascii "CRFW" && field im 4 2 == 1 && field im 6 4 ≥ s.flash.record.minVersion &&
    (slice im 18 46).all (· == 0) && (Config.segments im).isSome &&
    xmssVerify (leBytes 68 Config.rootKey.toNat) (im.take (im.length - 2820)) (im.drop (im.length - 2820))

def commitInProgress (s : State) : Bool := s.flash.commit.isSome

/-- FW_STAGE: a piece of at most 8 192 bytes. -/
def fwStage (off : Nat) (bytes : List Byte) (k : Answer → Prog) : Prog :=
  .get fun s =>
    if commitInProgress s then k .busy
    else if bytes.length > 8192 then k (.refuse 2)
    else if off + bytes.length > imageMax then k (.refuse 4)
    else .seq [.one (.hbm (stageAddr off) bytes), setReg 0x8007 0 1, k .ok]

def execFwStage (sid : Sid) (off : Nat) (bytes : List Byte) (s : State) : Host.Outcome State Fault Refusal :=
  (ownerCmd 0x8004 sid (fun _ => .done) (fwStage off bytes)).run s

/-- Step 2 of R317: the digest and the image; a failure is SIGNATURE_INVALID; with a good image M0 erases the inactive slot. -/
def fwVerify (digest : List Byte) (good bad : Prog) : Prog :=
  .get fun s =>
    let im := stagedImage s
    if shake256 32 im == digest && imageGood s im then
      .seq [setFlash fun f => { f with commit := some digest, image := AMap.put none f.image (1 - f.running) (some []) }, setReg 0x8007 0 3, good]
    else .seq [setFlash fun f => { f with commit := none }, setReg 0x8007 0 0, bad]

/-- FW_COMMIT: while M0 does not run, it waits. -/
def fwCommit (digest : BitVec 256) (k : Answer → Prog) : Prog :=
  .get fun s =>
    if commitInProgress s then k .busy
    else if !s.running 0 then .seq [setFlash fun f => { f with commit := some (leBytes 32 digest.toNat) }, setReg 0x8007 0 2, k .later]
    else fwVerify (leBytes 32 digest.toNat) (k .later) (k (.code 0x43))

def execFwCommit (sid : Sid) (digest : BitVec 256) (s : State) : Host.Outcome State Fault Refusal :=
  (ownerCmd 0x8005 sid (fun _ => .done) (fwCommit digest)).run s

/-- The bytes of a boot record, and the record of some bytes, if they are one (R314). -/
def recordHead (r : BootRecord) : List Byte :=
  ascii "CRBR" ++ leBytes 4 r.seq ++ leBytes 1 r.active ++ leBytes 1 (boolNat r.trial) ++ leBytes 1 r.tries ++ leBytes 4 r.minVersion
def recordBytes (r : BootRecord) : List Byte := recordHead r ++ shake256 32 (recordHead r)
def parseRecord (b : List Byte) : Option BootRecord :=
  if b.take 4 == ascii "CRBR" && slice b 15 32 == shake256 32 (b.take 15) then
    some ⟨field b 4 4, field b 8 1, field b 9 1 != 0, field b 10 1, field b 11 4⟩
  else none

/-- A copy of the boot record that is valid; as manufactured, copy 0 alone. -/
def copyRecord (s : State) (c : Nat) : Option BootRecord :=
  match AMap.get none s.flash.boot c with
  | some b => parseRecord b
  | none => if c = 0 then some Flash.reset.record else none

/-- The valid copy with the higher sequence number, which M0 uses at a cold start. -/
def chosenRecord (s : State) : Option (BootRecord × Nat) :=
  match copyRecord s 0, copyRecord s 1 with
  | some a, some b => if b.seq > a.seq then some (b, 1) else some (a, 0)
  | some a, none => some (a, 0)
  | none, some b => some (b, 1)
  | none, none => none

/-- Writes the other copy of the boot record with the next sequence number (R314), and publishes what it says. -/
def writeRecord (f : BootRecord → BootRecord) : Prog :=
  .seq [setFlash fun x =>
      let r := { f x.record with seq := (x.record.seq + 1) % 2 ^ 32 }
      { x with record := r, copy := 1 - x.copy, boot := AMap.put none x.boot (1 - x.copy) (some (recordBytes r)) },
    .get fun s => .seq [setReg 0x8000 0 s.flash.record.active, setReg 0x8002 0 (boolNat s.flash.record.trial), setReg 0x8003 0 s.flash.record.minVersion]]

/-- A hold-up check with a measured time: below 15 ms it fails and is logged, with the operation (R316). -/
def holdupCheck (us op : Nat) (ok bad : Prog) : Prog :=
  .seq [setReg 0x8008 0 us, if us ≥ 15000 then ok else (mlog 0 0x14 3 (leBytes 4 us ++ leBytes 1 op)).andThen bad]

/-- A commit ends with a status. -/
def endCommit (st status : Nat) : Prog := .seq [setFlash fun f => { f with commit := none }, setReg 0x8007 0 st, finishCmd 0x8005 status]

/-- The programs of the image have ended: those that were complete stay; a whole image is read back against the digest, and the trial record is written (R316, R317). -/
def programmed (digest : List Byte) (pieces imageUs recordUs : Nat) : Prog :=
  .get fun s =>
    let slot := 1 - s.flash.running
    let im := stagedImage s
    let fill (b : List Byte) : Prog := setFlash fun f => { f with image := AMap.put none f.image slot (some b) }
    holdupCheck imageUs 0
      ((fill im).andThen (if shake256 32 im != digest then endCommit 0 0x43
        else holdupCheck recordUs 1
          (.seq [writeRecord fun r => { r with active := slot, trial := true, tries := 0 }, setReg 0x8001 (slot + 1) (field im 6 4),
            mlog 0 0x12 2 (leBytes 1 slot ++ leBytes 4 (field im 6 4)), endCommit 5 0])
          (endCommit 0 0x47)))
      ((fill (im.take (256 * pieces))).andThen (endCommit 0 0x47))

/-- FW_COMMIT_DONE: the inactive slot is erased, and then its programming has ended.  An image that reads back otherwise ends the commit with SIGNATURE_INVALID (DESIGN CHOICE: R317 gives no status). -/
def execFwCommitDone (e : FlashEvent) (s : State) : Host.Outcome State Fault Refusal :=
  (Prog.get fun s =>
    match s.flash.commit, e with
    | none, _ => .done
    | some _, .erased => .when (s.running 0 && s.reg 0x8007 == 3) (setReg 0x8007 0 4)
    | some d, .programmed pieces imageUs recordUs => .when (s.running 0 && s.reg 0x8007 == 4) (programmed d pieces imageUs recordUs)).run s

/-- A reset, or the input's failure, while the image is programmed: the program of 256 bytes that runs is finished and no other starts (R316, R338); how many are done by then is open. -/
def cutCommit : Prog :=
  .get fun s => .seq [.when (commitInProgress s && s.reg 0x8007 == 4) (
      let im := stagedImage s
      drawFree fun v => setFlash fun f => { f with image := AMap.put none f.image (1 - f.running) (some (im.take (256 * (v % ceilDiv im.length 256 + 1)))) }),
    setFlash fun f => { f with commit := none, enroll := none, confirm := false }]

/-- FW_CONFIRM: TRIAL is cleared and MIN_VERSION rises to the running image's own minimum; the hold-up time that M0 measures before this program is open (R316, R317). -/
def confirmNow (k : Answer → Prog) : Prog :=
  drawFree fun v => holdupCheck (v % 2 ^ 32) 1
    (.get fun s =>
      let m := max s.flash.record.minVersion (slotMinimum s s.flash.running)
      .seq [writeRecord fun r => { r with trial := false, minVersion := m }, k .ok])
    (k (.code 0x47))

/-- While M0 does not run, the flash write waits (R312). -/
def fwConfirm (k : Answer → Prog) : Prog :=
  .get fun s => if s.running 0 then confirmNow k else (setFlash fun f => { f with confirm := true }).andThen (k .later)

def execFwConfirm (sid : Sid) (s : State) : Host.Outcome State Fault Refusal :=
  (ownerCmd 0x8006 sid (fun _ => .done) fwConfirm).run s

end Sys2Proof.Machine
end

