-- ==== Sys2Proof/Machine/Crossbar.lean ====
section
/-! DEFINITION. Accesses through the service crossbar (R43 to R46). -/

namespace Sys2Proof.Machine

/-- The words of an access that hold an uncorrectable error. -/
def badWords (s : State) (a n : Nat) : List Nat :=
  ((List.range (a % 8 / 8 + n / 8 + 2)).map fun i => a / 8 + i).filter fun w => w ≤ (a + n - 1) / 8 && AMap.get false s.smBad w

/-- An uncorrectable word: an error to the requester, a log entry with the address, and the outcome of R49. -/
def wordError (rq : Requester) (ws : List Nat) : Prog :=
  (reply rq true []).andThen (.each ws fun w => (appendOpen (rqSrc rq) openSmEcc (some (leBytes 4 (8 * w)))).andThen
    (if 0x0F000000 ≤ 8 * w && 8 * w < 0x0F400000 then rewriteAt (8 * w) else mendWord w))

/-- A crossbar access with its checks, then its effect. -/
def smAccess (rq : Requester) (a n : Nat) (write reads : Bool) (k : State → Prog) : Prog :=
  if !rqValid rq then .fault (.noSuchUnit (rqSrc rq))
  else if !goodAccess a n then .fault (.badAddress a)
  else .get fun s =>
    if !mayReach rq a write then regionError rq a
    else
      let bad := badWords s a n
      if reads && !bad.isEmpty then wordError rq bad else k s

def execSmRead (rq : Requester) (addr len : Nat) (s : State) : Host.Outcome State Fault Refusal :=
  (smAccess rq addr len false true fun s => reply rq false (Mem.read s.sm addr len)).run s

/-- The bytes a masked write leaves at an address. -/
def maskedBytes (s : State) (a : Nat) (bytes : List Byte) (mask : Nat) : List Byte :=
  bytes.zipIdx.map fun p => if bit mask p.2 then p.1 else Mem.byte s.sm (a + p.2)

/-- The bytes of a word that a masked write covers whole make the word good again; a word partly written keeps a stored error. -/
def coveredWords (a n mask : Nat) : List Nat :=
  ((List.range 9).map fun i => a / 8 + i).filter fun w =>
    8 * w ≥ a && 8 * w + 8 ≤ a + n && (List.range 8).all fun b => bit mask (8 * w - a + b)

/-- SM_WRITE with a byte mask, bit k for byte k (R43). -/
def execSmWrite (rq : Requester) (addr : Nat) (bytes : List Byte) (mask : Nat) (s : State) : Host.Outcome State Fault Refusal :=
  (smAccess rq addr bytes.length true false fun s =>
    .seq [.one (.sm addr (maskedBytes s addr bytes mask)),
      .ups ((coveredWords addr bytes.length mask).map fun w => .smBad w false), reply rq false []]).run s

/-- SM_CAS: the old value answers; the word changes when it held the expected value (R43, R44). -/
def execSmCas (rq : Requester) (addr : Nat) (expect new : BitVec 64) (s : State) : Host.Outcome State Fault Refusal :=
  (if addr % 8 != 0 then (Prog.fault (.badAddress addr))
   else smAccess rq addr 8 true true fun s =>
    let old := Mem.nat s.sm addr 8
    .seq [.when (old == expect.toNat) (.one (.sm addr (leBytes 8 new.toNat))), reply rq false (leBytes 8 old)]).run s

/-- SM_FETCH_ADD: the old value answers; the sum wraps at 64 bits (R43, R44). -/
def execSmFetchAdd (rq : Requester) (addr : Nat) (d : BitVec 64) (s : State) : Host.Outcome State Fault Refusal :=
  (if addr % 8 != 0 then (Prog.fault (.badAddress addr))
   else smAccess rq addr 8 true true fun s =>
    let old := Mem.nat s.sm addr 8
    .seq [.one (.sm addr (leBytes 8 (old + d.toNat))), reply rq false (leBytes 8 old)]).run s

/-- SM_FENCE: accesses complete in the order they are issued, so a fence only answers (R44). -/
def execSmFence (rq : Requester) (s : State) : Host.Outcome State Fault Refusal :=
  (if rqValid rq then reply rq false [] else (Prog.fault (.noSuchUnit (rqSrc rq)))).run s

end Sys2Proof.Machine
end

