-- ==== Sys2Proof/Machine/Issue.lean ====
section
/-! DEFINITION. Issue slots, issue entries, fetch rings and issue records (R142, R145, R155, R158, R168, R202, R227, R255, R278, R396). -/

namespace Sys2Proof.Machine

/-- Page-list words of a pass. -/
def listWords (s : State) (lead : Bool) : Nat := s.hListLen (s.srv lead) * s.ways lead
/-- Positions that an entry of so many rows can carry. -/
def rowsFit (rows words : Nat) : Nat := (rows - 1 - ceilDiv words 16) * 16 / 17
/-- Positions that one pass carries: as many as the issue entries have room for and their U8 count can say (R202), and in a group as an issue record can name. -/
def passFit (s : State) (lead : Bool) : Nat :=
  let n := (s.entryRecs lead).foldl (fun a r => min a (rowsFit (svIssueRows s (s.srv lead) r) (listWords s lead))) 255
  max 1 (if s.inGroup then min n 128 else n)

/-! ### The content of a slot (R155, R158, R202) -/

/-- The page of a list index. -/
def pageOf (s : State) (lead : Bool) (e i : Nat) : Option Nat :=
  if lead then (let v := AMap.get 0 (s.req e).leadPages i; if v = 0 then none else some (v - 1)) else s.pageAt e i

/-- The input token of a position: of the history, or a draft. -/
def inputToken (s : State) (e p : Nat) (drafts : List Nat) : Nat :=
  let n := s.ePrompt e + s.generated e
  if p < n then s.token e p else drafts.getD (p - n) 0

def absentWord : Nat := 0xFFFF0000

/-- The list words of a pass that ends before position `stop`. -/
def passWords (s : State) (lead : Bool) (e stop : Nat) : List Nat :=
  (List.range (listWords s lead)).map fun i =>
    if stop ≤ 64 * i then absentWord
    else match pageOf s lead e i with
      | some f => s.slotOf lead f * 65536 + min 64 (stop - 64 * i)
      | none => absentWord

/-- One append header: slot, position, page, generation; a shared page is never named (R167). -/
def passHeader (s : State) (lead : Bool) (e p : Nat) : Nat × Nat × Nat × Nat :=
  match pageOf s lead e (p / 64) with
  | some f => (if (s.dir lead f).shared then 0xFFFF else s.slotOf lead f, p, f, (s.dir lead f).gen)
  | none => (0xFFFF, p, 0, 0)

def slotEntry (s : State) (p : Pass) (drafts : List Nat) : SlotEntry :=
  let ps := (List.range p.count).map (p.first + ·)
  ⟨p.pseq, p.entry, p.first, p.count, ps.map fun x => inputToken s p.entry x drafts, passWords s p.lead p.entry (p.first + p.count),
    ps.map fun x => passHeader s p.lead p.entry x⟩

def idleEntry (s : State) (lead : Bool) : SlotEntry := ⟨0, 0, 0, 0, [], List.replicate (listWords s lead) absentWord, []⟩

/-! ### Issue records of a group (R278) -/

/-- Member 0 tells the others what a slot carries. -/
def issueRecords (slot : Nat) (p : Pass) (e : SlotEntry) : Prog :=
  .get fun s => .when (s.inGroup && s.groupMember == 0)
    (let pages := (List.range (ceilDiv (p.first + p.count) 64)).filterMap (pageOf s p.lead p.entry)
     let fs := if p.lead then pages else pages.filter fun f => s.serving.dirChanges.contains f
     let room := (896 - 4 * p.count) / 16
     .seq [changeRecords p.lead slot p.entry p.first p.pseq 128 (fs.take (fs.length - room)),
      toMembers p.lead (recordRow slot p.entry p.first p.count p.pseq :: wordRows (e.tokens ++ (fs.drop (fs.length - room)).flatMap (changeWords s p.lead))),
      .when (!p.lead) (setServing fun v => { v with dirChanges := v.dirChanges.filter fun f => !fs.contains f })])

/-! ### Issuing a pass -/

/-- Pages that a pass appends to are opened from the request's reservation. -/
def openPages (lead : Bool) (e first count : Nat) : Prog :=
  .each ((List.range (ceilDiv (first + count) 64)).drop (first / 64)) fun i => .get fun s =>
    if (pageOf s lead e i).isSome then .done else if lead then newLeadPage e i else newPage e i 0 fun _ => .done

/-- Opens the candidate slots of a pass at the tumbler cores that the templates name (R243). -/
def openSlots (p : Pass) (phase : Nat) : Prog :=
  .when p.yields (.each (List.range (p.drafts.length + 1)) fun j => setServing fun v =>
    { v with sorter := AMap.put none v.sorter (Config.candidatePlace (boolNat p.lead) phase j % 768) (some ⟨p.pseq, j, 0, [], none⟩) })

def keepDecided (lead : Bool) (n : Nat) (e : SlotEntry) : Prog :=
  setServing fun v => { v with
    decided := AMap.put none (v.decided.filter fun kv => kv.1 % 2 != boolNat lead || n < kv.1 / 2 + 64) (2 * n + boolNat lead) (some e)
    nextSlot := AMap.put 0 v.nextSlot (boolNat lead) (n + 1) }

/-- Gives slot n to a pass, under a new PSEQ; a lead pass carries the drafts before it as its input.  DESIGN CHOICE (log 190): an issue record has no room for the rungs of a wide pass, so member 0 tells them to the other members as a firmware message. -/
def issuePass (n : Nat) (p : Pass) : Prog :=
  .get fun s =>
    let m := s.srv p.lead
    let pseq := (s.serving.pseq + 1) % 2 ^ 32
    let q := { p with pseq := pseq, slot := n, beat := slotBeat s m n, lists := [], tokens := none, accepted := 0, dropped := false, delivered := false,
                      at_ := s.us }
    .seq [openPages p.lead p.entry p.first p.count, setServing fun v => { v with pseq := pseq, passes := v.passes ++ [q] }, openSlots q (slotPhase s m n),
      .get fun s =>
        let e := slotEntry s q (if q.lead then (s.req q.entry).drafts.map (·.1) else q.drafts)
        .seq [keepDecided p.lead n e, issueRecords n q e, .when (q.wide && s.inGroup && s.groupMember == 0)
          (.each (otherMembers s) fun m => sendFirmware m 9 (pseq :: q.rungs.map fun r => 4 * r.1 + r.2))]]

def blankPass (lead : Bool) (e first count : Nat) (yields : Bool) : Pass :=
  ⟨0, lead, 0, 0, e, first, count, yields, false, [], false, [], [], none, 0, false, false, 0, none⟩

/-! ### Which request gets a slot (R227, R255, R396) -/

/-- Lead depth of the next cycle (R255). -/
def State.depth (s : State) (e : Nat) : Nat := min (lfK (s.lf e)) (s.eMax e - s.generated e - 1)
/-- The request alternates lead and verify passes. -/
def State.speculates (s : State) (e : Nat) : Bool := s.leadServes && s.est e == stDecode && !(s.req e).resuming && s.depth e > 0
def State.drafted (s : State) (e : Nat) : Bool := (s.req e).draftsDone || s.depth e ≤ (s.req e).drafts.length

/-- Every page that positions below `stop` name is hot (R155). -/
def pagesHot (s : State) (lead : Bool) (e stop : Nat) : Bool :=
  (List.range (ceilDiv stop 64)).all fun i => match pageOf s lead e i with
    | some f => (s.dir lead f).hot != 0xFFFF && AMap.get 0 s.serving.loading (pageKey lead f) == 0
    | none => true

/-- Neither ended, nor chosen for pause, nor past its end deadline, nor waiting for a table or a wide pass. -/
def mayIssue (s : State) (e : Nat) : Bool :=
  let w := s.ctrl e
  !cDiscard w && !cDone w && !cPause w && !s.pastEnd e && !s.tableMissing e && !s.wideBusy e && (s.req e).issued < (s.req e).upto

/-- Positions of the next main pass of a request, and its drafts. -/
def nextCount (s : State) (e : Nat) : Nat :=
  let r := s.req e
  if s.est e == stDecode && !r.resuming then 1 + (if s.speculates e then r.drafts.length else 0) else min (passFit s false) (r.upto - r.issued)

def readyMain (s : State) (e : Nat) : Bool :=
  let st := s.est e
  mayIssue s e && (st == stPrefill || (st == stPaused && (s.req e).resuming) ||
      (st == stDecode && ((s.req e).resuming || !s.serving.passes.any fun p => p.entry == e && !p.lead) && (!s.speculates e || s.drafted e))) &&
    pagesHot s false e ((s.req e).issued + nextCount s e)

def leadStop (s : State) (e : Nat) : Nat := s.lastPos e + 1 + (s.req e).drafts.length

def readyLead (s : State) (e : Nat) : Bool :=
  mayIssue s e && s.speculates e && !s.drafted e && !(s.serving.passes ++ s.serving.reissue).any (fun p => p.entry == e && p.lead) &&
    pagesHot s true e (min (leadStop s e) ((s.req e).leadAt + passFit s true))

/-- Positions of the request are to be computed again, and it is neither ended nor chosen for pause. -/
def recomputeLeft (s : State) (e : Nat) : Bool :=
  let w := s.ctrl e
  !(s.req e).recompute.isEmpty && !cDiscard w && !cDone w && !cPause w && (s.est e != stPaused || (s.req e).resuming)

def readyRecompute (s : State) (e : Nat) : Bool :=
  recomputeLeft s e && match (s.req e).recompute with
    | [] => false
    | (a, k) :: _ => pagesHot s false e (a + min (passFit s false) k)

/-- The first of some requests under the keys of R227. -/
def firstBy (s : State) (ok : Nat → Bool) : Option Nat := (rankBy s.issueKey (s.entries.filter ok)).head?

/-- PAUSED to DECODE with the first pass of a resume (R222, R234), be it one that recomputes lost positions: no pass of a PAUSED request is in the pipeline. -/
def resumeEntry (e : Nat) : Prog :=
  .get fun s => .when (s.est e == stPaused) (.seq [setState e stDecode, entryStatus e 5 0 (s.lastPos e) 0,
    setReq e fun r => { r with resumedAt := some s.us, base := some s.us }])

/-- A new pass of main: a prefill, plain, verify or resume pass. -/
def issueMain (n e : Nat) : Prog :=
  .get fun s =>
    let r := s.req e
    let count := nextCount s e
    let decode := s.est e == stDecode && !r.resuming
    let drafts := if decode && s.speculates e then r.drafts.map (·.1) else []
    .seq [resumeEntry e, setReq e fun r => { r with issued := if decode then r.upto else r.issued + count, draftsDone := decode && s.speculates e },
      issuePass n { blankPass false e r.issued count (decode || r.issued + count = r.upto) with drafts := drafts }]

/-- A new pass of the lead. -/
def issueLead (n e : Nat) : Prog :=
  .get fun s =>
    let a := (s.req e).leadAt
    let count := min (passFit s true) (leadStop s e - a)
    .seq [setReq e fun r => { r with leadAt := a + count }, issuePass n (blankPass true e a count (a + count = leadStop s e))]

/-- A pass that recomputes positions after a repair (R395). -/
def issueRecompute (n e : Nat) : Prog :=
  .get fun s => match (s.req e).recompute with
    | [] => .done
    | (a, k) :: rest =>
      let c := min (passFit s false) k
      .seq [resumeEntry e, setReq e fun r => { r with recompute := if c < k then (a + c, k - c) :: rest else rest },
        issuePass n { blankPass false e a c false with recompute := true }]

/-- An idle slot; in a group the other members are told of it by a record without positions. -/
def issueIdle (lead : Bool) (n : Nat) : Prog :=
  .get fun s => (keepDecided lead n (idleEntry s lead)).andThen
    (.when (s.inGroup && s.groupMember == 0) (toMembers lead [recordRow n 0xFFFF 0 0 0]))

/-- Dropped passes that may be issued again now, in their original order: none whose attempt is still open, none behind another of the same request, in this list or in the wide queue. -/
def reissuable (s : State) (lead : Bool) : List Pass :=
  let rs := s.serving.reissue.filter fun p => p.lead == lead
  (rs.zipIdx.filter fun x => !s.attemptOf x.1.pseq && !((rs.take x.2).any fun q => q.entry == x.1.entry) &&
    !s.serving.wide.any fun w => w.1.entry == x.1.entry && serialLe w.1.pseq x.1.pseq).map (·.1)

/-- Recompute passes that go ahead of a dropped pass (R395, R396): of its own request, or of another that recomputes a page which both hold. -/
def recomputeFirst (s : State) (p : Pass) : Option Nat :=
  if p.lead then none
  else (p.entry :: s.entries).find? fun e => recomputeLeft s e && (s.req e).recompute.any fun r =>
    e == p.entry || (s.pageAt e (r.1 / 64)).any fun f => (List.range (s.epages p.entry)).any fun i => s.pageAt p.entry i == some f

/-- Passes that a hold dropped, or lost positions, are still to be issued: new passes of main and of the lead wait (R396). -/
def restoring (s : State) : Bool := s.serving.reissue.any (!·.dropped) || s.entries.any (recomputeLeft s)

def issueAgain (n : Nat) (p : Pass) : Prog :=
  (setServing fun v => { v with reissue := v.reissue.filter fun q => q.pseq != p.pseq }).andThen (issuePass n p)

/-- The wide pass that waits first: by priority, then by close, at least 4 beats after its close, and behind no earlier pass of its request. -/
def firstWide (s : State) (lead : Bool) (beat : Nat) : Option Pass :=
  ((rankBy (fun i => match s.serving.wide[i]? with
      | some w => [cPrio (s.ctrl w.1.entry), w.2, i]
      | none => [])
    ((List.range s.serving.wide.length).filter fun i => match s.serving.wide[i]? with
      | some w => w.1.lead == lead && w.2 + 4 ≤ beat && (recomputeFirst s w.1).isNone &&
          !(s.serving.reissue ++ s.serving.wide.map (·.1)).any fun q => q.entry == w.1.entry && q.pseq != w.1.pseq && serialLe q.pseq w.1.pseq
      | none => false)).head?).bind fun i => (s.serving.wide[i]?).map (·.1)

/-- What slot n carries.  A wide slot takes a pass only while its select entries can still be written 2 beats ahead (R144). -/
def fillSlot (lead : Bool) (n : Nat) : Prog :=
  .get fun s =>
    let again := reissuable s lead
    if wideSlot n then
      let beat := slotBeat s (s.srv lead) n
      if beat < s.takenOf lead + 2 then issueIdle lead n else
      match again.find? (fun p => p.wide && (recomputeFirst s p).isNone), firstWide s lead beat with
      | some p, _ => issueAgain n p
      | none, some p => (setServing fun v => { v with wide := v.wide.filter fun w => w.1.pseq != p.pseq }).andThen (issuePass n p)
      | none, none => issueIdle lead n
    else
      match again.find? (fun p => !p.wide && ((recomputeFirst s p).map (readyRecompute s)).getD true) with
      | some p => (match recomputeFirst s p with
        | some e => issueRecompute n e
        | none => issueAgain n p)
      | none =>
        match (if lead then none else firstBy s (readyRecompute s)) with
        | some e => issueRecompute n e
        | none =>
          if restoring s then issueIdle lead n
          else match firstBy s (if lead then readyLead s else readyMain s) with
            | some e => if lead then issueLead n e else issueMain n e
            | none => issueIdle lead n

/-- ISSUE_SLOT: the next slot of main or lead is decided. -/
def execIssueSlot (lead : Bool) (s : State) : Host.Outcome State Fault Refusal :=
  (served <| .get fun s => .when (!holdInForce s && (s.srv lead).running && (!s.inGroup || s.groupMember == 0))
    (match nextIssue s lead with
      | none => .done
      | some n => (Prog.each (s.inState [stPrefill, stDecode]) endLate).andThen (fillSlot lead n))).run s

/-! ### Writes into entry cores and fetch rings (R202) -/

/-- The rows of an issue entry. -/
def entryRows (s : State) (r : CoreRec) (n : Nat) (lead : Bool) (e : SlotEntry) : List Row :=
  let row0 := rowOfFields [(0, 8, n), (8, 4, e.first), (12, 1, e.count), (16, 4, e.pseq), (20, 2, e.entry)]
  let heads := e.headers.map fun h => rowOfFields [(0, 2, h.1), (2, 1, h.2.1 % 64), (3, 1, 1), (4, 4, h.2.2.1), (8, 4, h.2.2.2), (12, 4, e.pseq)]
  let rows := row0 :: (wordRows e.tokens ++ wordRows e.words ++ heads)
  let k := svIssueRows s (s.srv lead) r
  rows.take k ++ List.replicate (k - rows.length) 0

/-- A one-flit WRITE of firmware to a core. -/
def writeFlit (src key row ctr lanes : Nat) (v : Row) : Packet :=
  ⟨src, BitVec.ofNat 64 (key / 1024 * 2 ^ 57 + key / 32 % 32 * 2 ^ 52 + key % 32 * 2 ^ 47 + ctr % 32 * 2 ^ 28 + row % 65536 * 2 ^ 12 + lanes * 2 ^ 4), [v]⟩

/-- One-flit writes of rows at consecutive indexes of a core's handle, from a tumbler core. -/
def writeIndexes (key handle i ctr lanes : Nat) (rows : List Row) : Prog :=
  .get fun s => .ups [.net (s.net ++ rows.zipIdx.filterMap fun x => match storedRow ((s.core key).handle handle) (i + x.2) with
    | .ok row => some (writeFlit (srcEndpoint (0x180 + dutyCore dutyServing)) key row ctr lanes x.1)
    | .error _ => none)]

/-- ISSUE_ENTRY_WRITE: the entry of a decided slot, lane-masked, into one entry core. -/
def execIssueEntryWrite (lead : Bool) (n : Nat) (c : CoreId) (s : State) : Host.Outcome State Fault Refusal :=
  (withCore c fun _ => served <| .get fun s =>
    let m := s.srv lead
    match (s.entryRecs lead).find? (fun r => r.key == c.key), AMap.get none s.serving.decided (2 * n + boolNat lead) with
    | some r, some e => .when (m.running && inTime s lead (slotBeat s m n) && !holdInForce s)
        (writeIndexes c.key (svIssue s m r) (n % max 1 (svIssueDepth s m r) * svIssueRows s m r) (svIctr s m r) 0xFF (entryRows s r n lead e))
    | _, _ => .done).run s

def idleDesc (key : Nat) : Row :=
  readDesc ((Config.idleAddr key).toNat * 64) 1 (Config.firmwareCtr 0 key).toNat ((Config.idleRow key).toNat % 51200) key

/-- The page whose frame a descriptor reads. -/
def sourcePage (s : State) (lead : Bool) (key : Nat) (d : Row) : Nat :=
  (rowField d 0 8 - stBase (s.core key).staging * 64) / (64 * (apRows (kvConf s key) + 1)) * s.ways lead + stWay (s.core key).staging

/-- FETCH_RING_WRITE: the descriptors of cadence period m of one core, none that reads a frame too young for it; with nothing to fetch, idle ones.  A page whose descriptor is written may be named one fetch latency after the period; the figure issues it in that period, at a cycle the spec leaves to Mbosum (DESIGN CHOICE: the period's end counts). -/
def execFetchRingWrite (lead : Bool) (m : Nat) (c : CoreId) (s : State) : Host.Outcome State Fault Refusal :=
  (withCore c fun _ => served <| .get fun s =>
    let md := s.srv lead
    match (s.coreRecs md).find? fun r => r.key == c.key && r.flags % 2 == 1 with
    | none => .done
    | some r =>
      let per := svFetchPer s md r
      let queue := AMap.get [] s.serving.fetchQ c.key
      let q := (queue.takeWhile fun d => frameOld s lead c.key (sourcePage s lead c.key d.2)).take per
      .when (md.running && svFetch s md r != 0xFF && inTime s lead (m * s.hCadence md) && AMap.get 0 s.serving.nextSlot (2 ^ 20 + c.key) ≤ m && !holdInForce s) (.seq [
        setServing fun v => { v with
          loading := q.foldl (fun l d => if AMap.get 0 l d.1 = 0 then l else AMap.put 0 l d.1
            (max (AMap.get 0 l d.1) ((m + 1) * s.hCadence md + fetchLatency s md (s.core c.key) (svFetch s md r) + 1))) v.loading },
        setServing fun v => { v with fetchQ := AMap.put [] v.fetchQ c.key (queue.drop q.length), nextSlot := AMap.put 0 v.nextSlot (2 ^ 20 + c.key) (m + 1) },
        .each (List.range per) fun j => writeIndexes c.key (svFetch s md r) ((m * per + j) % max 1 (svFetchDepth s md r)) (Config.firmwareCtr 1 c.key).toNat 0
          [(q.map (·.2)).getD j (idleDesc c.key)]])).run s

/-! ### Packets at a tumbler core (R243, R278) -/

def toTumbler (t : Nat) (p : Packet) : Bool := hdrField p.h == 127 && hdrEndpoint p.h == 0x180 + t
/-- A WRITE with CTR 1 that came through a chip link. -/
def isRecord (p : Packet) : Bool := hdrKind p.h == 0 && hdrCtr p.h == 1 && 2 ^ 17 + 0x1A0 ≤ p.src && p.src < 2 ^ 17 + 0x1C0
def isCandidate (p : Packet) : Bool := hdrKind p.h == 0 && hdrCtr p.h == 0 && hdrLen p.h == 0

/-- CANDIDATE_DISCARD. -/
def discardCandidate (t cause row : Nat) : Prog :=
  .get fun s => appendLog (0x10 + t) 0x56 3 (leBytes 1 t ++ leBytes 1 cause ++ leBytes 2 row ++ leBytes 8 s.beatNow)

/-- Directory changes of a record, after its tokens; all zeros pad the last slot. -/
def recordChanges (p : Packet) (count : Nat) : List (List Byte) :=
  let b := (p.flits.drop 1).flatMap rowBytes
  ((List.range (b.length / 16)).map fun i => slice b (4 * count + 16 * i) 16).filter fun c => c.any (· != 0)

/-- A member applies one directory change; a page that must be loaded is fetched into its slot. -/
def applyChange (lead : Bool) (c : List Byte) : Prog :=
  let f := field c 0 4
  .seq [putDir lead f fun d => { d with hot := field c 4 2, state := field c 6 1, count := field c 7 1, gen := field c 8 4 },
    .when (field c 6 1 == pgFull) (noteFull lead f), .when (field c 6 1 == pgLoading) (fetchPage lead f f)]

/-- The list words and append headers of a member, from the pages it has been told of. -/
def memberEntry (s : State) (lead : Bool) (pages : List Nat) (pseq entry first count : Nat) (tokens : List Nat) : SlotEntry :=
  let stop := first + count
  let ps := (List.range count).map (first + ·)
  ⟨pseq, entry, first, count, tokens,
    (List.range (listWords s lead)).map fun i => if stop ≤ 64 * i then absentWord else match pages[i]? with
      | some f => s.slotOf lead f * 65536 + min 64 (stop - 64 * i)
      | none => absentWord,
    ps.map fun p => match pages[p / 64]? with
      | some f => (s.slotOf lead f, p, f, (s.dir lead f).gen)
      | none => (0xFFFF, p, 0, 0)⟩

/-- Pages of a request on a member, by entry and choreography; pages of a slot whose record with the tokens is still to come, 2^20 higher. -/
def memberKey (lead : Bool) (e : Nat) : Nat := 2 * e + boolNat lead

/-- A member acts on an issue record. -/
def applyRecord (lead : Bool) (p : Packet) : Prog :=
  let r := p.flits.getD 0 0
  let n := rowField r 0 8
  let e := rowField r 8 2
  let count := rowField r 14 1
  let cs := recordChanges p count
  let ids := cs.map fun c => field c 0 4
  .seq [.each cs (applyChange lead), .get fun s =>
    let k := memberKey lead e
    let told := (AMap.get [] s.serving.memberPages (2 ^ 20 + k) ++ ids).eraseDups
    if count = 0 then .seq [setServing fun v => { v with memberPages := AMap.put [] v.memberPages (2 ^ 20 + k) told }, keepDecided lead n (idleEntry s lead),
      .when (!lead) (restoreMember e told)]
    else
      let first := rowField r 10 4
      let old := AMap.get [] s.serving.memberPages k
      let pages := if ceilDiv (first + count) 64 ≤ told.length then told else old ++ told.filter fun f => !old.contains f
      let tokens := (List.range count).map fun i => field ((p.flits.drop 1).flatMap rowBytes) (4 * i) 4
      .seq [setServing fun v => { v with memberPages := AMap.put [] (AMap.put [] v.memberPages (2 ^ 20 + k) []) k pages },
        .get fun s => keepDecided lead n (memberEntry s lead pages (rowField r 15 4) e first count tokens)]]

/-- ISSUE_RECORD: a WRITE with CTR 1 that came through a chip link goes to the tumbler firmware, which acts on it where it is an issue record of member 0 at a core that takes them and else ignores it (DESIGN CHOICE); any other packet that is no candidate row is discarded (R243). -/
def execIssueRecord (t : Nat) (p : PktSource) (s : State) : Host.Outcome State Fault Refusal :=
  (if t ≥ 24 then (Prog.fault (.noSuchUnit t))
   else served <| takePacket p (fun q => toTumbler t q && !isCandidate q) fun q => .get fun s =>
    if isRecord q then .when (s.inGroup && s.groupMember != 0 && (t == recordTumbler false || t == recordTumbler true)) (applyRecord (t != recordTumbler false) q)
    else discardCandidate t 2 (hdrSpad q.h)).run s

end Sys2Proof.Machine
end

