-- ==== Sys2Proof/Machine/Candidates.lean ====
section
/-! DEFINITION. Candidate rows, the choice of tokens, delivery and the retirement of passes (R166, R228 to R231, R243, R255 to R257). -/

namespace Sys2Proof.Machine

/-! ### Deciding a pass (R247, R255, R256) -/

/-- Logs what a choice met: a grammar fallback or a list without a finite candidate (R259). -/
def choiceEvent (t e p before : Nat) (c : Choice) (toks : List Nat) : Prog :=
  .get fun s =>
    let id := tGrammar (s.sampTable e)
    if c.event = 1 then
      (addReg 0x5507 0 1).andThen (appendLog (0x10 + t) 0x53 2 (s.rid e ++ leBytes 4 p ++ leBytes 1 id ++
        leBytes 4 (grAfter (s.grammarOf e) (s.genTokens e ++ toks.take before))))
    else if c.event = 2 then (addReg 0x5508 0 1).andThen (appendLog (0x10 + t) 0x55 3 (s.rid e ++ leBytes 4 p ++ leBytes 2 c.bad))
    else .done

/-- The batch of a request's tokens, cut under R252. -/
def cutOf (s : State) (e : Nat) (toks : List Nat) : Cut :=
  let g := s.grammarOf e
  examine g (s.stopOf e) (s.eMax e - s.generated e) toks (s.genTokens e) (if g.isEmpty then 0 else grAfter g (s.genTokens e)) 0

/-- The choices of a main pass whose candidate lists are complete. -/
def mainChoices (s : State) (p : Pass) : List Choice :=
  let pos := p.first + p.count - p.drafts.length
  let lists := (List.range (p.drafts.length + 1)).map fun j => AMap.get [] p.lists j
  if tReject (s.sampTable p.entry) then acceptReject s p.entry pos lists (s.req p.entry).drafts [] else acceptMatch s p.entry pos lists p.drafts []

def decideMain (t : Nat) (p : Pass) : Prog :=
  .get fun s =>
    let cs := mainChoices s p
    let toks := cs.map (·.tok)
    let pos := p.first + p.count - p.drafts.length
    .seq [.each (cs.zipIdx.take (cutOf s p.entry toks).kept) fun x => choiceEvent t p.entry (pos + x.2) x.2 x.1 toks,
      setPass p.pseq fun q => { q with tokens := some toks, accepted := cs.length - 1 }]

/-- A draft of the lead; drafting ends at a grammar's END, a stop string or the depth (R255). -/
def decideLead (p : Pass) : Prog :=
  .get fun s =>
    let e := p.entry
    let toks := (s.req e).drafts.map (·.1)
    let t := s.sampTable e
    let c := s.chooseAt e (p.first + p.count) (boolNat (tReject t)) toks (AMap.get [] p.lists 0)
    let all := toks ++ [c.tok]
    let g := s.grammarOf e
    let stops := (!g.isEmpty && grAfter g (s.genTokens e ++ all) == grEnd) || (stopHit (s.stopOf e) (s.genTokens e ++ all)).isSome
    .seq [setReq e fun r => { r with drafts := r.drafts ++ [(c.tok, if tReject t then c.kept else [])], draftsDone := stops || s.depth e ≤ all.length },
      setPass p.pseq fun q => { q with delivered := true }]

/-- A pass of a live request whose lists are all complete is decided, unless an escalation will drop it. -/
def decideIfDone (t pseq : Nat) : Prog :=
  .get fun s => match s.pass pseq with
    | none => .done
    | some p =>
      .when (!p.dropped && !p.delivered && p.tokens.isNone && !s.attemptOf pseq && (List.range (p.drafts.length + 1)).all fun j => AMap.has p.lists j)
        (.seq [.when (!cDiscard (s.ctrl p.entry)) (if p.lead then decideLead p else decideMain t p), resetSlots pseq])

/-! ### Candidate rows (R243, R244) -/

def sorterKey (t slot : Nat) : Nat := t * 32 + slot
def setSorter (k : Nat) (x : SortSlot) : Prog := setServing fun v => { v with sorter := AMap.put none v.sorter k (some x) }

/-- The eight candidates of a row: lane number and FP32 value. -/
def rowPairs (r : Row) : List (Nat × Nat) := (List.range 8).map fun i => (rowField r (32 + 4 * i) 4, rowField r (4 * i) 4)

/-- The 256 highest of some candidates. -/
def keepBest (xs : List (Nat × Nat)) (x : Nat × Nat) : List (Nat × Nat) := (rankIn x xs).take 256

/-- A row at an open slot. -/
def sortRow (t k row : Nat) (x : SortSlot) (r : Row) : Prog :=
  .get fun s => match s.pass x.pseq with
    | none => discardCandidate t 1 row
    | some p =>
      let vocab := s.hVocab (s.srv p.lead)
      let block := row % 2048
      let pairs := rowPairs r
      let ok := (pairs.filter fun y => y.1 ≤ 63 && 64 * block + y.1 < vocab).map fun y => (64 * block + y.1, y.2)
      let full := x.rows + 1 ≥ ceilDiv vocab 64
      let y : SortSlot := { x with rows := x.rows + 1, entries := ok.foldl keepBest x.entries, complete := if full then some (s.takenOf p.lead) else none }
      .seq [.each (pairs.filter fun y => y.1 > 63) fun _ => discardCandidate t 0 row, setSorter k y,
        .when (full && !y.entries.isEmpty) (.seq [setPass x.pseq fun q => { q with lists := AMap.put [] q.lists x.idx y.entries }, decideIfDone t x.pseq])]

/-- CANDIDATE_ROW: a packet at a tumbler core that is no issue record. -/
def execCandidateRow (t : Nat) (p : PktSource) (s : State) : Host.Outcome State Fault Refusal :=
  (if t ≥ 24 then (Prog.fault (.noSuchUnit t))
   else served <| takePacket p (fun q => toTumbler t q && !(isRecord q)) fun q => .get fun s =>
    let row := hdrSpad q.h
    let k := sorterKey t (row / 2048)
    if !isCandidate q then discardCandidate t 2 row
    else match AMap.get none s.serving.sorter k with
      | none => discardCandidate t 1 row
      | some x => if x.complete.isSome then discardCandidate t 1 row else sortRow t k row x (q.flits.getD 0 0)).run s

/-- A slot whose deadline beat has passed: incomplete two beats after the candidate offset, or complete and empty. -/
def slotMissing (s : State) (x : SortSlot) (p : Pass) : Bool :=
  match x.complete with
  | none => p.beat + s.hCandOffset (s.srv p.lead) + 2 < s.takenOf p.lead
  | some b => x.entries.isEmpty && b < s.takenOf p.lead

/-- What remains of a void for R397: its place, cause, pass and position. -/
def recordVoid (place cause pseq pos : Nat) : Prog := setServing fun v => { v with voids := v.voids ++ [(place, cause, pseq + 1, pos)] }

/-- CANDIDATE_MISSING: the tumbler core raises a void of cause 0x0B. -/
def execCandidateMissing (t slot : Nat) (s : State) : Host.Outcome State Fault Refusal :=
  (if t ≥ 24 || slot ≥ 32 then (Prog.fault (.noSuchUnit (if t ≥ 24 then t else slot)))
   else served <| .get fun s => match AMap.get none s.serving.sorter (sorterKey t slot) with
    | none => .done
    | some x => match s.pass x.pseq with
      | none => .done
      | some p =>
        let place := 127 * 1024 + 31 * 32 + t
        let pos := p.first + p.count - p.drafts.length + x.idx
        .when (slotMissing s x p && !s.serving.voids.any fun v => v.1 == place && v.2.2 == (p.pseq + 1, pos))
          (.seq [addReg 0x400C 0 1, recordVoid place 0x0B p.pseq pos,
            appendLog (0x10 + t) 0x43 3 (leBytes 1 127 ++ leBytes 1 31 ++ leBytes 1 t ++ leBytes 1 0x0B ++ leBytes 2 slot ++ leBytes 8 s.beatNow),
            requestHold 0x0B])).run s

/-! ### Delivery (R228 to R230, R257, R300) -/

/-- What the LF word becomes after some delivered tokens of a pass with `k` drafts, `a` of them accepted, and whether speculation is turned off (R257). -/
def nextLf (w tokens k a : Nat) : Nat × Bool :=
  let retry := if lfK w = 0 then lfRetry w - tokens else lfRetry w
  let back := lfK w = 0 && lfRetry w ≠ 0 && retry = 0
  let w1 := if back then lfWord (lfKreq w) (lfKreq w) 0 0 else lfWord (lfK w) (lfKreq w) (lfLow w) retry
  if k = 0 then (w1, false)
  else
    let low := if 5 * a < k then lfLow w1 + 1 else 0
    if low ≥ 32 then (lfWord 0 (lfKreq w1) 32 512, true) else (lfWord (lfK w1) (lfKreq w1) low (lfRetry w1), false)

/-- What speculation records after a verify pass, and the LF word after any batch. -/
def afterBatch (e tokens : Nat) (p : Pass) : Prog :=
  .get fun s =>
    let k := p.drafts.length
    let r := nextLf (s.lf e) tokens k p.accepted
    .seq [.when (k > 0) (.seq [addReg 0x5503 0 1, addReg 0x5504 0 k, addReg 0x5505 0 p.accepted]), setLf e r.1,
      .when r.2 (.seq [addReg 0x5506 0 1, appendLog (dutySrc dutyDecoding) 0x54 2 (s.rid e ++ leBytes 4 (s.lastPos e) ++ leBytes 1 k)])]

/-- The measurements of a delivery: TTFT_MEAS of the first batch, the gaps of the later ones. -/
def measureBatch (e : Nat) : Prog :=
  .get fun s =>
    if s.generated e = 0 then putEnt e 56 4 (min (s.us - s.arrival e) 0xFFFFFFFF)
    else
      let gap := min (s.us - (s.req e).lastAt.getD s.us) 0xFFFF
      .seq [putEnt e 60 2 gap, putEnt e 62 2 (max (s.ent e 62 2) gap)]

/-- The time that a TOKENS message carries. -/
def batchTime (s : State) (e : Nat) : Nat :=
  min (if s.generated e = 0 then s.us - s.arrival e else s.us - (s.req e).lastAt.getD s.us) 0xFFFFFFFF

/-- Sends the kept tokens of a batch: the history first, then CTRL, then the message. -/
def sendBatch (e : Nat) (late : Bool) (toks : List Nat) : Prog :=
  .get fun s =>
    let a := s.ePrompt e + s.generated e
    let time := batchTime s e
    .when (!toks.isEmpty) (.seq [
      .each toks.zipIdx fun x => setToken e (a + x.2) x.1,
      setCtrl e fun w => withBits 15 0 (cTseq w + 1) w,
      measureBatch e, setGenerated e (s.generated e + toks.length), .when late (addReg 0x5014 0 toks.length),
      .get fun s => .when (!(s.req e).silent) (pushTx (s.esession e) 0x21 (leBytes 4 (s.tag e) ++ leBytes 2 (cTseq (s.ctrl e)) ++ leBytes 1 (if late then 6 else 1) ++
        leBytes 1 toks.length ++ leBytes 4 a ++ leBytes 4 time ++ toks.flatMap (leBytes 4))),
      setReq e fun r => { r with lastAt := some s.us, base := some s.us }])

/-- The shortest traversal of a decode pass since the start (R241). -/
def noteTraversal (p : Pass) (decode : Bool) : Prog :=
  .get fun s => .when (decode && (s.reg 0x5005 = 0 || s.us - p.at_ < s.reg 0x5005)) (setReg 0x5005 0 (s.us - p.at_))

/-- The CAS of R230 has succeeded: the batch goes out, and the request completes or goes on. -/
def deliverBatch (p : Pass) (toks : List Nat) : Prog :=
  .get fun s =>
    let e := p.entry
    let c := cutOf s e toks
    let kept := toks.take (c.kept - c.withheld)
    let late := match s.deadline e with
      | some d => decide (d < s.us)
      | none => false
    let reason := match c.reason with
      | some r => some r
      | none => if late && cPolicy (s.ctrl e) then some 2 else if s.pastEnd e then some 3 else none
    .seq [noteTraversal p (s.est e == stDecode), sendBatch e late kept, setPass p.pseq fun q => { q with delivered := true },
      .get fun s => .seq [afterBatch e kept.length p, match reason with
        | some r => .seq [setCtrl e fun w => withBits 63 60 stDraining (withBits 58 58 1 (withBits 23 16 0 w)), setReq e fun q => { q with detail := r },
            dropQueued e]
        | none => .seq [.when (s.est e == stPrefill) (setState e stDecode),
            setReq e fun r => { r with issued := s.lastPos e, upto := s.lastPos e + 1, drafts := [], draftsDone := false,
                                       leadAt := if p.drafts.isEmpty then r.leadAt else min r.leadAt (p.first + p.accepted + 1), resuming := false }]]]

/-- BATCH_DELIVER: a decided batch, while the transmit ring has room. -/
def execBatchDeliver (pseq : Nat) (s : State) : Host.Outcome State Fault Refusal :=
  (served <| .get fun s => match s.pass pseq with
    | none => .done
    | some p => match p.tokens with
      | none => .done
      | some toks =>
        let w := s.ctrl p.entry
        if p.lead || p.dropped || p.delivered || s.attemptOf pseq then .done
        else if cDiscard w || cDone w then setPass pseq fun q => { q with delivered := true }
        else .when (s.serving.outbox.isEmpty && ringUsed s 1 < 16384) (deliverBatch p toks)).run s

/-! ### Passes leave the pipeline (R166, R171, R175, R256) -/

/-- The positions of a pass below `filled` count in their pages; a page whose position 63 is written is FULL, and one of the prompt joins the prefix tree. -/
def fillPage (p : Pass) (stop i : Nat) : Prog :=
  .get fun s => match pageOf s p.lead p.entry i with
    | none => .done
    | some f =>
      let n := min 64 (stop - 64 * i)
      let d := s.dir p.lead f
      .when (!d.shared) (.seq [
        .when (!p.lead) (setListWord p.entry i (pageWord f (if p.recompute then max n (wordCount (s.listWord p.entry i)) else n))),
        putDir p.lead f fun d => { d with count := if p.recompute then max n d.count else n,
                                          state := if n = 64 && d.state == pgOpen then pgFull else d.state, fill := if n = 64 then p.pseq else d.fill },
        .when (n = 64 && d.state == pgOpen) (noteFull p.lead f),
        .when (n = 64 && !p.lead && !p.recompute && !cDiscard (s.ctrl p.entry)) (insertPage p.entry i f)])

def fillPages (p : Pass) : Prog :=
  let stop := p.first + (if p.drafts.isEmpty then p.count else 1 + p.accepted)
  .each ((List.range (ceilDiv stop 64)).drop (p.first / 64)) (fillPage p stop)

/-- PASS_RETIRE: a pass that was delivered, dropped or yields nothing leaves the pipeline. -/
def execPassRetire (pseq : Nat) (s : State) : Host.Outcome State Fault Refusal :=
  (served <| .get fun s => match s.pass pseq with
    | none => .done
    | some p =>
      let w := s.ctrl p.entry
      .when (p.dropped || (p.delivered && !s.attemptOf pseq) || cDiscard w || cDone w || (!p.yields && !s.attemptOf pseq)) (.seq [
        .when (!p.dropped) (fillPages p), resetSlots pseq, removePass pseq, retireIfDone p.entry, pauseIfDone p.entry])).run s

end Sys2Proof.Machine
end

