-- ==== Sys2Proof/Machine/Escalation.lean ====
section
/-! DEFINITION. Deferred escalation: reports, closes, the wide queue, select entries and the clamp scan (R139 to R147, R204). -/

namespace Sys2Proof.Machine

/-! ### Reports (R139 to R141) -/

/-- A record of the escalation table: layer, unit, rung, issue offset. -/
structure EscRec where
  layer : Nat
  unit : Nat
  rung : Nat
  offset : Nat
  deriving DecidableEq, Repr

/-- The record of a core's tile set at a beat phase. -/
def escRec (s : State) (m : Model) (phase key tile : Nat) : Option EscRec :=
  let want := (((phase * 256 + key / 1024) * 256 + key / 32 % 32) * 256 + key % 32) * 256 + tile
  ((List.range (escCount s m)).find? fun i => escKey s m i == want).map fun i =>
    let o := escOff s m i
    ⟨s.bin m (o + 6) 2, s.bin m (o + 8) 1, s.bin m (o + 9) 1, s.bin m (o + 10) 2⟩

/-- The rung that a wide pass runs for a unit, by core * 1024 + unit: what a close raised it to, else the base rung. -/
def rungOf (rungs : List (Nat × Nat)) (unit : Nat) : Nat := match rungs.find? fun r => r.1 == unit with
  | some r => r.2
  | none => 0

/-- The rung that an attempt ran for a core's unit.  In a normal slot that is the lowest rung that the table names for the unit and the slot's phase: 0, or the upper rung of an inline rerun, which alone reports (R138). -/
def ranRung (s : State) (m : Model) (p : Pass) (key unit : Nat) : Nat :=
  if p.wide then rungOf p.rungs (key * 1024 + unit)
  else
    let c := max 1 (s.hCadence m)
    let rungs := (List.range (escCount s m)).filterMap fun i =>
      let o := escOff s m i
      if escKey s m i / 256 % 2 ^ 24 = (key / 1024 * 256 + key / 32 % 32) * 256 + key % 32 && s.bin m (o + 8) 1 = unit &&
          (escKey s m i / 2 ^ 32 + c - s.bin m (o + 10) 2 % c) % c = p.beat % c then some (s.bin m (o + 9) 1) else none
    rungs.foldl min 255

/-- The pass issued at a taken beat, in the pipeline or dropped by a hold. -/
def attemptPass (s : State) (lead : Bool) (beat : Nat) : Option Pass :=
  (s.serving.passes ++ s.serving.reissue).find? fun p => p.lead == lead && p.beat == beat && !p.dropped

def closeBeat (s : State) (p : Pass) (layer : Nat) : Nat := p.beat + layerLast s (s.srv p.lead) layer + 2

/-- Opens an attempt, lowers its layer, or adds a unit to it; reports from layers above are left out.  A raised unit is kept as 4 * (core * 1024 + unit) + its new rung. -/
def addReport (s : State) (p : Pass) (r : EscRec) (unit : Nat) (as : List (Nat × Nat × Nat × List Nat)) : List (Nat × Nat × Nat × List Nat) :=
  let x := 4 * unit + (r.rung + 1) % 4
  match as.find? fun a => a.1 == p.pseq with
  | none => as ++ [(p.pseq, r.layer, closeBeat s p r.layer, [x])]
  | some a =>
    if r.layer < a.2.1 then as.map fun b => if b.1 == p.pseq then (p.pseq, r.layer, closeBeat s p r.layer, [x]) else b
    else if r.layer = a.2.1 && !a.2.2.2.contains x then as.map fun b => if b.1 == p.pseq then (a.1, a.2.1, a.2.2.1, a.2.2.2 ++ [x]) else b
    else as

/-- One report: its attempt is the pass issued `offset` taken beats before it.  DESIGN CHOICE: a report of a pass whose batch has already gone out is ignored, since no token is left to drop. -/
def resolveReport (taken key tile : Nat) : Prog :=
  .get fun s => match s.fieldSlot (key / 1024) with
    | none => .done
    | some i =>
      let m := s.model i
      match escRec s m (taken % max 1 (s.hCadence m)) key tile with
      | none => .done
      | some r => match attemptPass s (i == 1) (taken - r.offset) with
        | none => .done
        | some p =>
          let unit := key * 1024 + r.unit
          let w := s.ctrl p.entry
          .when (r.offset ≤ taken && !s.passSent p && !cDiscard w && !cDone w && ranRung s m p key r.unit == r.rung)
            (setServing fun v => { v with attempts := addReport s p r unit v.attempts })

/-- A word of a record cannot be read. -/
def recordBad (s : State) (a : Nat) : Bool := AMap.get false s.smBad (a / 8) || AMap.get false s.smBad (a / 8 + 1)

/-- ESCALATION_REPORT: the next record of the escalation ring; from copy B where copy A is bad, and a wafer hold where both are (R49). -/
def execEscalationReport (s : State) : Host.Outcome State Fault Refusal :=
  (served <| .get fun s =>
    .when (ringUsed s 2 > 0)
      (let a := interleaved escalationRing (16 * (ringCons s 2 % 32768))
       let bad := recordBad s a
       let b := if bad then a + 0x8000 else a
       .seq [setRingCons 2 (ringCons s 2 + 1), .when bad (appendOpen (dutySrc dutyEscalation) openSmEcc (some (leBytes 4 a))),
         if bad && recordBad s b then requestHold 0x12
         else resolveReport (Mem.nat s.sm (b + 8) 4) (Mem.nat s.sm (b + 12) 1 * 1024 + Mem.nat s.sm (b + 13) 1 * 32 + Mem.nat s.sm (b + 14) 1)
           (Mem.nat s.sm (b + 15) 1 % 4)])).run s

/-! ### The close (R141, R145, R147) -/

/-- The rungs of a pass after its units were raised. -/
def raiseRungs (rungs : List (Nat × Nat)) (raised : List Nat) : List (Nat × Nat) :=
  raised.foldl (fun rs x => rs.filter (fun r => r.1 != x / 4) ++ [(x / 4, x % 4)]) rungs

/-- A lead pass is dropped: its draft and the later ones are taken back, and drafting goes on. -/
def takeBackDrafts (q : Pass) : Prog :=
  .when q.lead (.get fun s => setReq q.entry fun r => { r with drafts := r.drafts.take (q.first + q.count - (s.lastPos q.entry + 1)), draftsDone := false })

/-- The passes of the same request that issued after one and are still to yield. -/
def followers (s : State) (p : Pass) : List Pass :=
  ((s.serving.passes.dropWhile fun q => q.pseq != p.pseq).drop 1).filter fun q => q.entry == p.entry && !q.dropped && !s.passSent q
/-- A dropped pass as it waits to be issued again after the wide pass. -/
def Pass.again (q : Pass) : Pass := { q with dropped := true, lists := [], tokens := none, accepted := 0 }

/-- Every later pass of the same request that has issued is dropped too, of main and of the lead, and issued again after the wide pass, in its own order: main's passes as they are, raised rungs kept, the lead's by drafting again. -/
def dropFollowers (p : Pass) : Prog :=
  .get fun s =>
    let after := followers s p
    .seq [.each after fun q => (setPass q.pseq fun x => { x with dropped := true }).andThen (resetSlots q.pseq),
      setServing fun v => { v with attempts := v.attempts.filter fun a => !after.any fun q => q.pseq == a.1
                                   reissue := v.reissue ++ (after.filter fun q => !q.lead).map Pass.again },
      .each (after.filter (·.lead)) fun q => (setReq p.entry fun r => { r with leadAt := min r.leadAt q.first }).andThen (takeBackDrafts q)]

/-- ESCALATION_CLOSE: at the end of an attempt's close beat.  An attempt that a hold has dropped as well is issued once, wide (R145). -/
def execEscalationClose (pseq : Nat) (s : State) : Host.Outcome State Fault Refusal :=
  (served <| .get fun s =>
    match s.serving.attempts.find? (fun a => a.1 == pseq), (s.serving.passes ++ s.serving.reissue).find? (fun p => p.pseq == pseq) with
    | some a, some p =>
      .when (a.2.2.1 < s.takenOf p.lead) <|
        if s.passSent p then setServing fun v => { v with attempts := v.attempts.filter fun b => b.1 != pseq }
        else (let q : Pass := { p with wide := true, rungs := raiseRungs p.rungs a.2.2.2 }
         let held := s.serving.reissue.any fun r => r.pseq == pseq
         .seq [setServing fun v => { v with attempts := v.attempts.filter fun b => b.1 != pseq },
           addReg 0x5302 0 1, setReg 0x5305 0 (0x51 * 2 ^ 56 + 127 * 2 ^ 49 + a.2.1 % 512 * 2 ^ 40 + s.beatNow % 2 ^ 31),
           appendLog (dutySrc dutyEscalation) 0x51 1 (s.rid p.entry ++ leBytes 4 p.first ++ leBytes 2 a.2.1 ++ leBytes 2 a.2.2.2.length ++
             leBytes 1 ((a.2.2.2.map (· % 4)).foldl max 0) ++ leBytes 8 p.beat),
           if held then setServing fun v => { v with reissue := v.reissue.filter fun r => r.pseq != pseq }
           else .seq [dropFollowers p, setPass pseq fun r => { r with dropped := true }, resetSlots pseq],
           takeBackDrafts p, queueWide q a.2.2.1])
    | _, _ => .done).run s

/-! ### Select entries (R143, R144) -/

/-- Rungs on a unit's ladder: one above the highest that reports. -/
def ladderLen (s : State) (m : Model) (key unit : Nat) : Nat :=
  ((List.range (escCount s m)).map fun i =>
    let o := escOff s m i
    if s.bin m (o + 2) 1 * 1024 + s.bin m (o + 3) 1 * 32 + s.bin m (o + 4) 1 = key && s.bin m (o + 8) 1 = unit then s.bin m (o + 9) 1 + 2 else 1).foldl max 1

/-- The raised rungs of the pass that a wide slot carries, none for an idle pass; a member other than 0 knows them once member 0 has told them. -/
def slotRungs (s : State) (d : SlotEntry) : Option (List (Nat × Nat)) :=
  if d.count = 0 then none
  else if s.inGroup && s.groupMember != 0 then some ((AMap.get [] s.serving.memberRungs d.pseq).map fun x => (x / 4, x % 4))
  else (s.pass d.pseq).map (·.rungs)
/-- The rungs of the slot's pass are known. -/
def rungsTold (s : State) (d : SlotEntry) : Bool :=
  d.count = 0 || !s.inGroup || s.groupMember == 0 || !(AMap.get [] s.serving.memberRungs d.pseq).isEmpty

/-- The four index words of a unit: slot 0 for the rung the pass runs, slot 1 for the others, absent beyond the ladder and with no pass. -/
def selectWords (s : State) (m : Model) (rungs : Option (List (Nat × Nat))) (key unit : Nat) : List Nat :=
  (List.range 4).map fun j => match rungs with
    | none => absentWord
    | some q => if j < 3 && j < ladderLen s m key unit then (if rungOf q (key * 1024 + unit) = j then 0 else 0x10000) else absentWord

/-- SELECT_ENTRY_WRITE: the entries of wide slot w on one core, each by two lane-masked writes, at least 2 beats before the slot. -/
def execSelectEntryWrite (c : CoreId) (w : Nat) (s : State) : Host.Outcome State Fault Refusal :=
  (withCore c fun _ => served <| .get fun s =>
    match s.fieldSlot (c.key / 1024) with
    | none => .done
    | some i =>
      let m := s.model i
      let lead := i == 1
      let n := 16 * w + 15
      match (s.coreRecs m).find? (fun r => r.key == c.key), AMap.get none s.serving.decided (2 * n + i) with
      | some r, some d =>
        let units := s.servingOf m r 0 2
        .when (inTime s lead (slotBeat s m n) && !holdInForce s && rungsTold s d)
          (.each (List.range units) fun u =>
            let e := w % max 1 (s.hWideDepth m) * units + u
            let ws := selectWords s m (slotRungs s d) c.key u
            let row := BitVec.ofNat 512 (packLanes 32 ws * 2 ^ (128 * (e % 4)))
            .seq [writeIndexes c.key (s.hSelect m) (e / 4) (Config.firmwareCtr 2 c.key).toNat (2 ^ (2 * (e % 4))) [row],
              writeIndexes c.key (s.hSelect m) (e / 4) (Config.firmwareCtr 2 c.key).toNat (2 ^ (2 * (e % 4) + 1)) [row]])
      | _, _ => .done).run s

/-! ### The clamp scan (R146, R147) -/

def clampEvent (f row col n : Nat) : Prog :=
  .get fun s => .seq [addReg 0x5304 0 n, setReg 0x5305 0 (0x52 * 2 ^ 56 + f * 2 ^ 49 + s.beatNow % 2 ^ 31),
    mlog 3 0x52 1 (leBytes 1 f ++ leBytes 1 row ++ leBytes 1 col ++ leBytes 2 n ++ leBytes 8 s.beatNow)]

/-- The health scan of one core: corrected errors, verdicts and reports go into their totals (R55, R57, R135).  DESIGN CHOICE: of the cores with corrected errors the scan meets the last one's is the most recent, and the scan's beat is the beat recorded. -/
def scanCore (key : Nat) : Prog :=
  .get fun s =>
    let c := s.core key
    .seq [.when (c.corrected != 0) ((addReg 0x4020 0 c.corrected).andThen (setReg 0x4022 0 (packLoc key c.lastCorrected s.beatNow))),
      addReg 0x5300 0 c.inlineVerdicts, addReg 0x5301 0 c.reportCount,
      setCore key { c with corrected := 0, inlineVerdicts := 0, reportCount := 0, clamps := 0 },
      .when (c.clamps != 0) (clampEvent (key / 1024) (key / 32 % 32) (key % 32) c.clamps)]

/-- CLAMP_SCAN: every 1 ms M3 collects and clears the counters of the cores and of the fields' routers. -/
def execClampScan (s : State) : Host.Outcome State Fault Refusal :=
  (periodic 3 tkClamp 1000000 (.get fun s =>
    .seq [.each (s.cores.filter fun kc => kc.2.clamps != 0 || kc.2.corrected != 0 || kc.2.inlineVerdicts != 0 || kc.2.reportCount != 0) fun kc => scanCore kc.1,
      .each s.fieldClamps fun kv => (Prog.one (.fieldClamp kv.1 0)).andThen (clampEvent kv.1 31 31 kv.2)])).run s

end Sys2Proof.Machine
end

