-- ==== Sys2Proof/Machine/Loader.lean ====
section
/-! DEFINITION. Loading, starting, draining and swapping choreographies (R183, R206 to R216, R254, R276, R355, R357). -/

namespace Sys2Proof.Machine

/-! ### HBM classes (R354) -/

/-- The class a stack's users need; a candidate that waits for its start beat is resident (R354). -/
def stackNeed (s : State) (n : Nat) : Nat :=
  if ([0, 1].any fun i => (s.model i).running && (usedStacks s (s.model i)).contains n) || (s.reg 0xA003 = 5 && (usedStacks s s.load.cand).contains n) then 2
  else if s.load.op != 0 || [0, 1, 2].any fun i => (s.model i).held then 1 else 0

/-- M1, while it runs, lowers the stacks whose users are gone, but for those that are lost. -/
def lowerStacks : Prog :=
  .each (List.range 24) fun n => .get fun s =>
    let c := stackNeed s n
    .when (s.running 1 && s.reg 0x4012 (n + 1) = 0 && c < s.reg 0x200E (n + 1)) ((setGrant (ledgerKey actHbm n) (hbmPrice c)).andThen (setReg 0x200E (n + 1) c))

/-- M1 raises the stacks in self-refresh when firmware traffic needs them. -/
def wakeStacks : Prog :=
  needM1 .wake .done <| .each (List.range 24) fun n => .get fun s =>
    .when (s.reg 0x200E (n + 1) = 0 && s.reg 0x4012 (n + 1) = 0)
      (askGrant 1 actHbm n (hbmPrice 1 - AMap.get 0 s.power.grants (ledgerKey actHbm n)) (setReg 0x200E (n + 1) 1) fun _ => .done)

/-! ### The beat period (R187, R381) -/

/-- Sets the beat period where no choreography runs; beats count on from the same wafer time. -/
def setPeriod (p : Nat) : Prog :=
  .get fun s =>
    let n := s.waferTime / max 1 p
    let hold := match s.beat.hold with
      | .released r => .released (max (n + 1) (ceilDiv (r * s.period) p))
      | h => h
    .when (s.period != p) (.seq [setReg 0x3003 0 p, .one (.beat { s.beat with last := n, decided := n, sampled := none, group := Option.none, hold := hold })])

/-- With no choreography resident the beat period is 1 000 ns again. -/
def restPeriod : Prog := .get fun s => .when ([0, 1].all fun i => !(s.model i).held) (setPeriod 1000)

/-! ### The end of a load (R206, R216) -/

def loadState (v : Nat) : Prog := setReg 0xA003 0 v
def loadEntry (op : Nat) : Nat := 0xA000 + (op - 1)
def packResult (status code detail : Nat) : Nat := status * 2 ^ 56 + code * 2 ^ 48 + detail % 2 ^ 32

/-- What a load that does not come to its start has taken is given back: the reservation or the grant drawn from it, and the fields it released run at step 6 again unless a resident choreography names them (R355, R366). -/
def undoLoad : Prog :=
  .get fun s => .seq [releaseGrant actModel s.load.slot,
    .each (s.load.fields.filter fun f => (s.fieldSlot f).isNone && s.fieldLive f) fun f => setLimit (s.physField f) srcRamp 6, restPeriod]

/-- A LOAD, UNLOAD or SWAP ends: the region and what was reserved are given back after a failure. -/
def endLoad (status code detail : Nat) : Prog :=
  .get fun s =>
    let l := s.load
    .seq [.when (l.op = 1 || l.op = 3) (setReg 0xA004 0 (packResult status code detail)),
      .when (status != 0 && (l.op = 1 || l.op = 3)) undoLoad,
      setImage fun i => { i with xfers := i.xfers.filter fun x => x.kind > 2 },
      .one (.load Load.none), loadState 0, lowerStacks, .when (1 ≤ l.op && l.op ≤ 3) (finishCmd (loadEntry l.op) status)]

/-- The other resident binary of a load into main or lead. -/
def otherModel (s : State) (slot : Nat) : Option Model :=
  if slot = 0 then (if (s.model 1).held then some (s.model 1) else none)
  else if slot = 1 then (if (s.model 0).held then some (s.model 0) else none) else none

def loadCtx (s : State) : LoadCtx := ⟨s, s.load.slot, s.load.cand, otherModel s s.load.slot⟩

/-! ### The start beat (R213, R276) -/

def nextMultiple (n per : Nat) : Nat := ceilDiv n (max 1 per) * max 1 per

/-- The first multiple of CADENCE that begins at least so many beats from now. -/
def startBeatFrom (s : State) (m : Model) (ahead : Nat) : Nat := nextMultiple (ceilDiv s.waferTime s.period + ahead) (s.hCadence m)

/-- Member 0 is ready: a member that names another manifest, BEAT or CADENCE aborts the start; once all have reported, the start beat is named to them (R276). -/
def judgeReady : Prog :=
  .get fun s =>
    let own := (field (s.staged s.load.cand.region 24 32) 0 32, s.hBeat s.load.cand, s.hCadence s.load.cand)
    .when (s.reg 0xA003 = 5 && s.load.start.isNone) (match (otherMembers s).find? fun j => s.load.ready.any fun r => r.1 == j && r.2 != own with
      | some j => .seq [.each (otherMembers s) fun m => sendFirmware m 6 [j], endLoad 0x43 0x0B j]
      | none => .when ((otherMembers s).all fun m => s.load.ready.any fun r => r.1 == m)
        (let b := startBeatFrom s s.load.cand 8
         .seq [setLoad fun l => { l with start := some b }, .each (otherMembers s) fun m => sendFirmware m 3 [b]]))

/-- The digest that a ready report names for main or lead: of the binary being loaded, else of the resident one (R276). -/
def readyDigest (s : State) (slot : Nat) : List Byte := if s.load.slot = slot then s.load.cand.digest else (s.model slot).digest

/-- Every field is loaded: the grant is drawn and the start beat chosen; in a group every member reports ready first. -/
def pickStart : Prog :=
  .get fun s =>
    let l := s.load
    let key := ledgerKey actModel l.slot
    .seq [setReserve key 0, setGrant key (100 * l.cand.grant),
      .each (usedStacks s l.cand) fun n => (setGrant (ledgerKey actHbm n) (hbmPrice 2)).andThen (setReg 0x200E (n + 1) 2), loadState 5,
      if s.inGroup then (if s.groupMember = 0 then judgeReady
        else sendFirmware 0 0 [s.groupMember, field (readyDigest s 0) 0 32, field (readyDigest s 1) 0 32, field (s.staged l.cand.region 24 32) 0 32, s.hBeat l.cand, s.hCadence l.cand])
      else setLoad fun l => { l with start := some (startBeatFrom s l.cand 2) }]

/-! ### Distribution (R212) -/

/-- The keys of a logical field. -/
def fieldKeys (f : Nat) : List Nat := (List.range 576).map fun i => f * 1024 + i / 24 * 32 + i % 24

/-- Every shard with target rows in a field is verified. -/
def fieldReady (s : State) (f : Nat) : Bool :=
  let man := s.load.cand.manifest
  (List.range (shardCount man)).all fun k =>
    let e := shardEntry man k
    shKind e != 0 || !bit (shMembers e) (s.hMember s.load.cand) || (shFirst e).1 != f || s.load.verified.contains k

/-- Shards that the loader requests: those of its member, and in a group every one on member 0 (R211, R213). -/
def wantedShards (s : State) : List Nat :=
  (List.range (shardCount s.load.cand.manifest)).filter fun k =>
    bit (shMembers (shardEntry s.load.cand.manifest k)) (s.hMember s.load.cand) || (s.inGroup && s.groupMember == 0)

def pinWord (pins : List Nat) : Nat := packLanes 3 pins

/-- A field's cores as loaded: tables, figure store and rows from the binary and the golden copy.  Every row is written whole, so no stored error and no pending byte of the gather buffer outlives the load (R55, R71). -/
def loadField (f : Nat) : Prog :=
  .get fun s =>
    let m := s.load.cand
    let pins := pinWord (modelPins s m)
    .seq [.each (fieldKeys f) fun key => .get fun s =>
        let c := s.core key
        let c' := match s.coreRec m key with
          | some r => startCore s m r c
          | none => emptyCore c
        (setCore key { c' with pins := pins, ecc := [], gather := [] }).andThen (.one (.spadAll key (s.loadedRuns m key))),
      .get fun s => setLimit (s.physField f) srcRamp 0, setLoad fun l => { l with fields := l.fields ++ [f] }]

/-- What comes before the first field: the beat period, the pins' entry and the sync objects. -/
def beginFields : Prog :=
  .get fun s =>
    let m := s.load.cand
    .seq [.when ([0, 1].all fun i => !(s.model i).running) (setPeriod (500 * s.hBeat m)),
      setRegs (if s.load.slot = 1 then 0x1012 else 0x1011) (modelPins s m), .each (s.syncRecs m) fun o => .one (.object o.1 o.2)]

/-- Distributes one field after another while their shards are there and they are held or idle; a hold pauses it (R208). -/
def distributeGo : Nat → Prog
  | 0 => .done
  | n + 1 => .get fun s =>
    let l := s.load
    .when (!holdInForce s && s.running 0) (match (s.hFields l.cand).drop l.fields.length with
      | [] => .when ((wantedShards s).all l.verified.contains && l.start.isNone && s.reg 0xA003 != 5) pickStart
      | f :: _ => .when (fieldReady s f && !s.fieldRuns f && s.fieldLive f)
        (.seq [.when (l.fields.isEmpty) beginFields, loadField f, distributeGo n]))

def distribute : Prog :=
  .get fun s => .when ((s.load.op = 1 || s.load.op = 3) && (s.reg 0xA003 = 3 || s.reg 0xA003 = 4))
    (.seq [.when ((wantedShards s).all s.load.verified.contains) (loadState 4), distributeGo 81])

/-! ### Checks (R206, R357) -/

/-- Keeps a standby model: its image is whole and nothing of it runs. -/
def keepStandby : Prog :=
  .get fun s => .seq [.one (.model 2 { s.load.cand with grant := 0 }), .one (.blob 0xA012 s.load.cand.digest), endLoad 0 0 0]

/-- Once every shard is there: a standby load ends, any other goes on to the cores. -/
def afterShards : Prog :=
  .get fun s => if s.load.slot = 2 then .when ((wantedShards s).all s.load.verified.contains) keepStandby else distribute

/-- Step 17: every shard is asked for. -/
def askShards : Prog :=
  .get fun s => .seq [loadState 3,
    .each (wantedShards s) fun k => .get fun s => startXfer 2 (shake256 32 s.load.cand.manifest) k (64 * shRows (shardEntry s.load.cand.manifest k)), afterShards]

/-- Step 16: the share of the ledger and the raises of HBM stacks are reserved; then `ok`. -/
def reserveModel (ok : Prog) : Prog :=
  .get fun s =>
    let c := loadCtx s
    let share := modelShare c
    let hbm := ((usedStacks s c.m).map fun n => hbmPrice 2 - AMap.get 0 s.power.grants (ledgerKey actHbm n)).foldl (· + ·) 0
    askReserve 0 actModel c.slot (100 * share + hbm) ((setLoad fun l => { l with cand := { l.cand with grant := share } }).andThen ok)
      fun short => endLoad 0x45 0 (ceilDiv short 10)

/-- Steps 1 to 16 in order, while M0 and M1 run. -/
def checkModel : Prog :=
  .get fun s => .seq [loadState 2, match loadChecks (loadCtx s) with
    | some f => endLoad f.1 f.2.1 f.2.2
    | none => if s.load.slot = 2 then askShards else .when (s.running 1) (reserveModel askShards)]

/-! ### LOAD (R206 to R208) -/

/-- The lowest image region that no held model uses. -/
def freeRegion (s : State) : Nat := ([0, 1, 2].find? fun r => [0, 1, 2].all fun i => !(s.model i).held || (s.model i).region != r).getD 0

def clearSlot (slot : Nat) : Prog := .seq [.one (.model slot Model.none), .one (.blob (0xA010 + slot) (List.replicate 32 0))]

def loadWrite (slot : Nat) (digest : List Byte) (sources links : Nat) (k : Answer → Prog) : Prog :=
  .get fun s =>
    if slot > 2 then k (.refuse 4)
    else if s.load.op != 0 || (slot < 2 && (s.model slot).held) || [0, 1, 2].any (fun i => (s.model i).held && (s.model i).digest == digest) then k .busy
    else .seq [.when (slot = 2) (clearSlot 2), .get fun s =>
      .seq [.one (.load ⟨1, slot, sources, links, { Model.none with digest := digest, region := freeRegion s }, [], [], Option.none, []⟩), loadState 1, setReg 0xA005 0 0,
        wakeStacks, .when (s.running 0) (startXfer 0 digest 0 0), k .later]]

def execLoad (sid : Sid) (slot : Nat) (digest : BitVec 256) (sources : Nat) (links : BitVec 32) (s : State) : Host.Outcome State Fault Refusal :=
  (ownerCmd 0xA000 sid (fun _ => .done) (loadWrite slot (leBytes 32 digest.toNat) sources links.toNat)).run s

/-- M0 is back: a load starts again from step 1, one that waits for its start beat too (R208). -/
def restartLoad : Prog :=
  .get fun s =>
    let l := s.load
    .when (l.op = 1) (.seq [setImage fun i => { i with xfers := i.xfers.filter fun x => x.kind > 2 },
      undoLoad, setReg 0xA005 0 0, loadState 1,
      setLoad fun l => { l with cand := { Model.none with digest := l.cand.digest, region := l.cand.region }, verified := [], fields := [], start := Option.none, ready := [] },
      lowerStacks, startXfer 0 l.cand.digest 0 0])

/-! ### The pages of a choreography -/

/-- An empty directory, for which step 8 has found room, the hot-slot stacks, and the entries that tell of them (R154, R165). -/
def openDirectory (lead : Bool) : Prog :=
  .get fun s =>
    let m := s.srv lead
    let units := directoryBytes s m / 65536
    match s.poolFit poolDir units dirUnits with
    | none => .done
    | some start => .seq [takeRun poolDir start units, .one (.smZero (0x1800000 + 65536 * start) (65536 * units)),
      setServing fun v => { v with dirBase := AMap.put 0 v.dirBase (boolNat lead) (0x1800000 + 65536 * start) },
      .each (List.range (s.ways lead)) fun w => setStack lead w (List.range (hotSlots s lead w)),
      .when (!lead) (.seq [setReg 0x5400 0 (s.hWays m), setReg 0x5401 0 (s.hHotSlots m)])]

/-- Hot and cold pages of a choreography. -/
def hotCount (s : State) (lead : Bool) : Nat :=
  (List.range (s.frames lead)).countP fun f => (s.dir lead f).hot != 0xFFFF
def coldCount (s : State) (lead : Bool) : Nat := (List.range (s.frames lead)).countP fun f => (s.dir lead f).state == pgCold

def closeDirectory (lead : Bool) : Prog :=
  .get fun s =>
    let base := AMap.get 0 s.serving.dirBase (boolNat lead)
    .when (base != 0) (.seq [subReg 0x5402 (hotCount s lead), subReg 0x5403 (coldCount s lead), freeRun poolDir ((base - 0x1800000) / 65536),
      .one (.smZero base (directoryBytes s (s.srv lead))),
      setServing fun v => { v with dirBase := AMap.put 0 v.dirBase (boolNat lead) 0
                                   hotFree := v.hotFree.filter fun kv => kv.1 / 256 != boolNat lead
                                   loading := v.loading.filter fun kv => kv.1 / 2 ^ 20 != boolNat lead
                                   fullAt := v.fullAt.filter fun kv => kv.1 / 2 ^ 20 != boolNat lead }])

/-- The prefix tree is emptied. -/
def clearPrefix : Prog :=
  .seq [.one (.smZero 0x07800000 0x5100000), .one (.smZero rootChild 4), setReg 0x5410 0 0, setServing fun v => { v with flushing := [] }]

/-! ### A choreography stops (R214) -/

/-- No pass of a choreography is left. -/
def dropPasses (lead : Bool) : Prog :=
  .get fun s => .seq [.each (s.serving.passes.filter fun p => p.lead == lead) fun p => resetSlots p.pseq,
    setServing fun v => { v with
      attempts := v.attempts.filter fun a => !(v.passes ++ v.reissue).any fun p => p.pseq == a.1 && p.lead == lead
      passes := v.passes.filter fun p => p.lead != lead
      reissue := v.reissue.filter fun p => p.lead != lead
      wide := v.wide.filter fun w => w.1.lead != lead
      decided := v.decided.filter fun kv => kv.1 % 2 != boolNat lead }]

/-- Speculation ends for every request, KREQ and K become 0 (R214, R258); drafts that a verify pass already carries stay with it. -/
def endSpeculation : Prog :=
  .get fun s => .each s.entries fun e => .seq [setLf e (lfWord 0 0 (lfLow (s.lf e)) (lfRetry (s.lf e))),
    .when (!s.serving.passes.any fun p => p.entry == e && !p.lead && !p.drafts.isEmpty) (setReq e fun r => { r with drafts := [], draftsDone := false })]

/-- The figures of a model stop and everything it held is given back. -/
def stopModel (slot : Nat) : Prog :=
  .get fun s =>
    let m := s.model slot
    let lead := slot == 1
    let fs := s.hFields m
    .when m.held (.seq [
      .ups ((s.cores.filter fun kc => fs.contains (kc.1 / 1024)).map fun kc => .core kc.1 { kc.2 with run := .idle, held := none, heldBy := [], owes := false, owedCyc := 0, left := 0 }),
      .each (s.syncRecs m) fun o => .one (.object o.1 SyncObj.none), releaseGrant actModel slot,
      .each fs fun f => .when (s.fieldLive f) (setLimit (s.physField f) srcRamp 6),
      closeDirectory lead, dropPasses lead,
      if lead then .each s.entries fun e => setReq e fun r => { r with leadPages := [], leadResv := [], leadAt := 0 } else clearPrefix,
      clearSlot slot, lowerStacks,
      .get fun s => .when (slot = 0 && (s.model 1).held) (.seq [setGrant (ledgerKey actModel 1) (100 * s.hPeak (s.model 1)),
        .one (.model 1 { s.model 1 with grant := s.hPeak (s.model 1) })]), restPeriod])

/-- Every request of main ends with ABORTED_DEGRADED; its passes are gone, so that those that drain retire (R239, R403). -/
def abortMain : Prog :=
  .get fun s => .seq [.each s.entries abortEntry, dropPasses false, dropPasses true, .get fun s => .each s.entries retireIfDone]

/-! ### UNLOAD and SWAP (R207, R214, R215) -/

/-- From now on the model serves no new request; those that wait end. -/
def beginDrain (slot : Nat) : Prog :=
  .get fun s => .seq [.one (.model slot { s.model slot with draining := true }), loadState 6,
    if slot = 0 then .each (s.inState [stQueued]) fun e => endWaiting e 0x13 2 else endSpeculation]

def unloadWrite (slot : Nat) (k : Answer → Prog) : Prog :=
  .get fun s =>
    if slot > 2 then k (.refuse 4)
    else if s.load.op != 0 then k .busy
    else if !(s.model slot).held then k .ok
    else if slot = 2 then .seq [clearSlot 2, lowerStacks, k .ok]
    else .seq [setLoad fun l => { l with op := 2, slot := slot }, beginDrain slot, k .later]

def execUnload (sid : Sid) (slot : Nat) (s : State) : Host.Outcome State Fault Refusal :=
  (ownerCmd 0xA001 sid (fun _ => .done) fun k => served (unloadWrite slot k)).run s

/-- Nothing of a draining model is left. -/
def drained (s : State) (slot : Nat) : Bool :=
  if slot = 0 then s.entries.all fun e => s.est e == stRetired || s.est e == stFree
  else !(s.serving.passes ++ s.serving.reissue).any (·.lead)

/-- The resident lead stays with a new main: it is named, and step 13 passes. -/
def leadStays (s : State) (new : Model) : Bool :=
  (s.model 1).held && s.staged new.region 160 32 == (s.model 1).digest && (step13 ⟨s, 0, new, some (s.model 1)⟩).isNone

/-- The checks that a standby load skipped, the reservation, then the cores. -/
def checkSwap : Prog :=
  .get fun s => .seq [loadState 2, match standbySkips (loadCtx s) with
    | some f => endLoad f.1 f.2.1 f.2.2
    | none => .when (s.running 1) (reserveModel ((loadState 4).andThen distribute))]

/-- M1 is back: a load that waits for its reservation goes on. -/
def resumeReserve : Prog :=
  .get fun s => .when (s.reg 0xA003 = 2 && s.running 0) (if s.load.op = 1 then checkModel else if s.load.op = 3 then checkSwap else .done)

/-- The drain of a SWAP has ended: the checks that the standby load skipped, then distribution from its region. -/
def swapOn : Prog :=
  .get fun s =>
    let new := s.model 2
    .seq [stopModel 0, .when (!leadStays s new) (stopModel 1), setLoad fun l => { l with slot := 0, cand := new, verified := List.range (shardCount new.manifest) },
      checkSwap]

def swapWrite (k : Answer → Prog) : Prog :=
  .get fun s =>
    if s.load.op != 0 then k .busy
    else if !(s.model 2).held then k (.refuse 3)
    else .seq [setLoad fun l => { l with op := 3 }, if (s.model 0).held then beginDrain 0 else .done, k .later,
      .get fun s => .when (!(s.model 0).held && s.load.op = 3 && s.running 0) swapOn]

/-- M0 is back: a swap goes on where it stands; fields that were loaded stay loaded. -/
def resumeSwap : Prog :=
  .get fun s => .when (s.load.op = 3 && !(s.model 0).held)
    (if s.load.cand.digest.isEmpty then swapOn else if s.reg 0xA003 = 2 then checkSwap else distribute)

def execSwap (sid : Sid) (s : State) : Host.Outcome State Fault Refusal :=
  (ownerCmd 0xA002 sid (fun _ => .done) fun k => served (swapWrite k)).run s

/-! ### The start (R213, R254) -/

/-- Main starts at its edge only when the lead's phase 0 would fall on its own: a lead waits for main's phase 0. -/
def phaseOpen (s : State) (slot : Nat) : Bool :=
  let main := s.model 0
  slot != 1 || !main.running || (s.takenOf false + 1) % max 1 (s.hCadence main) == 0

/-- The edge at which a chosen start takes place: the first edge taken at or after the start beat. -/
def startEdge (s : State) : Option Nat :=
  match s.beat.sampled with
  | some d =>
    let due := match s.load.start with
      | some b => b ≤ d.edge
      | none => s.inGroup && s.groupMember != 0 && s.reg 0xA003 == 5 && d.edge % max 1 (s.hCadence s.load.cand) == 0
    if due && d.take && s.beat.hold == .none && phaseOpen s s.load.slot && (!s.inGroup || s.beat.group == some (d.edge, true)) then some d.edge else none
  | none => none

/-- The figures wait for edge E, tables load, the digest entry is written, and the command is answered. -/
def startModel (edge : Nat) : Prog :=
  .get fun s =>
    let l := s.load
    let slot := l.slot
    let lead := slot == 1
    let fs := s.hFields l.cand
    .seq [.one (.time (edgeTime s edge)),
      .when (l.op = 3) (clearSlot 2),
      .one (.model slot { l.cand with startBeat := edge, running := true, draining := false }),
      .one (.beat { s.beat with taken := AMap.put 0 s.beat.taken slot 0 }),
      .ups ((s.cores.filter fun kc => fs.contains (kc.1 / 1024) && kc.2.run == .loaded).map fun kc => .core kc.1 kc.2.started),
      .one (.blob (0xA010 + slot) l.cand.digest), setReg (0xA013 + slot) 0 edge,
      .when (!lead) (.seq [clearPrefix, setReg 0x5005 0 0]), openDirectory lead, restartSlots lead,
      .get fun s => .seq [loadTables (s.model slot), .when lead (.each s.entries fun e => setReq e fun r => { r with leadAt := 0 })],
      endLoad 0 0 0]

/-- MODEL_START: at the first edge taken from the start beat on. -/
def execModelStart (slot : Nat) (s : State) : Host.Outcome State Fault Refusal :=
  (if slot > 1 then (Prog.fault (.noSuchUnit slot))
   else .get fun s =>
    .when ((s.load.op = 1 || s.load.op = 3) && s.load.slot == slot && s.reg 0xA003 = 5)
      (match startEdge s with
        | some e => startModel e
        | none => .done)).run s

end Sys2Proof.Machine
end

