-- ==== Sys2Proof/Machine/Fetch.lean ====
section
/-! DEFINITION. What arrives on the image channel, and the limits of R211, R254 and R303. -/

namespace Sys2Proof.Machine

/-! ### Failed and missing objects (R211, R303) -/

/-- An object becomes missing. -/
def objectMissing (x : Xfer) : Prog :=
  if x.kind = 0 then endLoad 0x44 1 0xFFFFFFFF
  else if x.kind = 1 then endLoad 0x44 1 0xFFFFFFFE
  else if x.kind = 2 then endLoad 0x44 0 x.num
  else if x.kind = 3 then (if x.num < 2 ^ 20 then endTableLoad 0x44 0 else dropXfer x.xid)
  else (dropXfer x.xid).andThen (finishImage 0x5021 x.num 0x44)

/-- A copy that failed: the next source is asked, up to three times. -/
def badCopy (x : Xfer) : Prog := if x.failed + 1 ≥ 4 then objectMissing x else nextCopy x

/-! ### Whole objects -/

/-- A shard that this member keeps in its golden copy; member 0 of a group fetches the others only to pass them on (R213). -/
def State.keepsShard (s : State) (k : Nat) : Bool := bit (shMembers (shardEntry s.load.cand.manifest k)) (s.hMember s.load.cand)

/-- The bytes of a whole object. -/
def wholeBytes (s : State) (x : Xfer) : List Byte :=
  if x.kind = 0 then s.staged s.load.cand.region 0 x.len
  else if x.kind = 2 && s.keepsShard x.num then
    (let e := shardEntry s.load.cand.manifest x.num
     Mem.read s.hbm (hbmAddr (shPort e) (regionBase s.load.cand.region + shOff e)) x.len)
  else x.bytes

/-- The table that a fetch of R49 brings back. -/
def tableBack (key : Nat) (body : List Byte) : Prog :=
  (storeTable (key / 65536) (key % 65536) body).andThen
    (setTables fun t => { t with refetch := t.refetch.filter fun r => !(r.1 == key / 65536 && r.2.1 == key % 65536) })

/-- An object is whole: its digest decides, and what waits for it goes on. -/
def wholeObject (x : Xfer) : Prog :=
  .get fun s =>
    let b := wholeBytes s x
    let want := if x.kind = 2 then shDigest (shardEntry s.load.cand.manifest x.num) else x.digest
    if x.kind = 3 && x.num < 2 ^ 20 then tableArrived b
    else if x.kind = 4 then (dropXfer x.xid).andThen (importArrived x.num b)
    else if shake256 32 b != want then badCopy x
    else .seq [dropXfer x.xid,
      if x.kind = 0 then (setLoad fun l => { l with cand := { l.cand with blen := x.len } }).andThen (startXfer 1 (s.staged s.load.cand.region 24 32) 0 0)
      else if x.kind = 1 then (setLoad fun l => { l with cand := { l.cand with manifest := b } }).andThen checkModel
      else if x.kind = 2 then .seq [setLoad fun l => { l with verified := l.verified ++ [x.num] }, addReg 0xA005 0 1, afterShards]
      else tableBack (x.num - 2 ^ 20) b]

/-! ### DATA and NOTFOUND (R303) -/

/-- A live transfer, from one of its sources; those of the loader need M0 (R208, R312). -/
def withXfer (p : Path) (xid : Nat) (k : Xfer → Prog) : Prog :=
  .get fun s => match s.xfer xid with
    | some x => .when (s.fromSource x p && (x.kind > 2 || s.running 0)) (k x)
    | none => .done

/-- A message of the image channel comes in: on an Ethernet port as any frame does (R285), else over the chip link of a neighbour. -/
def imageIn (p : Path) (k : Prog) : Prog := if p.port ≤ 1 then arriving p.port (served k) else served k

/-- Stores what has arrived; bytes beyond what is sought are left out. -/
def takeData (x : Xfer) (off : Nat) (bytes : List Byte) : Prog :=
  .get fun s =>
    let bs := bytes.take (x.stop - off)
    let buffered := x.kind = 2 && !s.keepsShard x.num
    .seq [.when (!buffered) (storeData x off bs),
      setXfer { x.add s.now off bs with buf := if buffered then Mem.write x.buf off bs else (x.add s.now off bs).buf }, afterData x.xid wholeObject]

def execData (from_ : Path) (xid off : Nat) (bytes : List Byte) (s : State) : Host.Outcome State Fault Refusal :=
  (imageIn from_ <| withXfer from_ xid fun x => .when (bytes.length ≤ 8192 && off < x.stop) (takeData x off bytes)).run s

def execNotfound (from_ : Path) (xid : Nat) (s : State) : Host.Outcome State Fault Refusal := (imageIn from_ <| withXfer from_ xid badCopy).run s

/-! ### Time limits -/

/-- FETCH_RANGE_TIMEOUT: 20 ms after the last DATA. -/
def execFetchRangeTimeout (xid : Nat) (s : State) : Host.Outcome State Fault Refusal :=
  (Prog.get fun s => match s.xfer xid with
    | some x => .when (x.kind > 2 || s.running 0) (.seq [.one (.time (x.last + 20000000)), .get fun s => setXfer { x with last := s.now }, askMissing xid, sakEvents])
    | none => .done).run s

/-- The transfer of the loader whose first request is the oldest; of several, the lowest index. -/
def oldestXfer (s : State) : Option Xfer :=
  (s.image.xfers.filter fun x => x.kind ≤ 2).foldl (fun b x => match b with
    | none => some x
    | some y => if x.first < y.first || (x.first == y.first && x.num < y.num) then some x else b) none

/-- SHARD_TIMEOUT: 2 s after the first request of an object that the loader fetches. -/
def execShardTimeout (s : State) : Host.Outcome State Fault Refusal :=
  (Prog.get fun s => match oldestXfer s with
    | some x => .when (s.running 0) ((Prog.one (.time (x.first + 2000000000))).andThen (objectMissing x))
    | none => .done).run s

/-- A request names a table, by its SAMP or by that table's GRAMMAR or STOP. -/
def State.usesTable (s : State) (e kind id : Nat) : Bool :=
  let t := s.sampTable e
  if kind = 0 then s.samp e == id else if kind = 1 then tGrammar t == id else tStop t == id

/-- TABLE_REFETCH_TIMEOUT: no good copy within 2 s; the requests that use the table end, and it is no longer loaded (R49). -/
def execTableRefetchTimeout (kind id : Nat) (s : State) : Host.Outcome State Fault Refusal :=
  (served <| .get fun s => match s.tables.refetch.find? fun r => r.1 == kind && r.2.1 == id with
    | none => .done
    | some r => .seq [.one (.time (r.2.2 + 2000000000)), .each (s.entries.filter fun e => s.usesTable e kind id) abortEntry,
        setTables fun t => { t with refetch := t.refetch.filter fun q => !(q.1 == kind && q.2.1 == id)
                                    digests := AMap.put [] t.digests (tableKey kind id) []
                                    lens := AMap.put 0 t.lens (tableKey kind id) 0 },
        setImage fun i => { i with xfers := i.xfers.filter fun x => !(x.kind == 3 && x.num == 2 ^ 20 + tableKey kind id) },
        .one (.smZero (tableAddr kind id) (tableSize kind)),
        .get fun s => setReg 0x5502 0 (s.tables.digests.countP fun kv => kv.1 < 65536)]).run s

end Sys2Proof.Machine
end

