-- ==== Sys2Proof/Machine/Repair.lean ====
section
/-! DEFINITION. The repair map, repairs and the restoration of lost content (R21 to R23, R164, R390, R391, R395, R398 to R403). -/

namespace Sys2Proof.Machine

def setRepair (f : Repair → Repair) : Prog := .get fun s => .one (.repair (f s.repair))

/-! ### The map of a field (R22, R390, R399) -/

/-- A position of a key. -/
def keyPos (k : Nat) : Nat × Nat := (k / 32 % 32, k % 32)
/-- Dead positions of a physical field, in ascending prow, then pcol. -/
def deadOf (r : Repair) (p : Nat) : List (Nat × Nat) := (r.dead.filter fun kv => kv.2 && kv.1 / 1024 == p).map fun kv => keyPos kv.1

/-- The 576 logical positions (row, column). -/
def logicalPositions : List (Nat × Nat) := (List.range 576).map fun i => (i / 24, i % 24)

/-- No logical core of a field lies on one of some positions; the reach of R23 holds for every pair of skip vectors. -/
def mapAvoids (m : Repair) (f : Nat) (bad : List (Nat × Nat)) : Bool := logicalPositions.all fun rc => !bad.contains (mapCore m f rc.1 rc.2)

/-- A shift of one logical core off its position: by row if that row has no skip, else by column; with the kind (0 row, 1 column). -/
def shiftOff (m : Repair) (f prow pcol : Nat) (bad : List (Nat × Nat)) : Option (Repair × Nat) :=
  (unmapCore m f prow pcol).bind fun rc =>
    let byRow : Repair := { m with cs := AMap.put 24 m.cs (f * 32 + rc.1) rc.2 }
    let byCol : Repair := { m with rs := AMap.put 24 m.rs (f * 32 + pcol) rc.1 }
    if AMap.get 24 m.cs (f * 32 + rc.1) = 24 && mapAvoids byRow f bad then some (byRow, 0)
    else if AMap.get 24 m.rs (f * 32 + pcol) = 24 && mapAvoids byCol f bad then some (byCol, 1)
    else none

def noSkips (m : Repair) (f : Nat) : Repair := { m with cs := m.cs.filter fun kv => kv.1 / 32 != f, rs := m.rs.filter fun kv => kv.1 / 32 != f }

/-- Takes dead positions one after another (R390). -/
def buildGo (f : Nat) : List (Nat × Nat) → List (Nat × Nat) → Repair → Option Repair
  | [], _, m => some m
  | d :: ds, done, m =>
    if (unmapCore m f d.1 d.2).isNone then buildGo f ds (d :: done) m
    else match shiftOff m f d.1 d.2 (d :: done) with
      | some (m', _) => buildGo f ds (d :: done) m'
      | none => none

/-- The skips of logical field f at physical field p, built afresh; none when no map exists. -/
def buildField (m : Repair) (f p : Nat) : Option Repair := buildGo f (deadOf m p) [] (noSkips m f)

/-- A physical field that can hold a logical field. -/
def fieldUsable (r : Repair) (p : Nat) : Bool := !AMap.get false r.unusable p && !AMap.get false r.dark p

/-- Position of a field row. -/
def rowPos (row k : Nat) : Nat := row * 11 + k

/-- The spare of a field row is usable and unused. -/
def spareFree (r : Repair) (row : Nat) : Bool := AMap.get 10 r.fs row == 10 && fieldUsable r (rowPos row 10)

/-! ### What the map's entries read (R407) -/

/-- Publishes the spares left. -/
def publishSpares : Prog :=
  .get fun s => .ups ((List.range 80).flatMap (fun f => [
      .reg (regKey 0x4008 (f + 1)) (if s.fieldLive f then (List.range 24).countP fun r => AMap.get 24 s.repair.cs (f * 32 + r) == 24 else 0),
      .reg (regKey 0x4009 (f + 1)) (if s.fieldLive f then (List.range 25).countP fun j => AMap.get 24 s.repair.rs (f * 32 + j) == 24 else 0)]) ++
    (List.range 8).map fun row => .reg (regKey 0x400A (row + 1)) (boolNat (spareFree s.repair row)))

/-- The repair-map blob, which REPAIR_MAP gives (R391). -/
def repairMap (s : State) : List Byte :=
  let r := s.repair
  let fields := (List.range 88).flatMap fun p =>
    let st := if AMap.get false r.dark p then 2 else if AMap.get false r.unusable p then 1 else 0
    leBytes 1 st ++ leBytes 79 (((deadOf r p).map fun d => 2 ^ (25 * d.1 + d.2)).foldl (· + ·) 0) ++ leBytes 16 0
  let maps := (List.range 80).flatMap fun f =>
    (List.range 24).flatMap (fun i => leBytes 1 (AMap.get 24 r.cs (f * 32 + i))) ++
      (List.range 25).flatMap (fun j => leBytes 1 (AMap.get 24 r.rs (f * 32 + j))) ++ leBytes 3 0
  let body := (List.range 8).flatMap (fun row => leBytes 1 (AMap.get 10 r.fs row)) ++ fields ++ maps
  ascii "CRRM" ++ leBytes 2 1 ++ leBytes 1 Config.stepping ++ leBytes 1 0 ++ leBytes 4 12664 ++ leBytes 4 0 ++ shake256 32 body ++ body

/-! ### Restoration (R164, R395) -/

/-- The choreography whose cores a field holds: one that runs, or the one being distributed. -/
def State.fieldModel (s : State) (f : Nat) : Option (Model × Option Bool) :=
  match s.fieldSlot f with
  | some i => some (s.model i, some (i == 1))
  | none => if s.load.fields.contains f then some (s.load.cand, none) else none

/-- The rows of a page's slot on a core, in order (R156, R59). -/
def pageRows (s : State) (lead : Bool) (key f : Nat) : List Nat :=
  let a := kvConf s key
  (List.range (apRows a)).map fun i => handleRow ((s.core key).handle (sgPool a)) (s.slotOf lead f * apRows a + i)

/-- One page of a core is put back: from its frame, or by recomputation. -/
def restorePageOn (lead : Bool) (key f : Nat) : Prog :=
  .get fun s =>
    let d := s.dir lead f
    if (d.state == pgFull || d.state == pgLoading) && sealGood s lead key f then
      .seq [.each (pageRows s lead key f).zipIdx fun r => writeRow key r.1 (Mem.row s.hbm (frameAddr s key f / 64 + r.2)), addReg 0x5404 0 1]
    else recomputePage lead f

/-- The hot pages of a way. -/
def hotPages (s : State) (lead : Bool) (w : Nat) : List Nat := s.wayPages lead w fun d => d.state == pgOpen || d.state == pgFull || d.state == pgLoading

/-- The counters of every logical core that a repair of a field moved (R428). -/
def clearMoved (before : State) (f : Nat) : Prog :=
  .get fun s =>
    let keys := (List.range 576).map fun i => f * 1024 + i / 24 * 32 + i % 24
    .ups ((keys.filter fun key => before.physField f != s.physField f ||
      mapCore before.repair f (key / 32 % 32) (key % 32) != mapCore s.repair f (key / 32 % 32) (key % 32)).map fun key =>
    .core key { s.core key with perf := (s.core key).perf.moved (s.elapsed (s.physField f)) })

/-- A core loaded anew at another position: tables and rows as at the load, then its pages. -/
def reloadCore (key : Nat) : Prog :=
  .get fun s =>
    let bare : Core := { Core.fresh with perf := (s.core key).perf.moved (s.elapsed (s.physField (key / 1024))), tagAt := (s.core key).tagAt,
                                         tag := (s.core key).tag, samples := (s.core key).samples, seg := (s.core key).seg }
    match s.fieldModel (key / 1024) with
    | none => .seq [setCore key bare, .one (.spadAll key [])]
    | some (m, lead?) =>
      let c := match s.coreRec m key with
        | some r => startCore s m r bare
        | none => bare
      .seq [setCore key { c with pins := pinWord (modelPins s m) }, .one (.spadAll key (s.loadedRuns m key)),
        match lead? with
        | some lead => .get fun s => .when (stEnabled (s.core key).staging) (.each (hotPages s lead (stWay (s.core key).staging)) (restorePageOn lead key))
        | none => .done]

/-- The page whose slot holds a row of a core, and the row's place in the slot. -/
def pageOfRow (s : State) (lead : Bool) (key n : Nat) : Option (Nat × Nat) :=
  if !stEnabled (s.core key).staging then none
  else (hotPages s lead (stWay (s.core key).staging)).findSome? fun f => ((pageRows s lead key f).findIdx? (· == n)).map fun i => (f, i)

/-- One row with an uncorrectable error is put back from its source. -/
def restoreRow (key n : Nat) : Prog :=
  .get fun s => match s.fieldModel (key / 1024) with
    | none => writeRow key n 0
    | some (m, lead?) =>
      let plain := writeRow key n (s.loadedRow m key n)
      match lead? with
      | none => plain
      | some lead => match pageOfRow s lead key n with
        | none => plain
        | some (f, i) =>
          if (s.dir lead f).state == pgFull && sealGood s lead key f then writeRow key n (Mem.row s.hbm (frameAddr s key f / 64 + i))
          else (writeRow key n 0).andThen (recomputePage lead f)

/-- Every row of a core that holds an uncorrectable word. -/
def badRows (c : Core) : List Nat := ((c.ecc.filter fun e => e.2 == some true).map fun e => e.1 / 8).eraseDups

/-! ### A choreography that cannot run on (R280, R403) -/

/-- Ends a choreography without drain; a main takes its lead with it, and a drain of it is over. -/
def unloadNow (slot : Nat) : Prog :=
  .get fun s => .when (s.model slot).held (.seq [
    if slot = 0 then .seq [abortMain, stopModel 0, stopModel 1] else .seq [endSpeculation, stopModel 1],
    .get fun s => .when (s.load.op = 2 && (s.load.slot = slot || slot = 0)) (endLoad 0 0 0),
    .get fun s => .when (s.load.op = 3 && slot = 0 && !(s.model 0).held && s.reg 0xA003 = 6) swapOn])

/-- The group breaks: M5 tells the other members, requests end, figures stop, all slots are unloaded (R280).  DESIGN CHOICE: the members learn of it by a firmware message; the spec does not say how. -/
def breakGroup : Prog :=
  .get fun s => .when s.inGroup (.seq [.each (otherMembers s) fun m => sendFirmware m 8 [s.groupMember], setReg 0x9005 0 4, unloadNow 0, unloadNow 1,
    .get fun s => .when (s.model 2).held ((clearSlot 2).andThen lowerStacks)])

/-- A choreography is unloaded, and in a group everything is. -/
def cannotRun (slot : Nat) : Prog := .get fun s => if s.inGroup then breakGroup else unloadNow slot

/-- A logical field becomes not live: cause 0 no repair, 1 lost field. -/
def fieldDies (f cause : Nat) : Prog :=
  .get fun s =>
    let named := [0, 1].filter fun i => (s.model i).held && bit (s.hFieldMask (s.model i)) f
    .seq [.when (s.fieldLive f) (setLimit (s.physField f) srcRamp 6), setReg 0x4007 (f + 1) 255, mlog 3 0x47 5 (leBytes 1 f ++ leBytes 1 cause),
      .when (s.reg 0x4000 = 1) (setReg 0x4000 0 2),
      .ups ((s.cores.filter fun kc => kc.1 / 1024 == f).map fun kc => .core kc.1 { kc.2 with run := .idle, held := none, heldBy := [] }),
      .each named cannotRun,
      .get fun s => .when ((s.load.op = 1 || s.load.op = 3) && s.load.slot < 2 && s.load.cand.blen != 0 && s.reg 0xA003 ≥ 3 && s.reg 0xA003 ≤ 5 &&
        bit (s.hFieldMask s.load.cand) f) (endLoad 0x43 9 f)]

/-! ### Repairs (R399 to R401) -/

def holdUs (s : State) : Nat := (s.waferTime - s.beat.holdSince) / 1000

def repaired (kind p prow pcol : Nat) : Prog :=
  .get fun s => .seq [addReg 0x400B (kind + 1) 1, mlog 3 0x44 3 (leBytes 1 kind ++ leBytes 1 p ++ leBytes 1 prow ++ leBytes 1 pcol ++ leBytes 4 (holdUs s))]

/-- M1 switches a field off, logic then array, and its price is released; while M1 does not run the field stays as it is (R312, R351, R401). -/
def powerOff (p : Nat) : Prog :=
  needM1 (.darken p) .done (.get fun s => .seq [.when (s.domain p != domIsolated) (setDomain p domOff),
    .when (s.domain (88 + p) != domIsolated) (setDomain (88 + p) domOff), releaseGrant actField p, releaseGrant actStep p])

/-- A physical field goes dark: its domains go OFF and its RAMP limit is 6 again (R366, R401). -/
def darken (p : Nat) : Prog :=
  .seq [setRepair fun r => { r with dark := AMap.put false r.dark p true }, powerOff p, setLimit p srcRamp 6]

/-- The RAMP limit of a field: free while a choreography names what it holds. -/
def settleRamp (f : Nat) : Prog :=
  .get fun s => setLimit (s.physField f) srcRamp (if (s.fieldModel f).isSome then 0 else 6)

/-- A receiving field runs at step 6 until M1 raises it. -/
def receiveField (p : Nat) : Prog :=
  .seq [setReg 0x3005 (p + 1) 6, setThermal fun t => { t with stepReq := AMap.put 0 t.stepReq p 0 }, settleStep p]

/-- Moves the logical fields of a row east of the dark position; the skips of each are built for its new position. -/
def moveFields (row k : Nat) : Prog :=
  .each ((List.range 10).filter (k ≤ ·)).reverse fun q => .get fun s =>
    let f := 10 * row + q
    let p := rowPos row (q + 1)
    if !s.fieldLive f && q != k then .done
    else match buildField s.repair f p with
      | some m => .seq [.one (.repair m), setReg 0x4007 (f + 1) p, clearMoved s f, settleRamp f, receiveField p]
      | none => .seq [setRepair fun m => noSkips m f, fieldDies f 0]

/-- A field shift: the logical field of dark position p is loaded anew at its eastern neighbour. -/
def fieldShift (f p prow pcol : Nat) : Prog :=
  .seq [darken p, setRepair fun r => { r with fs := AMap.put 10 r.fs (f / 10) (p % 11) }, moveFields (f / 10) (p % 11), writeExits,
    .get fun s => .when (s.fieldLive f) (.each (fieldKeys f) reloadCore), repaired 2 p prow pcol]

/-- A lost physical field, or one whose dead position no shift can take. -/
def shiftOrDie (f p prow pcol cause : Nat) : Prog :=
  .get fun s => if spareFree s.repair (f / 10) && p % 11 != 10 then fieldShift f p prow pcol else fieldDies f cause

/-- The repair of one dead position. -/
def repairPosition (key : Nat) : Prog :=
  .get fun s =>
    let p := key / 1024
    let d := keyPos key
    let waits := (s.repair.todo.filter (· / 1024 == p)).map keyPos
    match s.logicalField p with
    | none => .done
    | some f => match unmapCore s.repair f d.1 d.2 with
      | none => .done
      | some rc =>
        let bad := (deadOf s.repair p).filter fun x => x == d || !(waits.contains x && (unmapCore s.repair f x.1 x.2).isSome)
        match shiftOff s.repair f d.1 d.2 bad with
        | some (m, kind) => .seq [.one (.repair m), clearMoved s f, repaired kind p d.1 d.2, reloadCore (f * 1024 + rc.1 * 32 + rc.2)]
        | none => shiftOrDie f p d.1 d.2 0

/-- The repair of a lost field. -/
def repairLost (p : Nat) : Prog :=
  .get fun s => .seq [setRepair fun r => { r with unusable := AMap.put false r.unusable p true },
    match s.logicalField p with
    | none => .done
    | some f => shiftOrDie f p 31 31 1]

/-- Every repair that waits: lost fields, then dead positions in the order found. -/
def repairAll : Prog :=
  .get fun s =>
    .seq [.each s.repair.lost fun p => (setRepair fun r => { r with lost := r.lost.filter (· != p) }).andThen (repairLost p),
      .each s.repair.todo fun k => (setRepair fun r => { r with todo := r.todo.filter (· != k) }).andThen (repairPosition k),
      publishSpares]

/-- A position is dead from now on; it waits for its repair. -/
def killPosition (key : Nat) : Prog :=
  .get fun s => .when (!AMap.get false s.repair.dead key)
    (setRepair fun r => { r with dead := AMap.put false r.dead key true, todo := r.todo ++ [key] })

/-- The physical position of a logical core. -/
def State.position (s : State) (key : Nat) : Nat :=
  let d := mapCore s.repair (key / 1024) (key / 32 % 32) (key % 32)
  posKey (s.physField (key / 1024)) d.1 d.2

end Sys2Proof.Machine
end

