-- ==== Sys2Proof/Machine/Holds.lean ====
section
/-! DEFINITION. The handling of a wafer hold and the resume edge (R34, R39, R74, R139, R161, R394, R396 to R398, R405, R407). -/

namespace Sys2Proof.Machine

/-! ### Voids (R394, R397, R398) -/

def dayNs : Nat := 86400000000000

/-- An uncorrectable error of a position: its third within 24 h of its first fences it, else its rows are put back. -/
def handleEcc (key : Nat) : Prog :=
  .get fun s =>
    let pos := s.position key
    let t := (s.core key).faultAt
    let times := (AMap.get [] s.repair.errors pos ++ [t]).reverse.take 3 |>.reverse
    let fence := times.length = 3 && t - times.headD t ≤ dayNs
    .seq [setRepair fun r => { r with errors := AMap.put [] r.errors pos times },
      if fence then .seq [addReg 0x400E 0 1, mlog 3 0x45 4 (leBytes 1 (pos / 1024) ++ leBytes 1 (keyPos pos).1 ++ leBytes 1 (keyPos pos).2), killPosition pos]
      else .each (badRows (s.core key)) (restoreRow key)]

/-- The request of a pass that voids again ends; so does the choreography when three have ended at one place within 1 s (R397). -/
def endFaulty (p : Pass) (place cause : Nat) : Prog :=
  .get fun s =>
    let now := s.us
    let recent := (s.serving.faults.filter fun x => x.1 == place && now ≤ x.2.1 + 1000000 && x.2.2 != p.entry) ++ [(place, now, p.entry)]
    .seq [abortEntry p.entry, mlog 3 0x48 4 (s.rid p.entry ++ locBytes place ++ leBytes 1 cause),
      setServing fun v => { v with faults := (v.faults.filter fun x => x.1 != place && now ≤ x.2.1 + 1000000) ++ recent },
      .when (3 ≤ recent.length) (cannotRun (boolNat p.lead))]

/-- A pass that voided: the same cause at the same place for the second time ends its request. -/
def blamePass (p : Pass) (place cause mark : Nat) : Prog :=
  if p.voided = some (cause, mark) then endFaulty p place cause else setPass p.pseq fun q => { q with voided := some (cause, mark) }

/-- A figure fault of a core falls on the oldest pass of its choreography; with none in flight an idle pass has voided, which is marked with the time of its hold.  DESIGN CHOICE (log 182): an idle pass leaves no trace of its end, so the re-issue that R397 speaks of is any idle pass up to the next hold. -/
def handleFault (key cause : Nat) : Prog :=
  .get fun s => match s.fieldSlot (key / 1024) with
    | none => .done
    | some i =>
      match s.serving.passes.find? fun p => p.lead == (i == 1) && !p.dropped && !p.delivered with
      | some p => blamePass p key cause key
      | none =>
        let mark := s.beat.holdSince + 1
        if s.serving.voids.any fun v => v.1 == key && v.2.1 == cause && v.2.2.1 == 0 && v.2.2.2 != mark then cannotRun i
        else setServing fun v => { v with voids := v.voids ++ [(key, cause, 0, mark)] }

/-- A void of one core is dealt with; the core stays stopped until the resume edge. -/
def handleVoid (key : Nat) : Prog :=
  .get fun s =>
    let code := (s.core key).faultCode
    .seq [if code = 1 then handleEcc key
      else if code = 0x0A then killPosition (s.position key)
      else handleFault key code,
      .get fun s => .when ((s.core key).run == .voided) (setCore key { s.core key with run := .stopped })]

/-- Candidate slots that went missing (R243, R397). -/
def handleMissing (v : Nat × Nat × Nat × Nat) : Prog :=
  .get fun s => match s.pass (v.2.2.1 - 1) with
    | some p => blamePass p v.1 v.2.1 (v.1 * 2 ^ 20 + v.2.2.2)
    | none => .done

/-! ### Passes (R394, R396) -/

/-- Every pass that has not been delivered is dropped, and kept in issue order to be issued again; those of an ended request are gone. -/
def dropAll : Prog :=
  .get fun s =>
    let ended (p : Pass) : Bool := cDiscard (s.ctrl p.entry) || cDone (s.ctrl p.entry)
    let again := s.serving.passes.filter fun p => !p.delivered && !p.dropped && !ended p
    let gone := s.serving.passes.filter fun p => !p.delivered && (p.dropped || ended p)
    .seq [.each s.serving.passes fun p => resetSlots p.pseq,
      setServing fun v => { v with passes := v.passes.filter (·.delivered), reissue := again.map (fun p => { p with lists := [], tokens := none, accepted := 0 }) ++ v.reissue },
      .each (gone.map (·.entry)).eraseDups fun e => (retireIfDone e).andThen (pauseIfDone e)]

/-! ### HOLD_COMPLETE -/

/-- The hold is complete: all packets that can be delivered are, complete reductions have been combined, and the staging engine of every live core has taken every record (R34, R161). -/
def holdSettled (s : State) : Bool :=
  netDelivered s && s.cores.all fun kc =>
    (kc.2.run == .voided && kc.2.faultCode == 0x0A) || !stEnabled kc.2.staging || kc.2.stagingRows < max 1 (stRows kc.2.staging)

/-- The reduction entries of a router that hold some contributions: when a hold is complete they are incomplete, for complete ones have been combined (R34). -/
def openReductions (c : Core) : List Nat := (c.parts.map fun kv => kv.1 / 8).eraseDups

/-- Incomplete reductions are discarded (R34), each counted by its field's hub (R422). -/
def dropReductions : Prog :=
  .get fun s => .each (s.cores.filter fun kc => !kc.2.parts.isEmpty) fun kc =>
    (setCore kc.1 { kc.2 with parts := [] }).andThen
      (.get fun s => hubEvent (s.physField (kc.1 / 1024)) 0x07 (openReductions kc.2).length)

/-- The resume beat: the first multiple of main's CADENCE at least 4 b after the release. -/
def resumeBeat (s : State) : Nat :=
  let n := ceilDiv s.waferTime s.period + 4
  if (s.model 0).running then nextMultiple n (s.hCadence (s.model 0)) else n

def setHold (h : HoldPhase) : Prog := .get fun s => .one (.beat { s.beat with hold := h })

/-- The hold is released; in a group member 0 waits for every other member and tells them the resume beat (R276). -/
def releaseHold : Prog :=
  .get fun s =>
    if !s.inGroup then setHold (.released (resumeBeat s))
    else if s.groupMember != 0 then (setHold .complete).andThen (.when (s.running 5) (sendFirmware 0 1 [s.groupMember]))
    else if (otherMembers s).all s.group.held.contains && s.running 5 then
      .seq [setHold (.released (resumeBeat s)), setGroup fun g => { g with held := [] }, .each (otherMembers s) fun m => sendFirmware m 2 [resumeBeat s]]
    else setHold .complete

/-- HOLD_COMPLETE: M3 handles the hold; `mismatch` names, in the order found, the cores whose tables read back wrong twice: each makes the position it stands at then dead, and the repair is done again (R394 step 5), so that a core may be named more than once. -/
def execHoldComplete (mismatch : List (Nat × Nat × Nat)) (s : State) : Host.Outcome State Fault Refusal :=
  (served <| .get fun s => .when (s.beat.hold == .requested && s.running 3 && holdSettled s)
    (.seq [dropReductions,
      .each (s.cores.filter fun kc => kc.2.run == .voided).reverse fun kc => handleVoid kc.1,
      .get fun s => .each (s.serving.voids.filter fun v => v.2.2.1 != 0) handleMissing,
      setServing fun v => { v with voids := v.voids.filter fun x => x.2.2.1 == 0 && x.2.2.2 == s.beat.holdSince + 1 },
      dropAll, repairAll,
      .each mismatch fun m => .get fun s => .when ((CoreId.mk m.1 m.2.1 m.2.2).valid && s.fieldLive m.1)
        ((killPosition (s.position (m.1 * 1024 + m.2.1 * 32 + m.2.2))).andThen repairAll),
      .when s.inGroup (.get fun s => .when (s.reg 0x9005 = 2) (setReg 0x9005 0 3)), releaseHold])).run s

/-! ### RESUME_EDGE (R139, R396) -/

/-- A resident choreography starts again at word 0: its cores, its sync objects, its count of taken beats. -/
def restartModel (slot : Nat) : Prog :=
  .get fun s =>
    let m := s.model slot
    let c := max 1 (s.hCadence m)
    .when m.running (.seq [
      .each (s.coreRecs m) fun r => .get fun s =>
        setCore r.key (startCore s m r (s.core r.key)).started,
      .each (s.syncRecs m) fun o => .one (.object o.1 o.2),
      .get fun s => .one (.beat { s.beat with taken := AMap.put 0 s.beat.taken slot (ceilDiv (AMap.get 0 s.beat.taken slot + 1) c * c) }),
      restartSlots (slot == 1)])

/-- The edge is the one that was named; on another member than 0 it is named by member 0's message. -/
def resumesAt (s : State) (edge : Nat) : Bool :=
  match s.beat.hold with
  | .released r => edge == r
  | .complete => s.inGroup && s.groupMember != 0 && decide (s.beat.last < edge)
  | _ => false

/-- The edge that ends the hold: the hubs' reports go first, then every figure restarts, packets that no core could take are gone, and the dropped passes are issued again first. -/
def resumeWafer (edge : Nat) : Prog :=
  .seq [sendReports, .one (.net []), restartModel 0, restartModel 1,
    .get fun s => takeEdgeProg edge ((liveFields s).map s.physField),
    .get fun s =>
      let n := s.serving.reissue.length
      let rec_ := (s.entries.map fun e => ((s.req e).recompute.map (·.2)).foldl (· + ·) 0).foldl (· + ·) 0
      .seq [.one (.beat { s.beat with hold := .none, last := edge, decided := max s.beat.decided edge, sampled := none, group := Option.none }),
        .when (s.reg 0x9005 = 3) (setReg 0x9005 0 2),
        .when (n > 0 || rec_ > 0) (.seq [addReg 0x400D 0 n, mlog 3 0x46 1 (leBytes 2 n ++ leBytes 4 rec_)]),
        distribute]]

/-- RESUME_EDGE: the wafer resumes at the edge that was named; an edge whose reports the escalation ring cannot take is withheld (R48), and the next one resumes; in a group this member holds again and reports it (log 180). -/
def execResumeEdge (edge : Nat) (s : State) : Host.Outcome State Fault Refusal :=
  (served <| .get fun s => .when (resumesAt s edge) ((Prog.one (.time (edgeTime s edge))).andThen (
    if reportsFit s then resumeWafer edge
    else (countSlip edge []).andThen (setHold (if s.inGroup then .requested else .released (edge + 1)))))).run s

/-! ### HOLD_COMPLETE_REPORT (R276) -/

/-- M5 is back: a hold that is complete is reported, or released. -/
def releaseWaiting : Prog := .get fun s => .when (s.inGroup && s.beat.hold == .complete) releaseHold

/-- HOLD_COMPLETE_REPORT: a member's hold is complete; while M5 restarts the report waits in its mailbox (R312). -/
def execHoldCompleteReport (m : Nat) (s : State) : Host.Outcome State Fault Refusal :=
  (if m ≥ 8 then (Prog.fault (.noSuchUnit m))
   else .get fun s => .when (s.inGroup && s.groupMember == 0 && m != 0 && m < s.groupSize)
    (.seq [setGroup fun g => { g with held := if g.held.contains m then g.held else g.held ++ [m] },
      .get fun s => .when (s.beat.hold == .complete) releaseHold])).run s

end Sys2Proof.Machine
end

