-- ==== Sys2Proof/Machine/Links.lean ====
section
/-! DEFINITION. Chip links: packets, frames, retry, failure and bring-up (R261 to R269, R278, R279). -/

namespace Sys2Proof.Machine

def State.link (s : State) (l : Nat) : Link := AMap.get Link.reset s.group.links l

def lkOff : Nat := 0
def lkTraining : Nat := 1
def lkUp : Nat := 2
def lkSlow : Nat := 3
def lkOffset : Nat := 4
def lkMiswired : Nat := 5
def lkDown : Nat := 6
def lkSpare : Nat := 7
def State.linkState (s : State) (l : Nat) : Nat := s.reg 0x9010 (l + 1)
def setLinkState (l v : Nat) : Prog := setReg 0x9010 (l + 1) v

/-- The link whose queue takes what is sent to an endpoint (R279). -/
def State.carrier (s : State) (l : Nat) : Nat := if (s.link l).via = 0 then l else (s.link l).via - 1

/-! ### LINK_PACKET_SEND (R262, R263) -/

def envType (e : Row) : Nat := rowField e 8 1
def envDmem (e : Row) : Nat := rowField e 9 1
def envSmem (e : Row) : Nat := rowField e 10 1
def envFlen (e : Row) : Nat := rowField e 11 1

/-- The header for the receiving wafer names a core or a tumbler core. -/
def envDest (h : Nat) : Bool :=
  (hdrField h < 80 && hdrRow h < 24 && hdrCol h < 24) || (hdrField h = 127 && 0x180 ≤ hdrEndpoint h && hdrEndpoint h ≤ 0x197)

/-- A packet that the port of link l accepts. -/
def linkAccepts (s : State) (l : Nat) (p : Packet) : Bool :=
  let e := p.flits.headD 0
  let h := rowField e 0 8
  if envType e = 2 then (srcEndpoint 0x180 ≤ p.src && p.src ≤ srcEndpoint 0x197) || p.src == srcFirmware
  else envType e == 1 && envFlen e == hdrLen p.h && linkAssigned s.groupSize l && envDmem e == linkPeer s.groupSize s.groupMember l &&
    envSmem e == s.groupMember && hdrKind h == 0 && hdrLen h + 1 == envFlen e && envDest h

def queueLink (l : Nat) (p : Packet) : Prog := .get fun s => setLink (s.carrier l) fun x => { x with queue := x.queue ++ [(s.now, p)] }

/-- LINK_PACKET_SEND: a packet at a link's endpoint joins its send queue, or is dropped, counted and logged. -/
def execLinkPacketSend (l : Nat) (p : PktSource) (s : State) : Host.Outcome State Fault Refusal :=
  (if l ≥ 32 then (Prog.fault (.noSuchUnit l))
   else takePacket p (fun q => hdrField q.h == 127 && hdrEndpoint q.h == 0x1A0 + l) fun q => .get fun s =>
    if linkAccepts s l q then queueLink l q else (addReg 0x9017 (l + 1) 1).andThen (appendOpen 5 openLinkDrop none)).run s

/-! ### A link goes DOWN (R267, R279) -/

/-- Links of the bundle of l. -/
def bundleOf (s : State) (l : Nat) : List Nat :=
  (List.range 32).filter fun k => linkAssigned s.groupSize k && linkPeer s.groupSize s.groupMember k == linkPeer s.groupSize s.groupMember l

/-- Moves a DOWN link's send queue and endpoint id to the lowest link UP of its bundle; with none the group breaks. -/
def remapLink (l : Nat) : Prog :=
  .get fun s => match (bundleOf s l).find? fun k => s.linkState k == lkUp with
    | none => breakGroup
    | some r => .seq [setLink r fun x => { x with queue := x.queue ++ (s.link l).queue },
        setLink l fun _ => { Link.reset with via := r + 1 },
        .each ((bundleOf s l).filter fun k => (s.link k).via == l + 1) fun k => setLink k fun x => { x with via := r + 1 }]

/-- A link port gives up: the failure is counted and logged; in a formed group a hold is raised, and M5 moves the link's traffic. -/
def linkFails (l : Nat) : Prog :=
  .get fun s => .when (s.linkState l == lkUp || s.linkState l == lkSpare) (.seq [setLinkState l lkDown, addReg 0x9018 0 1,
    mlog 5 (Config.logCode openLinkDown).toNat ((Config.logSev openLinkDown).toNat % 6) (Config.logPayload openLinkDown),
    .when s.inGroup (.seq [holdGroup 0x11, .when (s.running 5 && s.linkState l == lkUp) (remapLink l)])])

/-- LINK_DOWN: no correct frame has come for 1 us. -/
def execLinkDown (l : Nat) (s : State) : Host.Outcome State Fault Refusal :=
  (if l ≥ 32 then (Prog.fault (.noSuchUnit l))
   else .get fun s => .when (s.linkState l == lkUp || s.linkState l == lkSpare) ((Prog.one (.time ((s.link l).lastGood + 1000))).andThen (linkFails l))).run s

/-- M5 is back: the links that went DOWN meanwhile are moved. -/
def remapWaiting : Prog :=
  .get fun s => .each ((List.range 32).filter fun l => s.inGroup && linkAssigned s.groupSize l && s.linkState l == lkDown && (s.link l).via == 0) fun l =>
    .get fun s => .when s.inGroup (remapLink l)

/-! ### LINK_FRAME (R261, R264, R265, R274) -/

/-- One retry of a link; more than 1 000 within 1 ms end it. -/
def linkRetry (l : Nat) : Prog :=
  .get fun s =>
    let times := ((s.link l).retries.filter fun t => t + 1000000 > s.now) ++ [s.now]
    .seq [addReg 0x9016 (l + 1) 1, setLink l fun x => { x with retries := times }, .when (times.length > 1000) (linkFails l)]

/-- A frame that is not taken: NAK is set; the eighth failure of one SEQ ends the link. -/
def badFrame (l : Nat) (same : Bool) : Prog :=
  .get fun s =>
    let x := s.link l
    let n := if !x.nak then 1 else if same then x.naks + 1 else x.naks
    .seq [setLink l fun y => { y with nak := true, naks := n }, .when (!x.nak || same) (linkRetry l), .when (n ≥ 8) (linkFails l)]

/-- Frames through `ack` are acknowledged; a NAK asks for the rest again, from ACK + 1.  The eighth NAK in a row of one SEQ ends the link at the sender too; the frames with NAK set that come before a replay has been sent are one NAK (DEDUCED). -/
def takeAck (l ack : Nat) (nak : Bool) : Prog :=
  .get fun s =>
    let x := s.link l
    let left := match x.buffer.findIdx? fun b => b.1 == ack with
      | some i => x.buffer.drop (i + 1)
      | none => x.buffer
    let want := (ack + 1) % 512 + 1
    let n := if x.asked = want then x.askedTimes + 1 else 1
    if !nak then setLink l fun y => { y with buffer := left, asked := 0, askedTimes := 0 }
    else if x.asked != want || x.replay.isEmpty then
      .seq [setLink l fun y => { y with buffer := left, asked := want, askedTimes := n, replay := left }, linkRetry l, .when (n ≥ 8) (linkFails l)]
    else setLink l fun y => { y with buffer := left }

/-- The beat number whose low 17 bits a sync word gives, nearest to the last candidate decided. -/
def syncEdge (decided e : Nat) : Nat :=
  let b := decided - decided % 2 ^ 17 + e
  if b ≥ decided + 2 ^ 16 ∧ b ≥ 2 ^ 17 then b - 2 ^ 17 else if b + 2 ^ 16 ≤ decided then b + 2 ^ 17 else b

/-- The sync word of a frame. -/
def takeSync (l c : Nat) : Prog :=
  .get fun s => .when (bit c 20 && s.inGroup && linkAssigned s.groupSize l)
    (let w := (syncEdge s.beat.decided (bits c 16 0), bit c 19, bit c 18)
     let m := linkPeer s.groupSize s.groupMember l
     setGroup fun g => { g with sync := AMap.put (0, false, false) g.sync m w })

/-- What has arrived of the stream: the slots of a packet that is not whole yet, those of a firmware message, and the packets that are. -/
abbrev Stream := List Row × List Row × List (List Row)

/-- One slot of the stream.  A firmware message with data slots is opened by its envelope and goes on in the last slot of later frames. -/
def takeSlotOf (st : Stream) (x : Row) : Stream :=
  match st.1 with
  | [] => if envType x = 0 then st else if envFlen x = 0 then ([], st.2.1, st.2.2 ++ [[x]]) else if envType x = 2 then ([], [x], st.2.2) else ([x], st.2)
  | e :: _ => if st.1.length = envFlen e then ([], st.2.1, st.2.2 ++ [st.1 ++ [x]]) else (st.1 ++ [x], st.2)

/-- The next slot of an open firmware message. -/
def takeFwSlot (st : Stream) (x : Row) : Stream :=
  if st.2.1.length = envFlen (st.2.1.headD 0) then (st.1, [], st.2.2 ++ [st.2.1 ++ [x]]) else (st.1, st.2.1 ++ [x], st.2.2)

/-- The slots of a frame. -/
def takeSlots (st : Stream) (slots : List Row) : Stream :=
  if st.2.1.isEmpty || slots.length < 20 then slots.foldl takeSlotOf st else takeFwSlot ((slots.take 19).foldl takeSlotOf st) (slots.getD 19 0)

/-- Member 0 has aborted the start or tells of a wide pass or of a pause, or a member says that the group is broken (R143, R235, R276, R280). -/
def takeOrder (kind : Nat) (args : List Nat) : Prog :=
  let arg := args.headD 0
  .get fun s => .when s.inGroup (
    if kind = 8 then breakGroup
    else if kind = 9 then setServing fun v => { v with memberRungs := AMap.put [] (v.memberRungs.filter fun kv => arg < kv.1 + 1024) arg (args.drop 1) }
    else if kind = 10 then setServing fun v => { v with memberPaused := AMap.put [] v.memberPaused (arg % 16384) (args.drop 1) }
    else .when (kind = 6 && s.groupMember != 0 && (s.load.op = 1 || s.load.op = 3)) (endLoad 0x43 0x0B arg))

/-- The slots of a firmware message go to M5's mailbox (R264); member 0 puts an escalation record into its ring, where it waits for room (R48). -/
def takeFirmware (l : Nat) (slots : List Row) : Prog :=
  let e := slots.headD 0
  .get fun s => .seq [
    if s.running 5 then setMcores fun m => { m with mail := AMap.put [] m.mail 5 [], taken := AMap.put none m.taken 5 (some (32 + l, packRows slots)) }
    else setMcores fun m => { m with mail := AMap.put [] m.mail 5 (AMap.get [] m.mail 5 ++ [(32 + l, packRows slots)]) },
    match Config.firmwareRecord e with
    | some r => .when (s.inGroup && s.groupMember = 0)
        (.seq [setGroup fun g => { g with records := g.records ++ [leBytes 16 r.toNat] }, .get fun s => pushMembers s.group.records.length])
    | none => match Config.firmwareOrder slots with
      | some o => takeOrder o.1 (o.2.map (·.toNat))
      | none => .done]

/-- A whole link packet: a mesh packet enters the mesh at the link's entry. -/
def takeLinkPacket (l : Nat) (slots : List Row) : Prog :=
  let e := slots.headD 0
  if envType e = 1 then inject ⟨srcEndpoint (0x1A0 + l), BitVec.ofNat 64 (rowField e 0 8), slots.drop 1⟩
  else if envType e = 2 then takeFirmware l slots else .done

/-- The next frame in order. -/
def goodFrame (l : Nat) (slots : List Row) : Prog :=
  .get fun s =>
    let r := takeSlots ((s.link l).arriving, (s.link l).fwArriving, []) slots
    .seq [setLink l fun x => { x with rxSeq := (x.rxSeq + 1) % 512, nak := false, naks := 0, arriving := r.1, fwArriving := r.2.1 },
      .each r.2.2 (takeLinkPacket l)]

def isMesh (w : Nat × Packet) : Bool := envType (w.2.flits.headD 0) == 1

/-- Which packet that waits is sent next: once in a frame a firmware message that has waited 10 us, else mesh packets first; no second firmware message while one is open. -/
def nextToSend (now : Nat) (late : Bool) (fw : List Row) (q : List (Nat × Packet)) : Option Nat :=
  ((if late && fw.isEmpty then q.findIdx? fun w => !isMesh w && decide (w.1 + 10000 ≤ now) else none).or (q.findIdx? isMesh)).or
    (if fw.isEmpty && !q.isEmpty then some 0 else none)

/-- So many slots of the packets that wait (R264): slots, the rest of the mesh packet being sent, the rest of the firmware message, the packets left.  A mesh packet's slots stay together. -/
def fillFrame (now : Nat) : Nat → Bool → List Row → List Row → List (Nat × Packet) → List Row × List Row × List Row × List (Nat × Packet)
  | 0, _, rest, fw, q => ([], rest, fw, q)
  | n + 1, late, x :: rest, fw, q => let r := fillFrame now n late rest fw q; (x :: r.1, r.2)
  | n + 1, late, [], fw, q =>
    match (nextToSend now late fw q).bind fun i => q[i]?.map fun w => (i, w) with
    | some (i, w) =>
      let data := w.2.flits.drop 1
      let r := if isMesh w then fillFrame now n late data fw (q.eraseIdx i) else fillFrame now n false [] data (q.eraseIdx i)
      (w.2.flits.headD 0 :: r.1, r.2)
    | none => ([], [], fw, q)

def padSlots (n : Nat) (xs : List Row) : List Row := xs ++ List.replicate (n - xs.length) 0

/-- The slots of the next frame: while a firmware message is open, its next slot comes last (R264).  DESIGN CHOICE (log 181): so goes every firmware message of several slots; the spec does not say where in a frame its slot stands. -/
def nextSlots (now : Nat) (x : Link) : List Row × List Row × List Row × List (Nat × Packet) :=
  match x.fwSending with
  | [] => let r := fillFrame now 20 true x.sending [] x.queue; (padSlots 20 r.1, r.2)
  | y :: ys => let r := fillFrame now 19 false x.sending (y :: ys) x.queue; (padSlots 19 r.1 ++ [y], r.2.1, ys, r.2.2.2)

/-- The control field of a frame sent now (R261, R274). -/
def controlField (s : State) (l seq : Nat) : Nat :=
  let x := s.link l
  let e := s.beat.decided
  let sv := s.inGroup && s.linkState l == lkUp && e > 0 && s.waferTime < e * s.period
  seq % 512 * 2 ^ 31 + (x.rxSeq + 511) % 512 * 2 ^ 22 + boolNat x.nak * 2 ^ 21 +
    (if sv then 2 ^ 20 + boolNat s.beat.word.2.1 * 2 ^ 19 + boolNat s.beat.word.2.2 * 2 ^ 18 + e % 2 ^ 17 else 0)

/-- The port sends a frame for each it receives: one that is asked for again, idle slots while 128 wait for their acknowledgement, else new slots; every 40th is a maintenance frame without slots.  DESIGN CHOICE: a maintenance frame takes a SEQ and is replayed like any other. -/
def sendFrameOn (l : Nat) : Prog :=
  .get fun s =>
    let x := s.link l
    match x.replay with
    | f :: fs => setLink l fun y => { y with replay := fs, out := some (controlField s l f.1, f.2) }
    | [] =>
      if x.buffer.length ≥ 128 then setLink l fun y => { y with out := some (controlField s l (x.txSeq + 511), padSlots 20 []) }
      else
        let r := if x.frames % 40 = 39 then ([], x.sending, x.fwSending, x.queue)
          else if s.linkState l == lkUp then nextSlots s.now x else (padSlots 20 [], x.sending, x.fwSending, x.queue)
        setLink l fun y => { y with out := some (controlField s l x.txSeq, r.1), buffer := y.buffer ++ [(x.txSeq, r.1)]
                                    txSeq := (x.txSeq + 1) % 512, sending := r.2.1, fwSending := r.2.2.1, queue := r.2.2.2, frames := (x.frames + 1) % 40 }

def linkLive (s : State) (l : Nat) : Bool := s.linkState l == lkTraining || s.linkState l == lkUp || s.linkState l == lkSpare

/-- LINK_FRAME: the far end's next frame, and the frame sent after it. -/
def execLinkFrame (l : Nat) (f : Frame) (s : State) : Host.Outcome State Fault Refusal :=
  (if l ≥ 32 then (Prog.fault (.noSuchUnit l))
   else .get fun s => .when (linkLive s l) (
    let c := f.control.toNat
    let next := bits c 39 31 == (s.link l).rxSeq
    .seq [addReg 0x9015 (l + 1) f.corrected,
      if !f.good then badFrame l next
      else .seq [setLink l fun x => { x with lastGood := s.now }, takeAck l (bits c 30 22) (bit c 21), takeSync l c,
        .get fun s => .when (linkLive s l) (if next then goodFrame l f.slots else badFrame l false)],
      .get fun s => .when (linkLive s l) (sendFrameOn l)])).run s

/-! ### Power and bring-up (R268, R269) -/

/-- The domain of a pair goes off, and its grant is released, when both of its links are OFF. -/
def settlePair (p : Nat) : Prog :=
  .get fun s => .when (s.linkState (2 * p) == lkOff && s.linkState (2 * p + 1) == lkOff && AMap.get 0 s.power.grants (ledgerKey actLink p) != 0)
    ((releaseGrant actLink p).andThen (.when (s.domain (176 + p) != domIsolated) (setDomain (176 + p) domOff)))

/-- A link goes OFF; in a formed group its sibling goes on carrying its endpoint. -/
def linkOff (l : Nat) : Prog :=
  .get fun s => .seq [setLinkState l lkOff, setReg 0x9011 (l + 1) 0xFF, setLink l fun x => { Link.reset with via := if s.inGroup then x.via else 0 }, settlePair (l / 2)]

def trainLink (l : Nat) : Prog := .seq [setLinkState l lkTraining, setReg 0x9011 (l + 1) 0xFF, setLink l fun x => { Link.reset with via := x.via }]

/-- Powers the pairs of some links: all are granted, or the ledger refuses (R268, R277). -/
def powerLinks (ls : List Nat) (ok no : Prog) : Prog :=
  .get fun s =>
    let pairs := ((ls.map (· / 2)).eraseDups).filter fun p => AMap.get 0 s.power.grants (ledgerKey actLink p) == 0
    if pairs.isEmpty || s.fits (100 * pairs.length) then
      (Prog.each pairs fun p => (setGrant (ledgerKey actLink p) 100).andThen (setDomain (176 + p) domOn)).andThen ok
    else (refuseLedger 5 actLink (s.shortBy (100 * pairs.length))).andThen no

/-! ### LINK_RESTORE and LINK_ENABLE (R269, R279, R281) -/

/-- A SPARE link takes its queue and endpoint id back in one group hold. -/
def restoreTraffic (l : Nat) : Prog :=
  .get fun s =>
    let r := s.carrier l
    let own (w : Nat × Packet) : Bool := hdrField w.2.h == 127 && hdrEndpoint w.2.h == 0x1A0 + l
    .seq [.when s.inGroup (holdGroup 0x12), .when (r != l) (setLink r fun x => { x with queue := x.queue.filter fun p => !own p }),
      setLink l fun x => { x with via := 0, queue := if r = l then x.queue else (s.link r).queue.filter own }, setLinkState l lkUp]

/-- What M5 does, and what needs the ledger, waits while M5 or M1 does not run (R312). -/
def needM5 (w : GrantWait) (later p : Prog) : Prog :=
  .get fun s => if s.running 5 && s.running 1 then p else (setPower fun x => { x with waiting := x.waiting ++ [w] }).andThen later

def linkRestore (l : Nat) (k : Answer → Prog) : Prog :=
  if l ≥ 32 then k (.refuse 4)
  else needM5 (.linkRestore l) (k .later) <| .get fun s =>
    let st := s.linkState l
    if st = lkSpare then (restoreTraffic l).andThen (k .ok)
    else if st = lkSlow || st = lkOffset || st = lkMiswired || st = lkDown then powerLinks [l] ((trainLink l).andThen (k .ok)) ((linkOff l).andThen (k (.code 0x45)))
    else if st = lkTraining then k .busy else if st = lkOff then k (.refuse 3) else k .ok

def execLinkRestore (sid : Sid) (l : Nat) (s : State) : Host.Outcome State Fault Refusal :=
  (ownerCmdAt (cmdKey 0x9021 l) 0x9021 sid (fun _ => .done) fun k => featureOr 5 sid k (linkRestore l)).run s

/-- Write of LINK_ENABLE: links of the mask that are not UP come up, the others go off. -/
def linkEnableWrite (mask : Nat) (k : Answer → Prog) : Prog :=
  .get fun s =>
    if s.inGroup then k .busy
    else if s.groupSize != 1 then k (.refuse 3)
    else needM5 (.linkEnable mask) ((setReg 0x9020 0 mask).andThen (k .ok)) <|
      let up := (List.range 32).filter fun l => bit mask l && s.linkState l != lkUp && s.linkState l != lkTraining
      powerLinks up (.seq [setReg 0x9020 0 mask, .each up trainLink,
        .each ((List.range 32).filter fun l => !bit mask l && s.linkState l != lkOff) linkOff, k .ok]) (k (.code 0x45))

def execLinkEnable (sid : Sid) (mask : BitVec 32) (s : State) : Host.Outcome State Fault Refusal :=
  (ownerWrite sid (fun _ => .done) fun k => featureOr 5 sid k (linkEnableWrite mask.toNat)).run s

end Sys2Proof.Machine
end

