-- ==== Sys2Proof/Machine/Groups.lean ====
section
/-! DEFINITION. Groups of wafers: bring-up results, formation, joint edges and common starts (R268, R270, R273 to R277). -/

namespace Sys2Proof.Machine

/-! ### Formation (R277, R281) -/

def packGroup (reason peer link : Nat) : Nat := reason * 2 ^ 56 + peer % 256 * 2 ^ 48 + link % 256 * 2 ^ 40

def failGroup (reason peer link : Nat) : Prog :=
  .seq [setReg 0x9005 0 5, setReg 0x9006 0 (packGroup reason peer link), setGroup fun g => { g with formBy := none }]

/-- The links of this member to a peer. -/
def linksTo (s : State) (peer : Nat) : List Nat :=
  (List.range 32).filter fun l => linkAssigned s.groupSize l && linkPeer s.groupSize s.groupMember l == peer

/-- The first peer to which no link is UP. -/
def missingPeer (s : State) : Option Nat := (otherMembers s).find? fun j => !(linksTo s j).any fun l => s.linkState l == lkUp

/-- Every peer has a link UP: the group is formed where REF is locked; member 0 sends its wafer time for the next 1PPS edge, and another member takes it at that edge (R273). -/
def formIfReady : Prog :=
  .get fun s => .when (s.reg 0x9005 = 1 && (missingPeer s).isNone) <|
    if s.reg 0x3000 != 1 then failGroup 1 0xFF 0xFF
    else (.seq [.when (s.groupMember = 0) (.each (otherMembers s) fun m => sendFirmware m 7 [(s.waferTime / 1000000000 + 1) * 1000000000]),
      setReg 0x9005 0 2, setReg 0x9006 0 (packGroup 0 0xFF 0xFF), setGroup fun g => { g with formBy := none, align := s.groupMember != 0 }])

/-! ### LINK_BRINGUP_DONE (R268) -/

/-- What is wrong with a hello: another group (6), a member number claimed twice (7), another link (3). -/
def helloFault (s : State) (l : Nat) (b : Bringup) : Option Nat :=
  let g := s.groupSize
  let m := s.groupMember
  if b.groupId != s.reg 0x9002 || b.size != g then some 6
  else if b.peer == linkPeer g m l && b.far == linkFar g m l then none
  else if b.peer == m || s.group.hellos.any fun kv => kv.2 == b.peer + 1 && linkPeer g m kv.1 != linkPeer g m l then some 7 else some 3

/-- The state that the timed exchanges give (step 5). -/
def timedState (b : Bringup) : Nat :=
  if b.retryNs > 400 || b.syncNs > 100 then lkSlow else if b.offsetPs.natAbs > 5000 then lkOffset else if b.failedStep = 5 then lkSlow else lkUp

def keepTimes (l : Nat) (b : Bringup) : Prog :=
  .seq [setReg 0x9012 (l + 1) b.retryNs, setReg 0x9013 (l + 1) b.syncNs, setReg 0x9014 (l + 1) (twos 32 b.offsetPs)]

/-- A bring-up in a group, from its hello on. -/
def groupBringup (l : Nat) (b : Bringup) : Prog :=
  .get fun s => match helloFault s l b with
    | some reason => .seq [setLinkState l lkMiswired, .when (s.reg 0x9005 = 1) (failGroup reason b.peer l)]
    | none =>
      if b.failedStep = 4 then .seq [setLinkState l lkMiswired, .when (s.reg 0x9005 = 1) (failGroup 3 b.peer l)]
      else .seq [setReg 0x9011 (l + 1) (b.peer * 32 + b.far % bundleSize s.groupSize), setGroup fun g => { g with hellos := AMap.put 0 g.hellos l (b.peer + 1) },
        keepTimes l b, setLinkState l (if timedState b = lkUp && s.inGroup then lkSpare else timedState b), formIfReady]

/-- LINK_BRINGUP_DONE: a link in training, or one that M5 retrains in a formed group, whose pair domain is powered first; without a cable, or with a port that failed its self-test, it ends in DOWN (R327, R387). -/
def execLinkBringupDone (l : Nat) (b : Bringup) (s : State) : Host.Outcome State Fault Refusal :=
  (if l ≥ 32 then (Prog.fault (.noSuchUnit l))
   else .get fun s => .when (s.running 5 && (s.running 1 || AMap.get 0 s.power.grants (ledgerKey actLink (l / 2)) != 0) && (s.linkState l == lkTraining || (s.linkState l == lkDown && s.inGroup)))
    (if b.failedStep = 1 then linkOff l
     else powerLinks [l] (.get fun s =>
      if b.failedStep = 2 || b.failedStep = 3 || s.boot.report.badLinks.contains l || !bit (s.reg 0x1021) l then setLinkState l lkDown
      else (setLink l fun x => { x with lastGood := s.now }).andThen (if s.groupSize > 1 then groupBringup l b else (keepTimes l b).andThen (setLinkState l lkUp)))
      (linkOff l))).run s

/-! ### GROUP_FORM and GROUP_LEAVE (R277) -/

def slotTaken (s : State) : Bool := [0, 1, 2].any fun i => (s.model i).held

/-- Formation starts: the group's numbers, its links in training. -/
def startForming (id size m : Nat) : Prog :=
  .get fun s => .seq [.one (.group { Group.reset with formBy := some (s.now + 10000000000) }),
    setReg 0x9002 0 id, setReg 0x9003 0 size, setReg 0x9004 0 m, setReg 0x9005 0 1, setReg 0x9006 0 (packGroup 0 0xFF 0xFF),
    .each (List.range 32) fun l => if linkAssigned size l then trainLink l else linkOff l,
    .get fun s => .when (s.reg 0x3000 != 1) (failGroup 1 0xFF 0xFF)]

def groupForm (id size m : Nat) (k : Answer → Prog) : Prog :=
  .get fun s =>
    if id = 0 || !(size = 2 || size = 4 || size = 8) || m ≥ size then k (.refuse 4)
    else if slotTaken s || s.inGroup then k .busy
    else needM5 (.form id size m) (k .later) <| powerLinks ((List.range 32).filter (linkAssigned size)) ((startForming id size m).andThen (k .ok)) (k (.code 0x45))

def execGroupForm (sid : Sid) (id size member : Nat) (s : State) : Host.Outcome State Fault Refusal :=
  (ownerCmd 0x9000 sid (fun _ => .done) fun k => featureOr 5 sid k (groupForm id size member)).run s

/-- GROUP_FORM_TIMEOUT: 10 s after GROUP_FORM; the first peer without a link UP gives the reason. -/
def execGroupFormTimeout (s : State) : Host.Outcome State Fault Refusal :=
  (Prog.get fun s => match s.group.formBy, missingPeer s with
    | some t, some j => .when (s.reg 0x9005 = 1 && s.running 5) (
        let sts := (linksTo s j).map s.linkState
        (Prog.one (.time t)).andThen (failGroup (if sts.contains lkOffset then 4 else if sts.contains lkSlow then 5 else 2) j 0xFF))
    | _, _ => .done).run s

/-- The module is single again: every link OFF (R277, R281). -/
def leaveGroup : Prog :=
  .seq [.each (List.range 32) linkOff, setReg 0x9002 0 0, setReg 0x9003 0 1, setReg 0x9004 0 0, setReg 0x9005 0 0, setReg 0x9020 0 0, .one (.group Group.reset)]

/-- GROUP_LEAVE: M5 turns the links off (R281); while M5 or M1 does not run it waits (R312). -/
def groupLeave (k : Answer → Prog) : Prog := .get fun s => if slotTaken s then k .busy else needM5 .leave (k .later) (leaveGroup.andThen (k .ok))

def execGroupLeave (sid : Sid) (s : State) : Host.Outcome State Fault Refusal :=
  (ownerCmd 0x9001 sid (fun _ => .done) fun k => featureOr 5 sid k groupLeave).run s

/-! ### GROUP_EDGE_DECISION (R274, R275) -/

/-- An edge withheld only for a peer's field: a remote slip. -/
def remoteSlip (edge : Nat) : Prog := (slipAt edge 127 0 0).andThen (addReg 0x3047 0 1)

/-- The decision with no hold in force here: a missing sync word, after which the own words carry HOLD (R275), and a peer's HOLD begin a hold. -/
def decideEdge (edge : Nat) (d : Sampled) : Prog :=
  .get fun s =>
    let words := (otherMembers s).map fun j => AMap.get (0, false, false) s.group.sync j
    let settle (ok : Bool) (p : Prog) : Prog := p.andThen (.get fun s => .one (.beat { s.beat with group := some (edge, ok) }))
    if words.any fun w => w.1 != edge then settle false (.seq [addReg 0x9019 0 1, holdGroup 0x12, holdBeat edge,
      .get fun s => .one (.beat { s.beat with word := (s.beat.word.1, s.beat.word.2.1, true) })])
    else if words.any fun w => w.2.2 then settle false ((holdGroup 0x12).andThen (holdBeat edge))
    else if !d.take then settle false (ownSlip d)
    else if words.any fun w => !w.2.1 then settle false (remoteSlip edge)
    else settle true .done

def execGroupEdgeDecision (edge : Nat) (s : State) : Host.Outcome State Fault Refusal :=
  (Prog.get fun s => .when (s.inGroup && edge == s.beat.decided && s.beat.group.isNone)
    (match s.beat.sampled with
      | some d => .when (d.edge == edge) ((Prog.one (.time (edgeTime s edge - 50))).andThen (decideEdge edge d))
      | none => .one (.beat { s.beat with group := some (edge, false) }))).run s

/-! ### MEMBER_READY_REPORT (R276) -/

/-- MEMBER_READY_REPORT: a member is ready with its manifest, BEAT and CADENCE. -/
def execMemberReadyReport (m : Nat) (_main _lead manifest : BitVec 256) (beat cadence : Nat) (s : State) : Host.Outcome State Fault Refusal :=
  (if m ≥ 8 then (Prog.fault (.noSuchUnit m))
   else .get fun s => .when (s.inGroup && s.groupMember = 0 && m != 0 && m < s.groupSize && s.running 5 && (s.load.op = 1 || s.load.op = 3))
    ((setLoad fun l => { l with ready := (l.ready.filter fun r => r.1 != m) ++ [(m, manifest.toNat, beat, cadence)] }).andThen judgeReady)).run s

/-! ### PPS_EDGE (R273, R370) -/

/-- A member whose wafer time waits for member 0's takes it at the edge; edges are numbered on from it. -/
def alignTime (at_ : Nat) : Prog :=
  .seq [.one (.time at_), .get fun s => .one (.epoch (s.now - at_)), setGroup fun g => { g with align := false },
    .get fun s => let n := at_ / s.period
      .one (.beat { s.beat with last := n, decided := n, sampled := none, group := Option.none })]

/-- PPS_EDGE at a wafer time: the offset from a whole second, published, and logged once per excursion beyond 50 ns. -/
def execPpsEdge (at_ : Nat) (s : State) : Host.Outcome State Fault Refusal :=
  (Prog.get fun s =>
    let m := at_ % 1000000000
    let off : Int := if m ≥ 500000000 then (m : Int) - 1000000000 else m
    let out := off.natAbs > 50
    .seq [if s.group.align then alignTime at_ else .one (.time (s.epoch + at_)), setReg 0x3004 0 (twos 32 off), setThermal fun t => { t with ppsOut := out },
      .when (out && !s.thermal.ppsOut) (appendLog srcRoot 0x3E 3 (leBytes 4 (twos 32 off)))]).run s

end Sys2Proof.Machine
end

