-- ==== Sys2Proof/Machine/Thermal.lean ====
section
/-! DEFINITION. Margin monitors, diodes and throttling, coolant, rainflow counts, and the time references (R336, R337, R368 to R379). -/

namespace Sys2Proof.Machine

/-- Value of a finite F32 entry times n, rounded down; 0 for anything else. -/
def f32Scale (b n : Nat) : Int :=
  match Fmt.fp32.decode b with
  | .fin neg m e => sgn neg 1 * (if e ≥ 0 then (m * n * 2 ^ e.toNat : Nat) else (m * n / 2 ^ e.natAbs : Nat))
  | _ => 0

/-- A temperature in tenths of a degree as I16. -/
def deci (t : Int) : List Byte := leBytes 2 (twos 16 (t / 100))

/-! ### Margins (R368) -/

/-- The WARN and CRIT codes of a monitor, as the calibration state holds them (R368, R409). -/
def State.warnCode (s : State) (pf mon : Nat) : Int := f32Int (s.calValue gMargin (12 * pf + mon)).1
def State.critCode (s : State) (pf mon : Nat) : Int := f32Int (s.calValue gMargin (12 * pf + mon)).2

/-- MARGIN is set to one step slower than the effective step. -/
def marginSlow (p : Nat) : Prog := .get fun s => setLimit p srcMargin (min 6 (s.effective p + 1))

/-- MARGIN_WARN: a code at or below WARN in two consecutive beats. -/
def execMarginWarn (pf mon code : Nat) (s : State) : Host.Outcome State Fault Refusal :=
  (if pf ≥ 88 || mon ≥ 12 || code > 63 then (Prog.fault (.noSuchUnit pf))
   else .get fun s => .when ((code : Int) ≤ s.warnCode pf mon) <| .seq [marginSlow pf, addReg 0x3008 (pf + 1) 1,
    .get fun s => mlog 2 0x33 2 (leBytes 1 pf ++ leBytes 1 mon ++ leBytes 1 code ++ leBytes 1 (s.limit pf srcMargin)),
    .get fun s =>
      let ws := s.now :: (AMap.get [] s.thermal.warns pf).filter fun t => t + 3600000000000 > s.now
      let stick := ws.length ≥ 3 && !AMap.get false s.thermal.sticky pf
      .seq [.one (.thermal { s.thermal with warns := AMap.put [] s.thermal.warns pf ws, sticky := if stick then AMap.put false s.thermal.sticky pf true else s.thermal.sticky }),
        .when stick (mlog 2 0x34 3 (leBytes 1 pf ++ leBytes 1 (s.limit pf srcMargin)))]]).run s

/-- MARGIN_CRIT: a code at or below CRIT. -/
def execMarginCrit (pf mon code : Nat) (s : State) : Host.Outcome State Fault Refusal :=
  (if pf ≥ 88 || mon ≥ 12 || code > 63 then (Prog.fault (.noSuchUnit pf))
   else .get fun s => .when ((code : Int) ≤ s.critCode pf mon) (marginSlow pf)).run s

/-- The tick on which a field's MARGIN was last lowered. -/
def tkMargin (p : Nat) : Nat := 1000 + p

/-- MARGIN_RELEASE: 10 s without a warning lower MARGIN by one step, but for a field whose MARGIN stays. -/
def execMarginRelease (pf : Nat) (s : State) : Host.Outcome State Fault Refusal :=
  (if pf ≥ 88 then (Prog.fault (.noSuchUnit pf))
   else .get fun s =>
    let last := max ((AMap.get [] s.thermal.warns pf).headD 0) (AMap.get 0 s.ticks (tkMargin pf))
    .when (s.running 2 && !AMap.get false s.thermal.sticky pf && s.limit pf srcMargin > AMap.get 0 s.thermal.unsafeStep pf)
      (.seq [.one (.time (last + 10000000000)), .get fun s => .one (.tick (tkMargin pf) s.now),
        setLimit pf srcMargin (s.limit pf srcMargin - 1)])).run s

/-! ### Temperatures (R372, R373) -/

def sensorState (s : State) (d : Nat) : Nat := s.reg 0x3803 (d + 1)
def sensorTemp (s : State) (d : Nat) : Int := AMap.get 0 s.thermal.temps d

/-- Power of a field in mW from its two domain currents at the 6 V feed (R352). -/
def fieldMw (s : State) (p : Nat) : Nat := 6 * s.feedMa p

/-- The power estimate of a field's temperature in milli-degrees (R373). -/
def powerEstimate (s : State) (p : Nat) : Int :=
  let theta := s.reg 0x3894 (p + 1)
  s.thermal.inlet + (if theta = 0 then ((fieldMw s p / 5 : Nat) : Int) else f32Scale theta (fieldMw s p))

/-- Temperature of hot spot h of a field. -/
def hotSpot (s : State) (p h : Nat) : Int :=
  let ds := [4 * p + 2 * h, 4 * p + 2 * h + 1].filter fun d => sensorState s d != 2
  match ds with
  | [] => powerEstimate s p + 5000
  | [d] => max (sensorTemp s d) (powerEstimate s p)
  | d :: e :: _ => max (sensorTemp s d) (sensorTemp s e)

def fieldTemp (s : State) (p : Nat) : Int := max (hotSpot s p 0) (hotSpot s p 1)

/-- A diode becomes suspect; the third time within 24 h the worse of its pair is retired (R373). -/
def markSuspect (pair : Nat) : Prog :=
  .get fun s =>
    let a := 2 * pair
    let b := 2 * pair + 1
    let est := powerEstimate s (pair / 2)
    let worse := if (sensorTemp s a - est).natAbs ≥ (sensorTemp s b - est).natAbs then a else b
    let add (d : Nat) : List Nat := s.now :: (AMap.get [] s.thermal.suspects d).filter fun t => t + 86400000000000 > s.now
    .seq [setThermal fun t => { t with suspects := AMap.put [] (AMap.put [] t.suspects a (add a)) b (add b) },
      setReg 0x3803 (a + 1) 1, setReg 0x3803 (b + 1) 1,
      mlog 2 0x38 3 (leBytes 2 a ++ leBytes 2 b ++ deci (sensorTemp s a - sensorTemp s b)),
      .when ((add a).length ≥ 3 || (add b).length ≥ 3) (.seq [setReg 0x3803 (worse + 1) 2, setReg 0x3803 ((if worse = a then b else a) + 1) 0,
        mlog 2 0x39 3 (leBytes 2 worse)])]

/-- One hot spot's pair at a scan. -/
def judgePair (pair : Nat) : Prog :=
  .get fun s =>
    let a := 2 * pair
    let b := 2 * pair + 1
    if sensorState s a = 2 || sensorState s b = 2 then .done
    else
      let t := s.thermal
      if (sensorTemp s a - sensorTemp s b).natAbs > 4000 then
        let since := if AMap.get 0 t.apart pair = 0 then s.now + 1 else AMap.get 0 t.apart pair
        .seq [.one (.thermal { t with apart := AMap.put 0 t.apart pair since, close := AMap.put 0 t.close pair 0 }),
          .when (sensorState s a == 0 && s.now + 1 > since + 1000000000) (markSuspect pair)]
      else
        let since := if AMap.get 0 t.close pair = 0 then s.now + 1 else AMap.get 0 t.close pair
        .seq [.one (.thermal { t with apart := AMap.put 0 t.apart pair 0, close := AMap.put 0 t.close pair since }),
          .when (sensorState s a == 1 && s.now + 1 ≥ since + 60000000000)
            (.seq [setReg 0x3803 (a + 1) 0, setReg 0x3803 (b + 1) 0])]

def throttleC (s : State) : Int := 1000 * (s.reg 0x3802 : Int)

/-- A field at a scan: its published temperature, the alarm of R376, and how long it has been hot or cool (R375). -/
def judgeField (p : Nat) : Prog :=
  .get fun s =>
    let x := fieldTemp s p
    let t := s.thermal
    let hot := x ≥ throttleC s
    let cool := x < throttleC s - 5000
    let alarm := x ≥ 110000
    .seq [.one (.thermal { t with
        hotSince := AMap.put 0 t.hotSince p (if hot then (if AMap.get 0 t.hotSince p = 0 then s.now + 1 else AMap.get 0 t.hotSince p) else 0),
        coolSince := AMap.put 0 t.coolSince p (if cool then (if AMap.get 0 t.coolSince p = 0 then s.now + 1 else AMap.get 0 t.coolSince p) else 0),
        alarmed := AMap.put false t.alarmed p alarm }),
      setReg 0x3800 (p + 1) (f32Rat x 1000),
      .when alarm (setLimit p srcThermal 6),
      .when (alarm && !AMap.get false t.alarmed p) (mlog 2 0x36 4 (leBytes 1 p ++ deci x))]

/-- An edge diode at a scan (R376). -/
def judgeEdge (k : Nat) : Prog :=
  .get fun s =>
    let x := sensorTemp s (352 + k)
    .seq [setReg 0x3801 (k + 1) (f32Rat x 1000),
      setThermal fun t => { t with edgeHot := AMap.put false t.edgeHot k (decide (x ≥ 100000)) },
      .when (x ≥ 100000 && !AMap.get false s.thermal.edgeHot k) (mlog 2 0x3F 3 (leBytes 1 k ++ deci x))]

def gDiode : Nat := 2

/-- A field diode's temperature: its reading less its calibrated offset, in milli-degrees (R372, R409); an edge diode has no calibration item. -/
def diodeTemp (s : State) (r : Nat × Int) : Int := if r.1 < 352 then r.2 - f32Scale (s.calValue gDiode r.1).1 1000 else r.2

/-- DIODE_SCAN: readings of field diodes 0 to 351, made with the ideality in force, and, from 352 on, of the edge diodes. -/
def execDiodeScan (readings : List (Nat × Int)) (s : State) : Host.Outcome State Fault Refusal :=
  (periodic 2 tkDiode 100000 (.seq [
    .get fun s => setThermal fun t => { t with temps := (readings.filter fun r => r.1 < 396).foldl (fun m r => AMap.put 0 m r.1 (diodeTemp s r)) t.temps },
    .each (List.range 176) judgePair, .each (List.range 88) judgeField, .each (List.range 44) judgeEdge])).run s

/-! ### Throttling (R375) -/

/-- The least THERMAL that the cooling conditions in force allow (R378). -/
def coolingFloor (s : State) : Nat :=
  let c := s.reg 0x3890
  max (if bit c 1 then 2 else 0) (max (if bit c 3 then 4 else 0) (if bit c 4 then 6 else 0))

/-- Whether THERMAL of a field may rise. -/
def mayRise (s : State) (p : Nat) : Bool :=
  let x := fieldTemp s p
  let l := s.limit p srcThermal
  let h := AMap.get 0 s.thermal.hotSince p
  x ≥ throttleC s && l < 6 && (l == 0 || x ≥ throttleC s + 5000 || (h != 0 && s.now + 1 ≥ h + 1000000000))

def throttleRaise : Prog :=
  .get fun s =>
    match (List.range 88).filter (mayRise s) with
    | [] => .done
    | p :: ps =>
      let best := ps.foldl (fun b q => if fieldTemp s q > fieldTemp s b then q else b) p
      let n := s.limit best srcThermal + 1
      .seq [setLimit best srcThermal n, setThermal fun t => { t with hotSince := AMap.put 0 t.hotSince best (s.now + 1), coolSince := AMap.put 0 t.coolSince best 0 },
        addReg 0x3805 0 1, mlog 2 0x35 2 (leBytes 1 best ++ leBytes 1 n ++ deci (fieldTemp s best))]

def throttleLower (p : Nat) : Prog :=
  .get fun s =>
    let c := AMap.get 0 s.thermal.coolSince p
    .when (s.limit p srcThermal > coolingFloor s && c != 0 && s.now + 1 ≥ c + 100000000)
      (.seq [setLimit p srcThermal (s.limit p srcThermal - 1), setThermal fun t => { t with coolSince := AMap.put 0 t.coolSince p (s.now + 1) }])

def execThrottleEval (s : State) : Host.Outcome State Fault Refusal :=
  (periodic 2 tkThrottle 10000000 (throttleRaise.andThen (.each (List.range 88) throttleLower))).run s

/-! ### Coolant (R336, R337, R378) -/

/-- FLOW = K * sqrt dP in L/min as F32, rounded once from the exact root of K^2 * dP (dp in Pa). -/
def flowF32 (k dp : Nat) : Nat :=
  match Fmt.fp32.decode k with
  | .fin _ m e =>
    if m = 0 || dp = 0 then 0
    else
      let r := isqrt (m * m * dp * 2 ^ 120 / 1000)
      Fmt.fp32.round false r 1 (e - 60)
  | _ => 0

/-- The sensed condition of each bit of R378, but for 6 and 7, with the time it must last, in ns. -/
def rawCondition (s : State) (b : Nat) : Bool :=
  let t := s.thermal
  let flow := s.reg 0x3883
  let fmin := flowMin (s.reg 0x2000)
  if b = 0 then t.inlet > 40000
  else if b = 1 then t.inlet > 45000
  else if b = 2 then f32BelowMilli flow fmin
  else if b = 3 then f32BelowMilli flow (fmin / 2)
  else if b = 4 then f32BelowMilli flow 5000 || t.dp > 200000
  else t.outlet > 50000

def condTime (b : Nat) : Nat := [1000000000, 1000000000, 5000000000, 2000000000, 0, 1000000000, 0, 0].getD b 0

/-- COOLANT_READ: temperatures in milli-degrees C, differential pressure in Pa. -/
def execCoolantRead (inlet outlet : Int) (dp : Nat) (s : State) : Host.Outcome State Fault Refusal :=
  (periodic 2 tkCoolant 100000000 (.seq [
    setThermal fun t => { t with inlet := inlet, outlet := outlet, dp := dp },
    .get fun s => .ups [.reg (regKey 0x3880 0) (f32Rat inlet 1000), .reg (regKey 0x3881 0) (f32Rat outlet 1000),
      .reg (regKey 0x3882 0) (f32Rat dp 1000), .reg (regKey 0x3883 0) (flowF32 (s.reg 0x3884) dp)],
    .get fun s => setThermal fun t => { t with condSince := (List.range 6).foldl (fun m b =>
      AMap.put 0 m b (if rawCondition s b then (if AMap.get 0 m b = 0 then s.now + 1 else AMap.get 0 m b) else 0)) t.condSince }])).run s

/-- The mean of a list of integers. -/
def meanOf (xs : List Int) : Int := if xs.isEmpty then 0 else xs.foldl (· + ·) 0 / (xs.length : Int)

/-- The module's R_th and the fields' thetas over the last samples: uK/kW and uK/W. -/
def rthNow (s : State) : Int := meanOf (s.thermal.thetas.map (·.1))
def thetaNow (s : State) (p : Nat) : Int := meanOf (s.thermal.thetas.map fun x => x.2.getD p 0)

/-- One sample of the thermal resistances, taken while the field rails draw more than 5 kW. -/
def sampleRth : Prog :=
  .get fun s =>
    let total := (List.range 88).foldl (fun a p => a + fieldMw s p) 0
    if total ≤ 5000000 then .done
    else
      let temps := (List.range 88).map (fieldTemp s)
      let r := (meanOf temps - s.thermal.inlet) * 1000000000 / (total : Int)
      let th := (List.range 88).map fun p => if fieldMw s p = 0 then 0 else (temps.getD p 0 - s.thermal.inlet) * 1000000 / (fieldMw s p : Int)
      .seq [setThermal fun t => { t with thetas := ((r, th) :: t.thetas).take 60, baseline := if t.baseline < 600 then t.baseline + 1 else t.baseline },
        .get fun s => setReg 0x3891 0 (f32Rat (rthNow s) 1000000),
        .when (s.thermal.baseline == 599) (.get fun s =>
          .seq [setReg 0x3892 0 (f32Rat (rthNow s) 1000000), .each (List.range 88) fun p => setReg 0x3894 (p + 1) (f32Rat (thetaNow s p) 1000000),
            .each (AMap.get [] s.cmds 0x3893) fun _ => finishCmd 0x3893 0])]

/-- More than 15% above a baseline entry of micro-units. -/
def above15 (v : Int) (base : Nat) : Bool := base != 0 && v * 100 > 115 * f32Scale base 1000000

/-- Whether a condition holds now, the field it names (0xFF: none) and its measured value. -/
def condition (s : State) (b : Nat) : Bool × Nat × Nat :=
  if b = 6 then (above15 (rthNow s) (s.reg 0x3892), 0xFF, s.reg 0x3891)
  else if b = 7 then
    match (List.range 88).find? fun p => above15 (thetaNow s p) (s.reg 0x3894 (p + 1)) with
    | some p => (true, p, f32Rat (thetaNow s p) 1000000)
    | none => (false, 0xFF, 0)
  else
    let c := AMap.get 0 s.thermal.condSince b
    (rawCondition s b && c != 0 && s.now + 1 ≥ c + condTime b, 0xFF,
      if b ≤ 1 then s.reg 0x3880 else if b = 5 then s.reg 0x3881 else s.reg 0x3883)

def checkCondition (b : Nat) : Prog :=
  .get fun s =>
    let c := condition s b
    let inForce := bit (s.reg 0x3890) b
    let gone := AMap.get 0 s.thermal.condGone b
    if c.1 then
      .seq [setThermal fun t => { t with condGone := AMap.put 0 t.condGone b 0 },
        .when (!inForce) (.seq [setReg 0x3890 0 (s.reg 0x3890 + 2 ^ b), mlog 2 0x3A 3 (leBytes 1 b ++ leBytes 1 c.2.1 ++ leBytes 4 c.2.2)])]
    else if !inForce then .done
    else if gone = 0 then setThermal fun t => { t with condGone := AMap.put 0 t.condGone b (s.now + 1) }
    else .when (s.now + 1 ≥ gone + 60000000000)
      (.seq [setReg 0x3890 0 (s.reg 0x3890 - 2 ^ b), setThermal fun t => { t with condGone := AMap.put 0 t.condGone b 0 },
        mlog 2 0x3B 2 (leBytes 1 b)])

def execCoolingCheck (s : State) : Host.Outcome State Fault Refusal :=
  (periodic 2 tkCooling 1000000000 (.seq [sampleRth, .each (List.range 8) checkCondition,
    .get fun s => .each (List.range 88) fun p => .get fun s' => .when (s'.limit p srcThermal < coolingFloor s) (setLimit p srcThermal (coolingFloor s))])).run s

/-- COOLING_BASELINE: the baselines are captured again after 600 s of valid samples. -/
def coolingBaseline (k : Answer → Prog) : Prog := .seq [setThermal fun t => { t with baseline := 0 }, k .later]
def execCoolingBaseline (sid : Sid) (s : State) : Host.Outcome State Fault Refusal :=
  (ownerCmd 0x3893 sid (fun _ => .done) coolingBaseline).run s

/-! ### Rainflow (R377) -/

/-- Counts half cycles in a field's bin. -/
def countRange (p : Nat) (range : Int) (halves : Nat) : Prog :=
  addRegSat 0x3810 (16 * p + min 15 (range.natAbs / 5000) + 1) halves

/-- The three-point method on the confirmed turning points: closed ranges are counted and removed, newest last. -/
def rainflowGo (p : Nat) : Nat → List Int → Prog × List Int
  | 0, pts => (.done, pts)
  | n + 1, pts =>
    match pts.reverse with
    | c :: b :: a :: rest =>
      if (c - b).natAbs < (b - a).natAbs then (.done, pts)
      else if rest.isEmpty then
        let r := rainflowGo p n [b, c]
        ((countRange p (b - a) 1).andThen r.1, r.2)
      else
        let r := rainflowGo p n (rest.reverse ++ [c])
        ((countRange p (b - a) 2).andThen r.1, r.2)
    | _ => (.done, pts)

/-- A sample joins the turning points; the last point runs with the extremum, and reversals below 1 K are left out.  Gives the points and whether a turning point was confirmed. -/
def addSample (pts : List Int) (x : Int) : List Int × Bool :=
  match pts.reverse with
  | [] => ([x], false)
  | [l] => if (x - l).natAbs ≥ 1000 then ([l, x], false) else ([l], false)
  | l :: q :: rest =>
    if (l ≥ q && x ≥ l) || (l < q && x ≤ l) then ((x :: q :: rest).reverse, false)
    else if (x - l).natAbs ≥ 1000 then (pts ++ [x], true)
    else (pts, false)

def rainflowField (p : Nat) : Prog :=
  .get fun s =>
    let a := addSample (AMap.get [] s.thermal.residue p) (fieldTemp s p)
    let keep (pts : List Int) : Prog := setThermal fun t => { t with residue := AMap.put [] t.residue p (pts.drop (pts.length - 64)) }
    if a.2 then
      let r := rainflowGo p a.1.length a.1.dropLast
      .seq [r.1, keep (r.2 ++ [a.1.getLastD 0])]
    else keep a.1

def execRainflowSample (s : State) : Host.Outcome State Fault Refusal :=
  (periodic 2 tkRain 100000000 (.each (List.range 88) rainflowField)).run s

/-- RAINFLOW_LOAD: once per cold start, 1 408 counts are added (R377). -/
def rainflowLoad (counts : List Nat) (k : Answer → Prog) : Prog :=
  .get fun s =>
    if s.thermal.rainUsed then k (.refuse 3)
    else if counts.length != 1408 then k (.refuse 2)
    else .seq [setThermal fun t => { t with rainUsed := true }, .each counts.zipIdx fun c => addRegSat 0x3810 (c.2 + 1) (c.1 % 2 ^ 32), k .ok]
def execRainflowLoad (sid : Sid) (counts : List Nat) (s : State) : Host.Outcome State Fault Refusal :=
  (ownerCmd 0x3811 sid (fun _ => .done) (rainflowLoad counts)).run s

/-! ### Time references (R329, R370, R371) -/

/-- REF_DETECTED: input 0 REF10M, 1 REFPPS. -/
def execRefDetected (input : Nat) (s : State) : Host.Outcome State Fault Refusal :=
  (if input > 1 then (Prog.fault (.noSuchUnit input))
   else .get fun s => .seq [setInputBit input true,
    .when (input == 0 && s.reg 0x3000 != 1) (.seq [setReg 0x3000 0 1, appendLog srcRoot 0x3D 2 (leBytes 1 (s.reg 0x3000))])]).run s

end Sys2Proof.Machine
end

