-- ==== Sys2Proof/Machine/Calib.lean ====
section
/-! DEFINITION. Calibration and trimming, and the drains that a forced run needs (R214, R404, R408 to R418). -/

namespace Sys2Proof.Machine

/-! ### Forced drains (R404, R413) -/

/-- Resident choreographies that name one of some logical fields. -/
def naming (s : State) (fs : List Nat) : List Nat := [0, 1].filter fun i => (s.model i).held && (s.hFields (s.model i)).any fs.contains

/-- Drains those choreographies as UNLOAD does. -/
def forceDrain (slots : List Nat) : Prog :=
  (setLoad fun l => { l with op := 4, slot := slots.headD 0 }).andThen (.each slots beginDrain)

/-! ### Values (R408, R414) -/

def gVsense : Nat := 1
def gTimebase : Nat := 4
/-- Items of a group: domains, sense pairs, diodes, monitors and then the trims of the fields, the TCXO. -/
def calItems (g : Nat) : Nat := [220, 704, 352, 1144, 1].getD g 0
/-- The M-core that runs a group. -/
def calCore (g : Nat) : Nat := if g < 2 then 1 else 2

def setCalib (f : Calib → Calib) : Prog := .get fun s => .one (.calib (f s.calib))
/-- An item takes values; `p` tells which of the two are agreed now. -/
def putCal (g i p : Nat) (v : Nat × Nat) : Prog :=
  setCalib fun c => { c with values := AMap.put 0 c.values (calKey g i) (v.1 + v.2 * 2 ^ 32 + 1), parts := AMap.put 0 c.parts (calKey g i) (AMap.get 0 c.parts (calKey g i) ||| p) }

/-- The reference of a group is there (R412). -/
def hasRef (s : State) (g : Nat) : Bool := if g = gCurrent || g = gVsense then bit (s.reg 0x1020) 2 else if g = gTimebase then bit (s.reg 0x1020) 0 else true
def groupsOf (mask : Nat) : List Nat := (List.range 5).filter (bit mask)
def maskOf (gs : List Nat) : Nat := (gs.map (2 ^ ·)).foldl (· + ·) 0

/-! ### Repeat and agree (R411) -/

/-- Two numbers differ by at most n/d of a unit. -/
def within (a b : Nat) (n d : Nat) : Bool := match f32Scaled a, f32Scaled b with
  | some x, some y => (x - y).natAbs * d ≤ n * 2 ^ 149
  | _, _ => false
/-- Two numbers differ by at most 0.02% of the first. -/
def withinRel (a b : Nat) : Bool := match f32Scaled a, f32Scaled b with
  | some x, some y => (x - y).natAbs * 5000 ≤ x.natAbs
  | _, _ => false

/-- Whether the first, and the second, values of two runs of an item agree. -/
def calAgree (g i : Nat) (a b : Nat × Nat) : Bool × Bool :=
  if g = gCurrent then (withinRel a.1 b.1, within a.2 b.2 1 2)
  else if g = gVsense then (withinRel a.1 b.1, within a.2 b.2 (Config.senseLsb i).toNat 2000000)
  else if g = gDiode then (within a.1 b.1 3 10, withinRel a.2 b.2)
  else if g = gMargin then (a.1 == b.1, a.2 == b.2)
  else (within a.1 b.1 1 50, true)

/-- The mean of two numbers, to nearest. -/
def f32Mean (a b : Nat) : Nat := match f32Scaled a, f32Scaled b with
  | some x, some y => if x + y = 0 then 0 else Fmt.fp32.round (x + y < 0) (x + y).natAbs 1 (-150)
  | _, _ => a
def f32Diff (a b : Nat) : Nat := Fmt.fp32.sub a b

/-! ### The blob (R414) -/

def i8F32 (b : Nat) : Nat := f32Rat (if b ≥ 128 then (b : Int) - 256 else b) 1

/-- An item of a blob. -/
def blobItem (b : List Byte) (g i : Nat) : Nat × Nat :=
  let pair (o : Nat) : Nat × Nat := (field b o 4, field b (o + 4) 4)
  if g = gCurrent then pair (48 + 8 * i) else if g = gVsense then pair (1808 + 8 * i) else if g = gDiode then pair (7440 + 8 * i)
  else if g = gMargin then (if i < 1056 then (f32Rat (field b (10256 + 2 * i) 1) 1, f32Rat (field b (10257 + 2 * i) 1) 1) else (i8F32 (field b (12368 + i - 1056) 1), 0))
  else pair 12456

def pairBytes (v : Nat × Nat) : List Byte := leBytes 4 v.1 ++ leBytes 4 v.2
def i8Byte (x : Int) : List Byte := leBytes 1 (twos 8 x)

/-- CAL_SET. -/
def calSet (s : State) : List Byte :=
  let all (g n : Nat) (f : Nat × Nat → List Byte) : List Byte := (List.range n).flatMap fun i => f (s.calValue g i)
  let body := all gCurrent 220 pairBytes ++ all gVsense 704 pairBytes ++ all gDiode 352 pairBytes ++
    all gMargin 1056 (fun v => i8Byte (f32Int v.1) ++ i8Byte (f32Int v.2)) ++ ((List.range 88).flatMap fun p => i8Byte (s.trim p)) ++ pairBytes (s.calValue gTimebase 0)
  ascii "CRCA" ++ leBytes 2 1 ++ leBytes 1 (s.reg 0x1002) ++ leBytes 1 (s.reg 0x7005) ++ leBytes 4 12464 ++ leBytes 4 0 ++ shake256 32 body ++ body

/-- Header, length, stepping and digest of a blob. -/
def calBlobGood (s : State) (b : List Byte) : Bool :=
  b.length == 12464 && b.take 4 == ascii "CRCA" && field b 4 2 == 1 && field b 6 1 == s.reg 0x1002 && field b 8 4 == 12464 && field b 12 4 == 0 &&
    slice b 16 32 == shake256 32 (b.drop 48)

/-! ### A run (R410 to R415) -/

def actCal : Nat := 9

/-- How far the set point of a step must move for a voltage at which the test figure fails, in mV (R410). -/
def trimNeed (s : State) (vfail k : Nat) : Int := (vfail : Int) + 50 - (s.vset k : Int)
/-- The trim that failing voltages give: the greatest need, within 30 mV (R410). -/
def trimOf (s : State) (fails : List Nat) : Int :=
  max (-30) (min 30 ((fails.zipIdx.map fun v => trimNeed s v.1 v.2).foldl max (-30)))
/-- Steps that are not safe at the clamped trim (R410). -/
def unsafeSteps (s : State) (fails : List Nat) : List Nat := (fails.zipIdx.filter fun v => trimNeed s v.1 v.2 > 30).map (·.2)

/-- A quotient as F32.  Without a positive denominator (no difference between the codes) there is none, so that the two runs do not agree. -/
def f32Quot (n d : Int) : Nat := if d ≤ 0 then 0x7FC00000 else f32Rat n d.natAbs

/-- Gain and offset of a sense chain: I_CAL over the mean difference of the pairs of windows, and the shorted code (R409). -/
def senseChain (r : CalRun) : Nat × Nat :=
  let ws := r.windows.take 32
  (f32Quot ((r.ref * ws.length : Nat) : Int) (1000 * ws.foldl (· + ·) 0), f32Rat r.a 1000)

/-- Gain in V per code and offset in V of a sense pair: from its codes at the two bus voltages; the offset is the reading at the lower one extrapolated to zero (R409). -/
def sensePair (r : CalRun) : Nat × Nat :=
  let v := r.windows.getD 0 0
  let w := r.windows.getD 1 0
  (f32Quot (w - v) (1000 * (r.b - r.a)), f32Quot (r.a * (w - v) - v * (r.b - r.a)) (1000000 * (r.b - r.a)))

/-- The offset of a diode that stands at the coolant inlet temperature (R409). -/
def diodeOffset (s : State) (reading : Int) : Nat := f32Rat (reading - s.thermal.inlet) 1000

/-- What one run of an item comes to (R409, R410): of a monitor WARN and CRIT from the code at the failing voltage, of a field its trim, of the TCXO its offset in ppm from the count that 2 s of the 100 MHz grid make. -/
def measured (s : State) (g i : Nat) (r : CalRun) : Nat × Nat :=
  if g = gCurrent then senseChain r
  else if g = gVsense then sensePair r
  else if g = gDiode then (diodeOffset s r.a, f32Rat r.b 1000000)
  else if g = gMargin && i < 1056 then (f32Rat (r.a + 5) 1, f32Rat (r.a + 2) 1)
  else if g = gMargin then (f32Rat (trimOf s r.fails) 1, 0)
  else (f32Rat (r.a - 200000000) 200, f32Rat r.b 1000)

/-- A field's logic rail has power. -/
def State.powered (s : State) (p : Nat) : Bool := s.domain p == domOn || s.domain p == domRamp

/-- The offset of a diode can be measured only before its field is powered: in step 5 of a cold start, and for a restored set on fields without power; else a run leaves it (R409, R415). -/
def offsetKept (s : State) (it : CalItem) : Bool := it.group == gDiode && !(s.calib.mode == 2 && !s.powered (it.item / 4))

/-- What one measured item comes to (R411, R415): the restored value where the first run agrees with it, else the mean of two runs that agree, else the difference of the runs. -/
def judgeItem (s : State) (it : CalItem) : Except Nat (Nat × Nat) :=
  let hot := offsetKept s it
  let base := (s.calValue it.group it.item).1
  let own (v : Nat × Nat) : Nat × Nat := if hot then (base, v.2) else v
  let agree (x y : Nat × Nat) : Bool × Bool := let z := calAgree it.group it.item x y; (hot || z.1, z.2)
  let r := own (blobItem s.calib.restoring it.group it.item)
  let a := own (measured s it.group it.item it.run1)
  let b := own (measured s it.group it.item it.run2)
  let x := agree r a
  let y := agree a b
  if !s.calib.restoring.isEmpty && x.1 && x.2 then .ok r
  else if y.1 && y.2 then
    .ok (if it.group = gMargin then a else (if hot then base else f32Mean a.1 b.1, f32Mean a.2 b.2))
  else .error (if !y.1 then f32Diff a.1 b.1 else f32Diff a.2 b.2)

/-- The field of an item of MARGIN. -/
def marginField (i : Nat) : Nat := if i < 1056 then i / 12 else i - 1056

/-- The items of a run that are judged; a field that was isolated during a MARGIN run is skipped (R417). -/
def runItems (s : State) (g : Nat) (items : List CalItem) : List CalItem :=
  items.filter fun it => it.group == g && it.item < calItems g && bit s.calib.mask g && !(g == gMargin && s.domain (marginField it.item) == domIsolated)

/-- The set point of a field follows a new trim. -/
def applyTrim (p : Nat) : Prog := .get fun s => .when (p < 88 && AMap.get 0 s.thermal.setPoint p != 0)
  (setThermal fun t => { t with setPoint := AMap.put 0 t.setPoint p (s.fieldVset p (s.fieldStep p)) })

/-- A set point that is not safe at a step at the clamped trim: MARGIN stays one step slower until the next cold start (R410). -/
def holdMargin (p k : Nat) : Prog :=
  .when (p < 88) (.get fun s =>
    let v := min 6 (k + 1)
    .seq [setThermal fun t => { t with unsafeStep := AMap.put 0 t.unsafeStep p (max v (AMap.get 0 t.unsafeStep p)) }, setLimit p srcMargin (max v (s.limit p srcMargin)),
      mlog 2 0x34 3 (leBytes 1 p ++ leBytes 1 v)])

def takeItem (it : CalItem) : Prog :=
  .get fun s => match judgeItem s it with
    | .ok v => (putCal it.group it.item (if offsetKept s it then 2 else 3) v).andThen (.when (it.group = gMargin && 1056 ≤ it.item)
      ((applyTrim (it.item - 1056)).andThen (.each (unsafeSteps s it.run1.fails) (holdMargin (it.item - 1056)))))
    | .error d => mlog (calCore it.group) 0x4B 3 (leBytes 1 it.group ++ leBytes 2 it.item ++ leBytes 4 d)

def disagrees (s : State) (it : CalItem) : Bool := match judgeItem s it with
  | .ok _ => false
  | .error _ => true

def setMaskBit (idx g : Nat) (v : Bool) : Prog := .get fun s => setReg idx 0 (s.reg idx - bits (s.reg idx) g g * 2 ^ g + boolNat v * 2 ^ g)

/-- One group ends; a group whose reference went away has had no agreed run. -/
def endGroup (items : List CalItem) (g : Nat) : Prog :=
  .get fun s =>
    let its := runItems s g items
    let bad := its.countP (disagrees s)
    .seq [.each its takeItem, mlog (calCore g) 0x4A 2 (leBytes 1 g ++ leBytes 2 (its.length - bad) ++ leBytes 2 bad),
      .when (bad = 0 && !bit s.calib.lost g) (setCalib fun c => { c with agreed := AMap.put 0 c.agreed g (s.waferTime + 1) }),
      .get fun s => setMaskBit 0x7005 g ((List.range (calItems g)).all (s.calAgreed g)),
      .when (s.calib.mode = 1) (setMaskBit 0x7006 g false)]

/-- The command of a run is answered. -/
def answerCal (status : Nat) : Prog :=
  .get fun s => .seq [.when (!(AMap.get [] s.cmds 0x7001).isEmpty) (finishCmd 0x7001 status), .when (!(AMap.get [] s.cmds 0x7004).isEmpty) (finishCmd 0x7004 status)]

/-- A run ends with the items measured; those that were not measured before a reference went away keep their values (R417). -/
def endCal (items : List CalItem) : Prog :=
  .get fun s =>
    let gs := groupsOf s.calib.mask
    let bad := gs.flatMap fun g => (runItems s g items).filter (disagrees s)
    let status := if s.calib.lost != 0 || !bad.isEmpty then 0x46 else 0
    .seq [.each gs (endGroup items), addReg 0x7009 0 bad.length,
      setReg 0x7002 0 (status * 2 ^ 56 + ((bad.map (·.group)).headD 0) * 2 ^ 48 + bad.length % 2 ^ 16 * 2 ^ 32 + (bad.map (·.item)).headD 0),
      releaseGrant actCal 0, setCalib fun c => { c with mask := 0, mode := 0, restoring := [], lastRun := s.now, lost := 0 }, setReg 0x7000 0 0, answerCal status]

def startCal (mask mode : Nat) : Prog := (setCalib fun c => { c with mask := mask, mode := mode, waiting := 0, lost := 0 }).andThen (setReg 0x7000 0 1)

/-- The logical fields. -/
def allFields : List Nat := List.range 80

def calBusy (s : State) : Bool := s.calib.mask != 0 || s.calib.waiting != 0

/-- The calibration source, which CURRENT alone uses, is priced at 1 A(L) while it runs (R413). -/
def priceCal (mask : Nat) (ok no : Prog) : Prog :=
  if bit mask gCurrent then askGrant (calCore gCurrent) actCal 0 100 ok fun _ => no else ok

/-- A run begins at once, or ends with LEDGER_EXCEEDED; one that needs the source waits for M1. -/
def beginCal (w : GrantWait) (mask : Nat) (k : Answer → Prog) (go : Prog) : Prog :=
  let p := priceCal mask ((k .later).andThen go) (k (.code 0x45))
  if bit mask gCurrent then needM1 w (k .later) p else p

/-- CAL_RUN: MARGIN takes every field, with `force` after a drain of what names one. -/
def calRun (mask force : Nat) (k : Answer → Prog) : Prog :=
  .get fun s =>
    let named := naming s allFields
    if mask = 0 || mask ≥ 32 || force > 1 then k (.refuse 4)
    else if calBusy s then k .busy
    else if !(groupsOf mask).all (hasRef s) then k (.refuse 3)
    else if bit mask gMargin && !named.isEmpty then
      if force = 0 || s.load.op != 0 then k .busy
      else .seq [setCalib fun c => { c with waiting := mask }, setReg 0x7000 0 2, forceDrain named, k .later]
    else beginCal (.cal mask force) mask k (startCal mask 1)

/-- A run that waited for a drain begins (R413); if it needs the source while M1 does not run, when that returns. -/
def calWaited : Prog :=
  .get fun s => .when (s.calib.waiting != 0 && s.load.op != 4 && (s.running 1 || !bit s.calib.waiting gCurrent))
    (priceCal s.calib.waiting (startCal s.calib.waiting 1)
      (.seq [setCalib fun c => { c with waiting := 0 }, setReg 0x7000 0 0, finishCmd 0x7001 0x45]))

def execCalRun (sid : Sid) (mask force : Nat) (s : State) : Host.Outcome State Fault Refusal := (ownerCmd 0x7001 sid (fun _ => .done) (calRun mask force)).run s

/-- Every item of a group takes the blob's value. -/
def takeUnchecked (b : List Byte) (g : Nat) : Prog :=
  .seq [.each (List.range (calItems g)) fun i => putCal g i 3 (blobItem b g i), .each (List.range 88) applyTrim, setMaskBit 0x7006 g true, setMaskBit 0x7005 g true]

/-- The diode offsets of powered fields. -/
def takeOffsets (b : List Byte) : Prog := .each (List.range (calItems gDiode)) fun i => .get fun s =>
  .when (s.powered (i / 4)) (putCal gDiode i 1 ((blobItem b gDiode i).1, (s.calValue gDiode i).2))

/-- The groups of a blob that are checked run; the others are applied as they are. -/
def restoreRun (b : List Byte) (mode : Nat) : Prog :=
  .get fun s =>
    let gs := groupsOf (field b 7 1)
    .seq [setCalib fun c => { c with restoring := b }, .each (gs.filter fun g => !hasRef s g) (takeUnchecked b),
      .when (mode != 4 && gs.contains gDiode) (takeOffsets b), startCal (maskOf (gs.filter (hasRef s))) mode]

/-- CAL_RESTORE: kept for step 7 inside the assist window, else a run. -/
def calRestore (b : List Byte) (k : Answer → Prog) : Prog :=
  .get fun s =>
    let gs := groupsOf (field b 7 1)
    if !calBlobGood s b then k (.code 0x43)
    else if s.boot.assist.isSome then (setCalib fun c => { c with restoring := b }).andThen (k .later)
    else if calBusy s || (gs.contains gMargin && !(naming s allFields).isEmpty) then k .busy
    else beginCal (.calRestore b) (maskOf (gs.filter (hasRef s))) k (.seq [restoreRun b 2, .get fun s => .when (s.calib.mask = 0) (endCal [])])

def execCalRestore (sid : Sid) (blob : List Byte) (s : State) : Host.Outcome State Fault Refusal := (ownerCmd 0x7004 sid (fun _ => .done) (calRestore blob)).run s

/-- A run at the interval of the groups whose reference is there. -/
def calDue : Prog :=
  .get fun s =>
    let m := maskOf ([gCurrent, gVsense, gDiode, gTimebase].filter (hasRef s))
    .when (s.reg 0x7008 != 0 && !calBusy s && s.running 2 && s.reg 0x4002 = 0xFF && m != 0) (beginCal .calDue m (fun _ => .done) (startCal m 3))

/-- CAL_INTERVAL_EXPIRY: M1 and M2 repeat what can interleave with serving, where the reference is there. -/
def execCalIntervalExpiry (s : State) : Host.Outcome State Fault Refusal :=
  (Prog.get fun s => .when (s.reg 0x7008 != 0 && !calBusy s && s.running 2 && s.reg 0x4002 = 0xFF)
    ((Prog.one (.time (s.calib.lastRun + s.reg 0x7008 * 1000000000))).andThen calDue)).run s

/-! ### Diode offsets in step 5 (R409, R412) -/

/-- The offset of one diode from two readings just before its field is powered; a restored set is checked first (R415). -/
def takeDiode (i : Nat) (r : Int × Int) : Prog :=
  .get fun s =>
    let kept := (blobItem s.calib.restoring gDiode i).1
    let a := diodeOffset s r.1
    let b := diodeOffset s r.2
    let put (v : Nat) : Prog := putCal gDiode i 1 (v, (s.calValue gDiode i).2)
    if !s.calib.restoring.isEmpty && bit (field s.calib.restoring 7 1) gDiode && within kept a 3 10 then put kept
    else if within a b 3 10 then put (f32Mean a b)
    else (addReg 0x7009 0 1).andThen (mlog (calCore gDiode) 0x4B 3 (leBytes 1 gDiode ++ leBytes 2 i ++ leBytes 4 (f32Diff a b)))

/-- The four diodes of a field, as the start reads them. -/
def measureDiodes (p : Nat) : Prog :=
  .get fun s => .each (List.range' (4 * p) 4) fun i => match s.boot.report.diodes[i]? with
    | some r => takeDiode i r
    | none => .done

end Sys2Proof.Machine
end

