-- ==== Sys2Proof/Machine/Enroll.lean ====
section
/-! DEFINITION. Owner keys and the enrollment window (R305, R306, R332). -/

namespace Sys2Proof.Machine

def State.windowOpen (s : State) : Bool := s.reg 0x1300 != 0

/-- KEY_DIGESTS of a slot: four U64 elements, low bytes first; zero for an empty slot. -/
def publishKey (slot : Nat) (key : List Byte) : Prog :=
  let d := if key.isEmpty then [] else shake256 32 key
  .ups ((List.range 4).map fun i => .reg (regKey 0x1304 (4 * slot + i + 1)) (field d (8 * i) 8))

/-- The OID of XMSS-SHAKE256_20_256, in big-endian byte order. -/
def xmssOid : List Byte := [0, 0, 0, 0x12]

/-- M0 programs or erases a key slot in both copies of the enrollment area, each after its own hold-up check; where the second fails the first copy stays as it is written (R314, R316).  The time measured before the second program is open (log 158). -/
def programKey (slot : Nat) (key : List Byte) (us : Nat) (k : Answer → Prog) : Prog :=
  let close (a : Answer) : Prog := .seq [setFlash fun f => { f with enroll := none }, .get fun s => publishKey slot (s.enrolled slot), k a]
  let copy (n : Nat) : Prog := setFlash fun f => { f with keys := AMap.put [] f.keys n key }
  holdupCheck us 2 ((copy slot).andThen (drawFree fun v => holdupCheck (v % 2 ^ 32) 2 ((copy (4 + slot)).andThen (close .ok)) (close (.code 0x47)))) (close (.code 0x47))

/-- A flash operation of an enrollment: at once while M0 runs, else when it returns (R312). -/
def flashKey (slot : Nat) (key : List Byte) (us : Nat) (k : Answer → Prog) : Prog :=
  .get fun s => if s.running 0 then programKey slot key us k
    else (setFlash fun f => { f with enroll := some (slot, key) }).andThen (k .later)

/-- KEY_ENROLL: refused outside the window, for a wrong OID or an occupied slot. -/
def keyEnroll (slot : Nat) (key : List Byte) (us : Nat) (k : Answer → Prog) : Prog :=
  .get fun s =>
    if !s.windowOpen then k (.refuse 3)
    else if s.flash.enroll.isSome then k .busy
    else if slot > 3 || key.take 4 != xmssOid || !(s.enrolled slot).isEmpty then k (.refuse 4)
    else flashKey slot key us k

/-- KEY_REVOKE: erases a slot. -/
def keyRevoke (slot us : Nat) (k : Answer → Prog) : Prog :=
  .get fun s =>
    if !s.windowOpen then k (.refuse 3)
    else if s.flash.enroll.isSome then k .busy
    else if slot > 3 then k (.refuse 4)
    else flashKey slot [] us k

def execKeyEnroll (sid : Sid) (slot : Nat) (key : BitVec 544) (holdupUs : Nat) (s : State) : Host.Outcome State Fault Refusal :=
  (ownerCmd 0x1301 sid (fun _ => .done) (keyEnroll slot (leBytes 68 key.toNat) holdupUs)).run s
def execKeyRevoke (sid : Sid) (slot : Nat) (holdupUs : Nat) (s : State) : Host.Outcome State Fault Refusal :=
  (ownerCmd 0x1302 sid (fun _ => .done) (keyRevoke slot holdupUs)).run s

/-- A waiting flash operation when M0 is back; outside the window it is answered with ACCESS 3 (R338). -/
def resumeEnroll : Prog :=
  .get fun s => match s.flash.enroll with
    | none => .done
    | some (slot, key) =>
      let idx := if key.isEmpty then 0x1302 else 0x1301
      if s.windowOpen then drawFree fun v => programKey slot key (v % 2 ^ 32) fun a => finishCmd idx a.status
      else (setFlash fun f => { f with enroll := none }).andThen (finishCmd idx 0xFF)

/-- The window closes. -/
def closeWindow : Prog := setReg 0x1300 0 0

def enrollClose (k : Answer → Prog) : Prog := closeWindow.andThen (k .ok)
def execEnrollClose (sid : Sid) (s : State) : Host.Outcome State Fault Refusal :=
  (ownerCmd 0x1303 sid (fun _ => .done) enrollClose).run s

/-- ENROLL_RELEASE: M0 reads ENROLL as released, which closes the window (R332, R339). -/
def execEnrollRelease (s : State) : Host.Outcome State Fault Refusal :=
  (Prog.get fun s => .seq [setInputBit 3 false, .when (s.running 0) closeWindow]).run s

/-- ENROLL_WINDOW_TIMEOUT: 600 s after the start completed. -/
def execEnrollWindowTimeout (s : State) : Host.Outcome State Fault Refusal :=
  (Prog.get fun s => .when (s.running 0 && s.boot.doneAt != 0 && s.windowOpen)
    (.seq [.one (.time (s.boot.doneAt - 1 + 600000000000)), closeWindow])).run s

end Sys2Proof.Machine
end

