-- ==== Sys2Proof/Machine/Starts.lean ====
section
/-! DEFINITION. Cold, assisted and warm starts, BIST, the repair map they build, and the end of a drain (R214, R305, R314 to R317, R332, R335, R382 to R392, R404). -/

namespace Sys2Proof.Machine

def setBoot (f : Boot → Boot) : Prog := .get fun s => .one (.boot (f s.boot))

/-! ### The dictionary at a start (R12, R383) -/

/-- The elements of an entry as they stand. -/
def State.elems (s : State) (r : RegRow) : List (Nat × Nat) :=
  s.dict.filter fun kv => kv.1 / 65536 == r.idx || (r.idx == 0x2100 && 0x2100 ≤ kv.1 / 65536 && kv.1 / 65536 ≤ 0x21DB)

/-- The elements of an entry after a start, by its column. -/
def startElems (s : State) (r : RegRow) (c : RegCol) (fresh : Bool) : List (Nat × Nat) :=
  match c with
  | .keep => s.elems r
  | .to v => regElems r (if v = r.dflt then regDefault r else fun _ => v)
  | .found => if fresh then regElems r (regDefault r) else s.elems r

def coldDict (s : State) : List (Nat × Nat) := dictRows.flatMap fun r => startElems s r r.cold true
def warmDict (s : State) : List (Nat × Nat) := dictRows.flatMap fun r => startElems s r r.warm false

/-! ### Steps (R384, R386, R406) -/

def healthStarting : Nat := 0
def stepReady : Nat := 0xFF
def stepFailed : Nat := 0xFE

/-- A step ends after its time: START_STEP is logged, the console tells of it and the next step begins. -/
def stepEnd (n ms : Nat) : Prog :=
  .seq [.get fun s => .one (.time (s.now + ms * 1000000)),
    .get fun s => .seq [mlog 0 0x40 2 (leBytes 1 (s.reg 0x4001) ++ leBytes 1 n ++ leBytes 4 ((s.now - s.boot.began) / 1000000)),
      .when (!s.testMode) (.one (.line (Config.bootLine (s.reg 0x4001) n))), setReg 0x4002 0 (n + 1)]]

/-- A failure stops the start at a step, by the row of R387 from 1 (R387). -/
def failStart (step row : Nat) : Prog := .seq [setReg 0x4002 0 stepFailed, setReg 0x4000 0 3, mlog 0 0x41 5 (leBytes 1 step ++ leBytes 1 row)]

/-- NORMAL, or DEGRADED while a logical field is not live or an HBM port is lost (R403). -/
def healthNow (s : State) : Nat := if (List.range 80).all s.fieldLive && (List.range 24).all fun n => s.reg 0x4012 (n + 1) == 0 then 1 else 2

/-- The last step ends: CSP is served. -/
def finishStart (n ms : Nat) : Prog :=
  .seq [.get fun s => setReg 0x4000 0 (healthNow s), stepEnd n ms,
    .get fun s => .seq [setReg 0x4002 0 stepReady, setReg 0x4003 0 ((s.now - s.boot.began) / 1000000), setBoot fun b => { b with doneAt := s.now + 1 }]]

/-! ### Everything that a cold start clears (R383) -/

/-- Cores, figures, packets, queues and sync objects. -/
def clearWafer : Prog :=
  .get fun s => .ups (s.cores.map (fun kc => Update.core kc.1 Core.fresh) ++ s.spads.map (fun kc => Update.spadAll kc.1 []) ++
    s.qps.map (fun kc => Update.qp kc.1 []) ++ s.objects.map (fun kc => Update.object kc.1 SyncObj.none) ++
    s.hubs.map (fun kc => Update.hub kc.1 PerfSet.reset) ++ s.fieldClamps.map (fun kc => Update.fieldClamp kc.1 0) ++
    [.net [], .smReply none, .ctlReply none, .exitsDefault [], .arbReset])

/-- Models, sessions, ownership, group, requests, commands that wait. -/
def clearService : Prog :=
  .get fun s => .ups (s.models.map (fun kc => Update.model kc.1 Model.none) ++
    s.col.map (fun kc => Update.col kc.1 { Session.closed with gen := kc.2.gen }) ++ s.csp.map (fun kc => Update.csp kc.1 { Session.closed with gen := kc.2.gen }) ++
    s.cmds.map (fun kc => Update.cmd kc.1 []) ++ s.deferred.map (fun kc => Update.deferred kc.1 []) ++
    [.owner Owner.none, .image ImageCh.reset, .load Load.none, .serving Serving.reset, .group Group.reset, .sampler Sampler.reset,
      .blob 0xA010 (List.replicate 32 0), .blob 0xA011 (List.replicate 32 0), .blob 0xA012 (List.replicate 32 0)])

def setDomains (ds : List Nat) (v : Nat) : Prog := .each ds fun d => setDomain d v

/-- The state of the device at the beginning of a cold start; the references that are detected and the modules in the cages stay. -/
def clearAll : Prog :=
  .get fun s => .seq [clearWafer, clearService, cutCommit, .ups [.smClear, .hbmClear], .ups (s.blobs.map fun kc => .blob kc.1 []),
    .ups (s.ticks.map (fun kc => Update.tick kc.1 0)),
    .ups [.beat Beat.reset, .repair Repair.reset, .thermal Thermal.reset, .power Power.reset, .calib Calib.reset, .mcores Mcores.reset,
      .tables Tables.reset, .ports { EthPorts.reset with module := s.ports.module, draws := s.ports.draws },
      .dict (coldDict s), .epoch s.now, .testMode false],
    setReg 0x1020 0 (s.reg 0x1020 % 4 + bits (s.reg 0x1020) 5 5 * 32), setReg 0x3000 0 (s.reg 0x1020 % 2), setRegs 0x1022 [s.reg 0x1022 1, s.reg 0x1022 2]]

/-! ### Step 2: the firmware (R314, R315, R317) -/

/-- The image of a slot reads back, verifies, and is no older than MIN_VERSION (R315). -/
def slotGood (s : State) (n : Nat) : Bool :=
  (if n = 0 then s.boot.report.imageOk.1 else s.boot.report.imageOk.2) &&
    match AMap.get none s.flash.image n with
    | none => s.flash.record.minVersion == 0 || (Config.fwVersion n).toNat ≥ s.flash.record.minVersion
    | some im => imageGood s im

/-- M0 writes the boot record, if the hold-up time that it measures is long enough. -/
def recordWrite (f : BootRecord → BootRecord) : Prog := drawFree fun v => holdupCheck (v % 2 ^ 32) 1 (writeRecord f) .done

/-- The image store is filled from a slot, and what the running image publishes. -/
def runSlot (n : Nat) : Prog :=
  .seq [fillStore n,
    .get fun s => .seq [setReg 0x1003 0 (slotVersion s n), setReg 0x8000 0 s.flash.record.active, setRegs 0x8001 [slotVersion s 0, slotVersion s 1],
      setReg 0x8002 0 (boolNat s.flash.record.trial), setReg 0x8003 0 s.flash.record.minVersion,
      .each (List.range 4) fun k => publishKey k (s.enrolled k)]]

/-- The slot that a trial gives up is left for the other. -/
def fallBack (n : Nat) : Prog :=
  .get fun s => .seq [recordWrite fun r => { r with active := n, trial := false }, runSlot n,
    mlog 0 0x13 4 (leBytes 1 n ++ leBytes 4 (slotVersion s (1 - n)))]

/-- M0 selects an image by the boot record in force; a trial image that does not verify is left for the other at once. -/
def selectSlot (ok stop : Prog) : Prog :=
  .get fun s =>
    let r := s.flash.record
    let a := r.active
    if r.trial && r.tries = 0 then
      if slotGood s a then .seq [recordWrite fun r => { r with tries := 1 }, runSlot a, ok]
      else if slotGood s (1 - a) then (runSlot (1 - a)).andThen ok else stop
    else if r.trial then
      if slotGood s (1 - a) then (fallBack (1 - a)).andThen ok
      else if slotGood s a then (runSlot a).andThen ok else stop
    else if slotGood s a then (runSlot a).andThen ok
    else if slotGood s (1 - a) then (runSlot (1 - a)).andThen ok else stop

/-- M0 takes the boot record and selects an image; without a valid one the start stops and no other M-core runs.  DESIGN CHOICE: so it does without a valid boot record. -/
def selectImage (ok : Prog) : Prog :=
  .get fun s =>
    let stop : Prog := (setRegs 0x8010 [0, 2, 2, 2, 2, 2]).andThen (failStart 2 1)
    match chosenRecord s with
    | some (r, c) => (setFlash fun f => { f with record := r, copy := c }).andThen (selectSlot ok stop)
    | none => stop

/-! ### Step 3: the edge ring -/

/-- The edge domains come up under their grants (R351, R354): the tumbler domain, the HBM stacks at class 0, the Ethernet blocks and the modules in their cages; without the first the edge ring fails. -/
def grantStart (ok : Prog) : Prog :=
  askGrant 0 actTumbler 0 600
    (.seq [setDomain 218 domOn, setDomains [216, 217] domOn,
      .each (List.range 24) fun n => askGrant 1 actHbm n (hbmPrice 0) (setDomain (192 + n) domOn) fun _ => setReg 0x4012 (n + 1) 1,
      .get fun s => .each s.ports.module fun kv => powerCage kv.1 (kv.2 - 1), ok])
    fun _ => failStart 3 2

/-- The random address of a port: locally administered, unicast (R283). -/
def drawMac (n : Nat) : Nat := let x := (Config.randomMac n).toNat; x - bits x 1 0 + 2

def drawMacs : Prog :=
  .get fun s => .seq [setRegs 0x1402 [drawMac s.ports.draws, drawMac (s.ports.draws + 1)], .one (.ports { s.ports with draws := s.ports.draws + 2 })]

/-- Converters and phases as the tests found them (R343, R347). -/
def takeFailures : Prog :=
  .get fun s => .seq [.each s.boot.report.badConverters fun n => .when (n < 24) (setReg 0x2008 (n + 1) 2),
    .each s.boot.report.badPhases fun d => .when (d.1 < 176) (.get fun s => .when (!bit (AMap.get 0 s.power.phases d.1) d.2)
      (.seq [setPower fun w => { w with phases := AMap.put 0 w.phases d.1 (AMap.get 0 w.phases d.1 + 2 ^ d.2) }, setReg 0x200B (d.1 + 1) (s.reg 0x200B (d.1 + 1) - 1)])),
    .each (List.range 88) fun p => .get fun s => .seq [setReg 0x200C (p + 1) (fieldCap s p), .when (fieldCap s p < 7) (setLimit p srcCap (fieldCap s p))], publishLedger]

/-- Ends with the assist window open, or with a failure of the edge ring. -/
def edgeStep : Prog :=
  .get fun s =>
    if s.boot.report.edgeFailed then (Prog.one (.time (s.now + 8000000000))).andThen (failStart 3 2)
    else takeFailures.andThen (grantStart (.seq [.each (s.boot.report.badLinks ++ s.boot.report.badPorts) fun _ => appendOpen 5 openSelfTest none,
      stepEnd 3 8000, .get fun s => setBoot fun b => { b with assist := some s.now }]))

/-! ### Step 5: the fields (R388 to R390, R392) -/

def ringOf (p : Nat) : Nat := min (min (p / 11) (7 - p / 11)) (min (p % 11) (10 - p % 11))
def besides (p : Nat) : List Nat := (List.range 88).filter fun q =>
  (q / 11 == p / 11 && (q % 11 + 1 == p % 11 || q % 11 == p % 11 + 1)) || (q % 11 == p % 11 && (q / 11 + 1 == p / 11 || q / 11 == p / 11 + 1))

/-- The fields that pass: in ring k ≥ 1 one beside a field that has passed in ring k − 1. -/
def passedFields (ok : Nat → Bool) : List Nat :=
  (List.range 4).foldl (fun acc k => acc ++ (List.range 88).filter fun p =>
    ringOf p == k && ok p && (k == 0 || (besides p).any fun q => ringOf q + 1 == k && acc.contains q)) []

/-- Fields in the order in which they are tested. -/
def testOrder : List Nat := (List.range 4).flatMap fun k => (List.range 88).filter fun p => ringOf p == k

/-- A field that its own tests leave usable. -/
def fieldSound (s : State) (m : Repair) (p : Nat) : Bool :=
  !s.boot.report.badFields.contains p && fieldCap s p < 7 && (buildField m (p / 11 * 10) p).isSome

def deadKeys (r : BistReport) : List Nat := (r.deadPositions.filter fun d => d.1 < 88 && d.2.1 < 25 && d.2.2 < 25).map fun d => posKey d.1 d.2.1 d.2.2
def addDead (m : Repair) (ks : List Nat) : Repair := { m with dead := ks.foldl (fun a k => AMap.put false a k true) m.dead }
def addUnusable (m : Repair) (ps : List Nat) : Repair := { m with unusable := ps.foldl (fun a p => AMap.put false a p true) m.unusable }

/-- The map of a blob (R391). -/
def blobMap (b : List Byte) : Repair :=
  let set (d : Nat) (f : Nat → Nat) (keys : List (Nat × Nat)) : AMap Nat := keys.foldl (fun a k => AMap.put d a k.1 (f k.2)) []
  let marked (v : Nat) : AMap Bool := (List.range 88).foldl (fun a p => AMap.put false a p (field b (56 + 96 * p) 1 == v)) []
  let dead := (List.range 88).flatMap fun p => (List.range 625).filterMap fun i =>
    if bit (field b (57 + 96 * p + i / 8) 1) (i % 8) then some (posKey p (i / 25) (i % 25)) else none
  { addDead Repair.reset dead with
    fs := set 10 (fun o => field b o 1) ((List.range 8).map fun i => (i, 48 + i))
    cs := set 24 (fun o => field b o 1) ((List.range 80).flatMap fun f => (List.range 24).map fun i => (f * 32 + i, 8504 + 52 * f + i))
    rs := set 24 (fun o => field b o 1) ((List.range 80).flatMap fun f => (List.range 25).map fun j => (f * 32 + j, 8528 + 52 * f + j))
    unusable := marked 1, dark := marked 2 }

/-- Fields that verification hands over to discovery: a new dead position, or a map that the tests no longer bear out. -/
def rediscovered (s : State) (m : Repair) : List Nat :=
  (List.range 88).filter fun p => !AMap.get false m.dark p &&
    ((deadKeys s.boot.report).any (fun k => k / 1024 == p && !AMap.get false m.dead k) ||
      (List.range 80).any fun f => mapField m f == p && !mapAvoids m f (deadOf m p))

/-- The lowest unusable position of a field row goes to the spare, if that is usable (R390). -/
def rowSkip (m : Repair) (row : Nat) : Nat :=
  if fieldUsable m (rowPos row 10) then ((List.range 10).find? fun k => !fieldUsable m (rowPos row k)).getD 10 else 10

/-- A restored row whose fields are all usable is kept; every other row is laid out afresh. -/
def layRows (m : Repair) (keep : Bool) : Repair :=
  { m with fs := (List.range 8).foldl (fun a row =>
      let whole := (List.range 10).all fun q => fieldUsable m (mapField m (10 * row + q))
      if keep && whole then a else AMap.put 10 a row (rowSkip m row)) m.fs }

/-- The skips of one logical field. -/
def layField (keep : Bool) (again : List Nat) (m : Repair) (f : Nat) : Repair :=
  let p := mapField m f
  if keep && !again.contains p && mapAvoids m f (deadOf m p) then m else (buildField m f p).getD (noSkips m f)

def logBist (p dead : Nat) (bad : Bool) : Prog := mlog 3 0x42 2 (leBytes 1 p ++ leBytes 1 (boolNat bad) ++ leBytes 2 dead)

/-- The price of a BIST, whose fastest step is 0: the field's peak there less what the field holds. -/
def bistPrice : Nat := fieldPeak 0 - 80

/-- The ledger's part of a field's test at a start; a field whose test it refuses is unusable. -/
def priceBist (p : Nat) : Prog :=
  askGrant 3 actBist p bistPrice (releaseGrant actBist p) fun _ => setRepair fun r => { r with unusable := AMap.put false r.unusable p true }

/-- The fields that are tested: not dark in a restored map, no rail Dark. -/
def testedFields (s : State) (assisted : Bool) : List Nat :=
  testOrder.filter fun p => !(assisted && AMap.get false (blobMap s.boot.map).dark p) && fieldCap s p < 7

/-- Steps 5 and 6: the fields have been powered and tested one after another, and the map is built. -/
def buildMap (assisted : Bool) : Prog :=
  .get fun s =>
    let m₀ := if assisted then blobMap s.boot.map else Repair.reset
    let again := if assisted then rediscovered s m₀ else []
    let m₁ := addDead m₀ (deadKeys s.boot.report)
    let ok (p : Nat) : Bool := !AMap.get false m₁.dark p && !AMap.get false m₁.unusable p && s.domain p == domOn && !AMap.get false s.repair.unusable p && fieldSound s m₁ p
    let passed := passedFields ok
    let m₂ := addUnusable m₁ ((List.range 88).filter fun p => !AMap.get false m₁.dark p && !passed.contains p)
    let m₃ := (List.range 80).foldl (layField assisted again) (layRows m₂ assisted)
    .seq [.each (testedFields s assisted) fun p => logBist p (deadOf m₁ p).length (!passed.contains p),
      .when assisted (mlog 3 0x49 2 (leBytes 1 0 ++ leBytes 2 again.length)),
      stepEnd 5 (if assisted then 10000 + 8000 * again.length else 50000), .one (.repair m₃),
      .each (List.range 80) fun f => setReg 0x4007 (f + 1) (if fieldUsable m₃ (mapField m₃ f) && mapAvoids m₃ f (deadOf m₃ (mapField m₃ f)) then mapField m₃ f else 255),
      writeExits, .each (List.range 88) fun p => setLimit p srcRamp 6, publishSpares, stepEnd 6 (if assisted then 1000 else 2000)]

/-! ### Steps 7 to 9 -/

/-- Step 8, HBM training, whose grants wait for M1, and then the end of the start. -/
def trainStep : Prog :=
  .get fun s => if !s.running 1 then setBoot fun b => { b with last := true } else .seq [setBoot fun b => { b with last := false },
    .each (List.range 24) fun n => if s.boot.report.badHbm.contains n then (setReg 0x4012 (n + 1) 1).andThen (releaseGrant actHbm n)
      else .when (AMap.get 0 s.power.grants (ledgerKey actHbm n) != 0)
        (askGrant 1 actHbm n (hbmPrice 1 - hbmPrice 0) (setReg 0x200E (n + 1) 1) fun _ => .done),
    stepEnd 8 10000, setReg 0x1021 0 s.boot.report.cables, finishStart 9 2000]

def lastSteps : Prog := .get fun s => (stepEnd 7 (if s.reg 0x4001 = 1 then 3000 else 14000)).andThen trainStep

/-- Step 7: what was restored is checked, else every group with its reference is measured, CURRENT only if the ledger grants its source; with none to measure the start goes on. -/
def calStep : Prog :=
  .get fun s =>
    let m := maskOf ((List.range 5).filter (hasRef s))
    .seq [if s.calib.restoring.isEmpty then priceCal m (startCal m 4) (startCal (m - 2 ^ gCurrent) 4) else restoreRun s.calib.restoring 4,
      .get fun s => .when (s.calib.mask = 0) ((endCal []).andThen lastSteps)]

/-! ### Step 5: one field after another (R358, R388, R409) -/

/-- A field's power-up waits for its segment or for capacity. -/
def State.rampAwaited (s : State) (p : Nat) : Bool := s.power.powerups.any fun w => w.1 == p

/-- The fields that have still to be tested, and whether the first has asked for its power. -/
def setTodo (x : Option (Bool × List Nat)) : Prog := setBoot fun b => { b with todo := x }

/-- Fields are measured, powered under R358 and tested one after another, while M1, M2 and M3 run (R312, R409); then the map is built.  A field whose segment has room is granted and rises at once; another waits as R358 says; one that the ledger refuses stays off. -/
def fieldsGo : List Nat → Prog
  | [] => .get fun s => if !(s.running 1 && s.running 2 && s.running 3) then setTodo (some (false, []))
      else .seq [setTodo none, buildMap (s.reg 0x4001 = 1), calStep]
  | p :: ps => .get fun s =>
      if !(s.running 1 && s.running 2 && s.running 3) then setTodo (some (false, p :: ps))
      else if s.domain p = domOn then (priceBist p).andThen (fieldsGo ps)
      else if s.domain p = domRamp then setTodo (some (true, p :: ps))
      else if s.domain p = domIsolated then fieldsGo ps
      else (measureDiodes p).andThen (
        if segmentReady s p && !s.overGranted then (askGrant 3 actField p 130 (.seq [softStart p, rampOver p, priceBist p]) fun _ => .done).andThen (fieldsGo ps)
        else (askPowerUp 3 p).andThen (.get fun s => if s.rampAwaited p then setTodo (some (true, p :: ps)) else fieldsGo ps))

/-- Step 5 goes on, when the field that it waits for is ON, or will not be. -/
def continueStart : Prog :=
  .get fun s => match s.boot.todo with
    | some (true, p :: ps) => if s.rampAwaited p then .done else if s.domain p = domOff then fieldsGo ps else fieldsGo (p :: ps)
    | some (_, ps) => fieldsGo ps
    | none => .done

/-- The assist window closes and the start goes on. -/
def closeAssist (assisted : Bool) : Prog :=
  .seq [setBoot fun b => { b with assist := none }, setReg 0x4001 0 (boolNat assisted), stepEnd 4 0, .get fun s => fieldsGo (testedFields s assisted)]

/-! ### The commands -/

/-- TEST_EN high: every domain but D219 stays off and nothing is served (R335). -/
def enterTest : Prog := .seq [.one (.testMode true), setDomains (List.range 219) domOff, setRegs 0x8010 (List.replicate 6 2), .one (.line (ascii "TEST MODE"))]

/-- The time of a START that waits. -/
def awaitStart (kind : Nat) : Prog :=
  .get fun s => match s.boot.waiting with
    | some (k, t) => .when (k = kind) (.one (.time t))
    | none => .done

/-- Steps 1 to 3 of a cold start; the rest follows when the assist window closes.  With REFPPS detected wafer time starts at the next PPS edge, so that the edges fall on whole seconds (R369, R370). -/
def coldStart (r : BistReport) : Prog :=
  .seq [clearAll, .get fun s => .ups [.boot { Boot.reset with began := s.now, report := r, lowSince := s.boot.lowSince },
      .epoch (if bit (s.reg 0x1020) 1 then s.now + (1000000000 - r.ppsAgo % 1000000000) % 1000000000 else s.now)],
    setReg 0x4001 0 0, setReg 0x4002 0 1, setDomain 219 domOn, setGrant (ledgerKey 0 0) 200,
    setInputBit 2 (2490 ≤ r.calvMv && r.calvMv ≤ 2510), setReg 0x700A 0 (f32Rat r.calvMv 1000), setInputBit 3 r.enroll, setInputBit 4 r.testEn,
    if r.testEn then enterTest
    else .seq [setReg 0x1300 0 (boolNat r.enroll), stepEnd 1 1000, selectImage (.seq [drawMacs, stepEnd 2 3000, edgeStep])]]

/-- A cold start begins once the input has stayed at or above 51 V for 100 ms; below, it waits (R324, R342). -/
def whenInput (heldMs : Nat) (p : Prog) : Prog :=
  .get fun s => if heldMs = 0 then setBoot fun b => { b with waiting := some (2, s.now) }
    else (Prog.one (.time (s.now + (100 - heldMs) * 1000000))).andThen p

/-- A START of a kind that waits. -/
def State.startWaits (s : State) (kind : Nat) : Bool := match s.boot.waiting with
  | some w => w.1 == kind
  | none => false

/-- RESET_N goes low; a level that is low already stays so. -/
def resetLow : Prog := .get fun s => .when s.boot.lowSince.isNone ((setBoot fun b => { b with lowSince := some s.now }).andThen (setInputBit 5 true))

/-- RESET_N is released at a time. -/
def resetHigh (at_ : Nat) : Prog := .seq [.one (.time at_), setBoot fun b => { b with lowSince := none }, setInputBit 5 false]

/-- COLD_START: at power, at a START that waits, or when RESET_N is released after 1 s or more; a release within 10 ms is ignored, and one in between is WARM_START's (R324, R334, R382).  A module in test mode leaves it only by a power cycle (R335). -/
def execColdStart (r : ColdCause) (s : State) : Host.Outcome State Fault Refusal :=
  (match r.cause with
   | .power => whenInput r.heldMs (coldStart r.report)
   | .start => .get fun s => .when (s.startWaits 2 && !s.testMode) ((awaitStart 2).andThen (whenInput r.heldMs (coldStart r.report)))
   | .resetLow => resetLow
   | .resetHigh ms => .get fun s => match s.boot.lowSince with
     | some t =>
       let at_ := max s.now (t + ms * 1000000)
       if t + 1000000000 ≤ at_ then (resetHigh at_).andThen (.when (!s.testMode) (whenInput r.heldMs (coldStart r.report)))
       else .when (at_ < t + 10000000) (resetHigh at_)
     | none => .done
   | .enrollHeld => setInputBit 3 true).run s

/-- ASSIST_WINDOW_TIMEOUT: 5 s after the window opened. -/
def execAssistWindowTimeout (s : State) : Host.Outcome State Fault Refusal :=
  (Prog.get fun s => match s.boot.assist with
    | some t => (Prog.one (.time (t + 5000000000))).andThen (closeAssist false)
    | none => .done).run s

/-- A repair-map blob for this module. -/
def mapBlobGood (s : State) (b : List Byte) : Bool :=
  b.length == 12664 && b.take 4 == ascii "CRRM" && field b 4 2 == 1 && field b 6 1 == s.reg 0x1002 && field b 7 1 == 0 && field b 8 4 == 12664 && field b 12 4 == 0 &&
    slice b 16 32 == shake256 32 (b.drop 48)

/-- START_ASSIST inside the window: a good blob closes it at once, a bad one leaves a plain cold start. -/
def startAssist (b : List Byte) (k : Answer → Prog) : Prog :=
  .get fun s =>
    if s.boot.assist.isNone then k (.refuse 3)
    else if !mapBlobGood s b then (mlog 3 0x49 2 (leBytes 1 1 ++ leBytes 2 0)).andThen (k (.code 0x43))
    else .seq [setBoot fun x => { x with map := b }, k .ok, closeAssist true]

def execStartAssist (sid : Sid) (blob : List Byte) (s : State) : Host.Outcome State Fault Refusal := (ownerCmd 0x4005 sid (fun _ => .done) (startAssist blob)).run s

/-- START: 0 warm, 1 cold, 100 ms after the response; a device whose start failed takes it too. -/
def startWrite (kind : Nat) (k : Answer → Prog) : Prog :=
  if kind > 1 then k (.refuse 4) else .get fun s => .seq [setBoot fun b => { b with waiting := some (kind + 1, s.now + 100000000) }, setReg 0x4004 0 0, k .ok]

def execStart (sid : Sid) (kind : Nat) (s : State) : Host.Outcome State Fault Refusal := (ownerWriteAny sid (fun _ => .done) (startWrite kind)).run s

/-- What a warm start keeps of the grants: the always-on block, the tumbler domain, the fields and the ports. -/
def warmGrants (s : State) : AMap Nat :=
  (s.power.grants.filter fun kv => kv.1 / 1024 == 0 || kv.1 / 1024 == actTumbler || kv.1 / 1024 == actField || kv.1 / 1024 == actPort)

/-- Steps 1 to 3 of a warm start, in their effect: what stands on models, sessions, links and M-cores is gone. -/
def warmClear : Prog :=
  .get fun s => .seq [clearWafer, clearService, cutCommit,
    .ups [.dict (warmDict s), .beat { Beat.reset with last := s.waferTime / 1000, decided := s.waferTime / 1000, hold := .complete, holdCause := 0x12, holdSince := s.waferTime },
      .power { s.power with grants := warmGrants s, reserved := [], waiting := [], powerups := [], overdraw := false, overMs := 0, underSince := none },
      .thermal { s.thermal with stepReq := [], raises := [], sticky := [], warns := [] }, .calib { s.calib with mask := 0, mode := 0, waiting := 0, restoring := [], lost := 0 },
      .mcores { Mcores.reset with traceSecond := s.mcores.traceSecond, traceCount := s.mcores.traceCount }, .tick tkPower 0, .tick tkDiode 0,
      .boot { s.boot with began := s.now, waiting := none, assist := none, bist := none, todo := none, last := false },
      .smZero 0 0x400000, .smZero 0x500000 0x10000, .smZero 0x0EC00000 0x100000],
    .each (List.range 6) fun m => .when (!segmentGood s m) (setReg 0x8010 (m + 1) 1), readBackAll,
    .each ((List.range 88).filter fun p => AMap.get false s.thermal.sticky p) fun p => setLimit p srcMargin (AMap.get 0 s.thermal.unsafeStep p),
    setReg 0x4001 0 2, setReg 0x4000 0 healthStarting, setDomains (List.range' 176 16) domOff,
    .each (List.range 24) fun n => .when (s.reg 0x4012 (n + 1) = 0) (setGrant (ledgerKey actHbm n) (hbmPrice 0)),
    .each (List.range 88) fun p => .seq [setLimit p srcRamp 6, setReg 0x3005 (p + 1) 6, setThermal fun t => { t with setPoint := AMap.put 0 t.setPoint p (s.fieldVset p 6) }]]

/-- The hold of a warm start, from its step 1 to its end (R386): every edge in it is withheld.  DESIGN CHOICE (log 203): R386 does not say when the hold ends. -/
def warmHoldOver : Prog :=
  .get fun s =>
    let e := s.waferTime / 1000
    (countHolds (s.beat.decided + 1) (e - s.beat.decided)).andThen (.get fun s => .one (.beat { s.beat with hold := .none, last := e, decided := e }))

/-- The steps of a warm start; a device that never started has none, and one that failed needs a cold start (R387, R403). -/
def warmStart : Prog :=
  .get fun s =>
    if s.reg 0x4002 = 0 || s.testMode then .done
    else if s.reg 0x4000 = 3 then setBoot fun b => { b with waiting := none }
    else .seq [warmClear, stepEnd 1 500, stepEnd 2 1500, stepEnd 3 2000,
      repairAll, writeExits, stepEnd 4 2000, finishStart 5 2000, warmHoldOver]

/-- WARM_START: at a START that waits, or when RESET_N is released after 10 to 999 ms (R334, R382). -/
def execWarmStart (s : State) : Host.Outcome State Fault Refusal :=
  (Prog.get fun s =>
    if s.startWaits 1 then (awaitStart 1).andThen warmStart
    else match s.boot.lowSince with
      | some t =>
        let at_ := max s.now (t + 10000000)
        .when (at_ < t + 1000000000) ((resetHigh at_).andThen warmStart)
      | none => .done).run s

/-- TEST_EN_CHANGE: after a cold start it is only logged (R335, R339). -/
def execTestEnChange (level : Bool) (s : State) : Host.Outcome State Fault Refusal :=
  ((setInputBit 4 level).andThen (mlog 0 0x32 3 (leBytes 1 (boolNat level)))).run s

/-! ### CAL_DONE (R411, R417) -/

/-- A run is over; one that a start began lets it go on. -/
def calOver (items : List CalItem) : Prog :=
  .get fun s => .seq [endCal items, .when (s.calib.mode = 4) lastSteps]

/-- A sense pair can be calibrated while two others of its rail regulate (R417). -/
def pairReady (s : State) (it : CalItem) : Bool :=
  it.group != gVsense || 2 ≤ (List.range 4).countP fun i => i != it.item % 4 && !bit (AMap.get 0 s.power.pairs (2 * (it.item / 4 % 88) + it.item / 352)) i

/-- CAL_DONE: what the run measured, the trims of fields beside the other items; no run ends in a hold, or while a rail waits for its pairs (R417). -/
def execCalDone (items trims : List CalItem) (s : State) : Host.Outcome State Fault Refusal :=
  (Prog.get fun s => .when (s.calib.mask != 0 && !holdInForce s && (items ++ trims).all (pairReady s) && (groupsOf s.calib.mask).all fun g => s.running (calCore g))
    (calOver (items ++ trims))).run s

/-! ### FIELD_BIST (R404) -/

def setBist (x : Option (Nat × Nat)) : Prog := setBoot fun b => { b with bist := x }

/-- A BIST that was asked for cannot run: LEDGER_EXCEEDED. -/
def bistRefused (p : Nat) : Prog := (setBist none).andThen (finishCmdAt (cmdKey 0x4010 p) 0x4010 0x45)

/-- A field that is off is powered up first, under R358. -/
def fieldBist (pf force : Nat) (k : Answer → Prog) : Prog :=
  .get fun s =>
    let named := match s.logicalField pf with
      | some f => naming s [f]
      | none => []
    let drain : Nat := boolNat (!named.isEmpty)
    let begun (x : Nat) : Prog := .seq [setBist (some (pf, x)), .when (!named.isEmpty) (forceDrain named), k .later]
    if pf ≥ 88 || force > 1 then k (.refuse 4)
    else if s.domain pf = domIsolated || AMap.get false s.repair.dark pf then k (.refuse 3)
    else if s.boot.bist.isSome || (!named.isEmpty && (force = 0 || s.load.op != 0)) then k .busy
    else needM1 (.bist pf force) (k .later) <|
      if s.domain pf = domOn then askGrant 3 actBist pf bistPrice (begun drain) fun _ => k (.code 0x45)
      else (askPowerUp 3 pf).andThen (.get fun s => if s.domain pf = domRamp || s.rampAwaited pf then begun (2 + drain) else k (.code 0x45))

/-- A BIST that waits for its field's power goes on when the field is ON, and ends when it will not be. -/
def bistPowered : Prog :=
  .get fun s => match s.boot.bist with
    | some (p, n) => .when (2 ≤ n && s.running 1 && s.domain p != domRamp && !s.rampAwaited p)
        (if s.domain p = domOn then askGrant 3 actBist p bistPrice (setBist (some (p, n - 2))) fun _ => bistRefused p else bistRefused p)
    | none => .done

def execFieldBist (sid : Sid) (pf force : Nat) (s : State) : Host.Outcome State Fault Refusal := (ownerCmdAt (cmdKey 0x4010 pf) 0x4010 sid (fun _ => .done) (fieldBist pf force)).run s

/-- What a BIST leaves of a core: its counters, their selection and its samples, which only a start clears (R428), and its sampler's position; a word that was tagged is gone. -/
def Core.afterBist (c : Core) : Core :=
  { Core.fresh with perf := c.perf, samples := c.samples, seg := c.seg, tagAt := if c.tag.isSome then some 0 else c.tagAt }

/-- BIST_DONE: dead positions found, and whether the field is still usable; what is newly dead is repaired in a hold. -/
def execBistDone (dead : List (Nat × Nat)) (usable : Bool) (s : State) : Host.Outcome State Fault Refusal :=
  (Prog.get fun s => match s.boot.bist with
    | some (p, 0) => .when (s.running 3) (
        let found := (dead.filter fun d => d.1 < 25 && d.2 < 25).map fun d => posKey p d.1 d.2
        let new := found.any fun k => !AMap.get false s.repair.dead k
        .seq [.each found killPosition, logBist p found.length (!usable), releaseGrant actBist p,
          match s.logicalField p with
          | some f => .ups ((s.cores.filter fun kc => kc.1 / 1024 == f).map fun kc => .core kc.1 kc.2.afterBist)
          | none => .done,
          match s.logicalField p with
          | some f => .ups ((s.spads.filter fun kc => kc.1 / 1024 == f).map fun kc => .spadAll kc.1 [])
          | none => .done,
          .when (!usable) (setRepair fun r => { r with lost := if r.lost.contains p then r.lost else r.lost ++ [p] }),
          .when (new || !usable) (requestHold (if usable then 0x12 else 0x10)),
          setReg 0x4011 0 (p * 2 ^ 49 + found.length % 1024 * 2 ^ 39), setBist none, finishCmdAt (cmdKey 0x4010 p) 0x4010 0])
    | _ => .done).run s

/-! ### DRAIN_END (R214, R215, R404, R413) -/

/-- A main takes its lead with it. -/
def unloadSlot (slot : Nat) : Prog := (stopModel slot).andThen (.when (slot = 0) (stopModel 1))

/-- The last forced drain has ended: what waited for it starts. -/
def afterForced : Prog :=
  .get fun s => .when ([0, 1].all fun i => !((s.model i).held && (s.model i).draining)) (.seq [.one (.load Load.none), loadState 0,
    setBoot fun b => { b with bist := b.bist.map fun x => (x.1, x.2 / 2 * 2) }, calWaited])

/-- The edge at which the figures of a drained model stop: the next one, which its sample has let through (R214). -/
def stopEdge (s : State) : Option Nat :=
  match s.beat.sampled with
  | some d => if d.take && s.beat.hold == .none && (!s.inGroup || s.beat.group == some (d.edge, true)) then some d.edge else none
  | none => none

/-- What was waiting for the end of a drain. -/
def endDrain (slot : Nat) : Prog :=
  .get fun s =>
    if s.load.op = 2 && s.load.slot = slot then (unloadSlot slot).andThen (endLoad 0 0 0)
    else if s.load.op = 3 && slot = 0 && s.reg 0xA003 = 6 then swapOn
    else if s.load.op = 4 then (unloadSlot slot).andThen afterForced else .done

/-- DRAIN_END: nothing of a draining model is left; M0 stops its figures at the next edge that is taken. -/
def execDrainEnd (slot : Nat) (s : State) : Host.Outcome State Fault Refusal :=
  (if slot > 1 then (Prog.fault (.noSuchUnit slot))
   else served <| .get fun s => .when (s.running 0) (
    if !(s.model slot).held then endDrain slot
    else match stopEdge s with
      | some e => .when ((s.model slot).draining && drained s slot) ((Prog.one (.time (edgeTime s e))).andThen (endDrain slot))
      | none => .done)).run s

/-! ### What waits for a field's power (R358) -/

def powerCame : Prog := continueStart.andThen bistPowered

/-- CURRENT_PUBLISH, every 1 ms (R352). -/
def execCurrentPublish (r : PowerReading) (s : State) : Host.Outcome State Fault Refusal :=
  (periodic 1 tkPower 1000000 (.seq [publishCurrents r, publishLedger, overdrawTick r.inputMa, overcurrentTick r.inputMa,
    .get fun s => .each s.power.powerups powerupTick, powerCame])).run s

/-- FIELD_RAMP_DONE: both rails of a field are up (R351, R358). -/
def execFieldRampDone (pf : Nat) (s : State) : Host.Outcome State Fault Refusal :=
  (if pf ≥ 88 then (Prog.fault (.noSuchUnit pf))
   else .get fun s => .when (s.domain (88 + pf) == domRamp) ((rampOver pf).andThen powerCame)).run s

end Sys2Proof.Machine
end

