-- ==== Sys2Proof/Machine/Service.lean ====
section
/-! DEFINITION. A restarted M-core comes back (R208, R269, R311, R312). -/

namespace Sys2Proof.Machine

/-- A command that waited is answered, unless it waits again. -/
def finishWithAt (key idx : Nat) (a : Answer) : Prog := .when (!a.pending) (finishCmdAt key idx a.status)
def finishWith (idx : Nat) (a : Answer) : Prog := finishWithAt idx idx a

/-- One request that waited for M1 or M5. -/
def resumeWait : GrantWait → Prog
  | .request r a u x => needM1 (.request r a u x) .done (ledgerProg r a u x)
  | .bist pf force => fieldBist pf force (finishWithAt (cmdKey 0x4010 pf) 0x4010)
  | .cal mask force => calRun mask force (finishWith 0x7001)
  | .calRestore b => calRestore b (finishWith 0x7004)
  | .calDue => calDue
  | .cage e w => .get fun s => .when (AMap.get 0 s.ports.module e == w + 1) (powerCage e w)
  | .wake => wakeStacks
  | .linkRestore l => linkRestore l (finishWithAt (cmdKey 0x9021 l) 0x9021)
  | .linkEnable mask => linkEnableWrite mask fun _ => .done
  | .form id size m => groupForm id size m (finishWith 0x9000)
  | .leave => groupLeave (finishWith 0x9001)
  | .darken p => powerOff p

/-- What waited for M1 or M5, in the order in which it came (R312). -/
def resumeWaits : Prog :=
  .get fun s => .seq [setPower fun p => { p with waiting := [] }, .each s.power.waiting resumeWait]

/-- What each M-core takes up again: M0 a commit from its verification, an enrollment, a load and a swap; M1 the requests that waited, a load's reservation and what waits for power; M2 the owner's limits; M1, M2 and M3 a start's step 5; M4 the events that were missed; M5 the links that went DOWN. -/
def mcoreReturns (m : Nat) : Prog :=
  if m = 0 then .get fun s => .seq [.when (!bit (s.reg 0x1020) 3) closeWindow, match s.flash.commit with
      | some d => fwVerify d .done (finishCmd 0x8005 0x43)
      | none => .done, resumeEnroll, .when s.flash.confirm ((setFlash fun f => { f with confirm := false }).andThen (confirmNow (finishWith 0x8006))), restartLoad, resumeSwap]
  else if m = 1 then .seq [readBackAll, resumeWaits, resumeReserve, .each (List.range 88) settleStep, lowerStacks, calWaited, powerCame, .get fun s => .when s.boot.last trainStep]
  else if m = 2 then (Prog.each (List.range 88) fun p => .get fun s => (setLimit p srcOwner (s.reg 0x3007 (p + 1))).andThen (settleStep p)).andThen continueStart
  else if m = 3 then continueStart
  else if m = 4 then .get fun s =>
    (Prog.one (.owner { s.owner with leaseEnd := s.owner.leaseEnd + (s.waferTime - AMap.get 0 s.mcores.stopAt 4) })).andThen (leaveDownPorts.andThen sendWaitingEvents)
  else if m = 5 then .seq [renegotiate 0, renegotiate 1, remapWaiting, resumeWaits, releaseWaiting] else .done

/-- MCORE_SERVICE_RESUME: with its segment reloaded and checked, the M-core logs the gap and the entries that wait, and serves again; M4 sends the EVENTs of what was logged meanwhile in SEQ order (R311, R319). -/
def execMcoreServiceResume (m : Nat) (s : State) : Host.Outcome State Fault Refusal :=
  (if m > 5 then (Prog.fault (.noSuchUnit m))
   else .get fun s =>
    .when (s.mcore m == 1 && segmentGood s m) (.seq [
      appendLog m 0x10 3 (leBytes 1 m ++ leBytes 1 (AMap.get 0 s.mcores.cause m) ++ leBytes 8 (AMap.get 0 s.mcores.stopAt m) ++ leBytes 8 s.waferTime),
      .one (.deferred m []), .each (AMap.get [] s.deferred m) fun d => appendLog m d.1 d.2.1 d.2.2,
      setReg 0x8010 (m + 1) 0, .when (m = 4) sendMissedEvents, restartTicks m,
      setMcores fun x => { x with taken := AMap.put none x.taken m ((AMap.get [] x.mail m).getLast?.or (AMap.get none x.taken m)), mail := AMap.put [] x.mail m [] },
      mcoreReturns m])).run s

end Sys2Proof.Machine
end

