-- ==== Sys2Proof/Machine/Inputs.lean ====
section
/-! DEFINITION. Input failures, thermal trips, lost references and contacts (R325, R327, R329, R331, R342, R371, R374, R403, R417). -/

namespace Sys2Proof.Machine

/-! ### INPUT_FAIL and INPUT_OVERVOLTAGE (R342) -/

/-- Every field and edge domain goes off and the module stops; only a cold start brings it back. -/
def powerDown : Prog :=
  .get fun s => .seq [clearWafer, clearService, cutCommit, .ups [.beat Beat.reset, .boot { Boot.reset with report := s.boot.report, lowSince := s.boot.lowSince }, .calib { s.calib with mask := 0, mode := 0, waiting := 0, restoring := [], lost := 0 }, .power { s.power with unseen := [] }],
    setDomains (List.range 219) domOff, setRegs 0x8010 (List.replicate 6 2), setReg 0x4002 0 0, setReg 0x4000 0 0, setRegs 0x1400 [0, 0],
    setRegs 0x9010 (List.replicate 32 lkOff), setReg 0x9003 0 1, setReg 0x9005 0 0]

/-- INPUT_FAIL: 0 low voltage, 1 PRESENT_N released, 2 the auxiliary converter. -/
def execInputFail (cause : Nat) (s : State) : Host.Outcome State Fault Refusal :=
  (if cause > 2 then (Prog.fault (.noSuchUnit cause)) else (appendLog srcBlock 0x25 5 (leBytes 1 cause)).andThen powerDown).run s

/-- INPUT_OVERVOLTAGE: the input switch opens. -/
def execInputOvervoltage (s : State) : Host.Outcome State Fault Refusal := ((appendLog srcBlock 0x25 5 (leBytes 1 3)).andThen powerDown).run s

/-! ### THERMAL_TRIP (R374, R403) -/

/-- The block of an edge domain that went off is lost (R403). -/
def loseEdge (d : Nat) : Prog :=
  .get fun s =>
    if d < 192 then .each [2 * (d - 176), 2 * (d - 176) + 1] fun l => .get fun s =>
      if s.linkState l == lkUp || s.linkState l == lkSpare then linkFails l else .when (s.linkState l != lkOff) (setLinkState l lkDown)
    else if d < 216 then .seq [setReg 0x4012 (d - 192 + 1) 1, .when (s.reg 0x4000 = 1) (setReg 0x4000 0 2)]
    else if d < 218 then portDown (d - 216)
    else if d = 218 then .seq [abortMain, unloadNow 0, unloadNow 1, setReg 0x4000 0 3, setReg 0x4002 0 stepFailed]
    else powerDown

/-- THERMAL_TRIP: a field diode's comparator cuts the logic rail, an edge diode's its domain, without firmware; a retired diode's comparator is disabled (R351, R374). -/
def execThermalTrip (sensor : Nat) (edge : Bool) (s : State) : Host.Outcome State Fault Refusal :=
  (if sensor ≥ (if edge then 44 else 352) then (Prog.fault (.noSuchUnit sensor))
   else .get fun s =>
    let count : Prog := (addReg 0x3804 0 1).andThen (appendLog srcBlock 0x37 5 (leBytes 2 sensor ++ leBytes 1 (boolNat edge)))
    if edge then .seq [count, domainBecomes (176 + sensor) domOff, loseEdge (176 + sensor)]
    else .when (s.reg 0x3803 (sensor + 1) != 2) (if s.domain (sensor / 4) == domIsolated then count else
      .seq [count, domainBecomes (sensor / 4) domOff, loseField (sensor / 4) false])).run s

/-! ### References and contacts -/

/-- REF_LOST: 0 REF10M, which goes to HOLDOVER, breaks a group and stops a timebase measurement, whose run ends with CAL_DISAGREE (log 198); 1 REFPPS. -/
def execRefLost (input : Nat) (s : State) : Host.Outcome State Fault Refusal :=
  (if input > 1 then (Prog.fault (.noSuchUnit input))
   else .get fun s => .when (bit (s.reg 0x1020) input) (.seq [setInputBit input false, addReg 0x300A 0 1, appendLog srcRoot 0x3C 4 (leBytes 1 input),
    .when (input = 0) (.seq [.when (s.reg 0x3000 = 1) (setReg 0x3000 0 2), breakGroup, .when (s.reg 0x9005 = 1) (failGroup 1 0xFF 0xFF),
      .get fun s => .when (bit s.calib.mask gTimebase) (setCalib fun c => { c with lost := c.lost ||| 2 ^ gTimebase })])])).run s

/-- CABLE_PRESENT_CHANGE: the contact of a chip-link connector. -/
def execCablePresentChange (l : Nat) (present : Bool) (s : State) : Host.Outcome State Fault Refusal :=
  (if l ≥ 32 then (Prog.fault (.noSuchUnit l)) else setMaskBit 0x1021 l present).run s

/-- CALV_LOST: the reference as measured; outside 2.49 to 2.51 V it is absent and CURRENT and VSENSE measure nothing more, so that their run ends with CAL_DISAGREE (log 198), inside it is present again (R331, R417). -/
def execCalvLost (mv : Nat) (s : State) : Host.Outcome State Fault Refusal :=
  (if 2490 ≤ mv && mv ≤ 2510 then Prog.seq [setInputBit 2 true, setReg 0x700A 0 (f32Rat mv 1000)]
   else .seq [setInputBit 2 false, setReg 0x700A 0 (f32Rat mv 1000),
    setCalib fun c => { c with lost := c.lost ||| c.mask % 4 }]).run s

end Sys2Proof.Machine
end

