-- ==== Sys2Proof/Machine/Perf.lean ====
section
/-! DEFINITION. Performance counters and sampling (R419 to R431). -/

namespace Sys2Proof.Machine

/-! ### Targets (R431) -/

/-- A target word: kind, field, row, column. -/
def tgKind (w : Nat) : Nat := bits w 31 30
def tgField (w : Nat) : Nat := bits w 29 23
def tgKey (w : Nat) : Nat := bits w 29 23 * 1024 + bits w 22 18 * 32 + bits w 17 13

/-- The cores of a target word. -/
def tgCores (w : Nat) : List Nat :=
  let fieldKeys (f : Nat) : List Nat := (List.range 576).map fun i => f * 1024 + i / 24 * 32 + i % 24
  if tgKind w = 0 then [tgKey w]
  else if tgKind w = 1 then fieldKeys (tgField w)
  else if tgKind w = 2 then (List.range 80).flatMap fieldKeys
  else []

def tgValid (w : Nat) : Bool :=
  if tgKind w = 0 then (CoreId.ofKey (tgKey w)).valid
  else if tgKind w = 1 then tgField w < 80
  else if tgKind w = 2 then true
  else tgField w < 88

/-- A target word: a unit that exists, and the other bits zero (R431). -/
def tgGood (w : Nat) : Bool := tgValid w && bits w 12 0 == 0

/-- Select words with no reserved event, no CHAIN on counter 0 and no reserved bit (R420, R421, R424). -/
def selectGood (ws : List Nat) (events : Nat) : Bool :=
  ws.zipIdx.all fun w => bits w.1 31 24 < events && bits w.1 21 0 == 0 && !(w.2 == 0 && bit w.1 22)

/-- A selection or a latch has not taken effect yet. -/
def perfBusy (s : State) : Bool :=
  let waits (p : PerfSet) : Bool := p.next.isSome || p.wait.isSome
  (s.cores.any fun kc => waits kc.2.perf) || s.hubs.any fun kv => waits kv.2

def setHub (p : Nat) (f : PerfSet → PerfSet) : Prog := .get fun s => .one (.hub p (f (AMap.get PerfSet.reset s.hubs p)))
def setPerf (key : Nat) (f : PerfSet → PerfSet) : Prog := .get fun s => setCore key { s.core key with perf := f (s.core key).perf }

/-- PERF_APPLY: the target's counters are cleared and its selection starts at the next segment start (R423). -/
def perfApply (k : Answer → Prog) : Prog :=
  .get fun s =>
    let w := s.reg 0x6000
    let hub := tgKind w = 3
    let sel := (List.range 8).map fun i => s.reg (if hub then 0x6002 else 0x6001) (i + 1)
    let arm (p : PerfSet) : PerfSet := { p with next := some sel, ctr := [], sticky := 0 }
    if perfBusy s then k .busy
    else if !tgGood w || !selectGood sel (if hub then 0x0A else 0x15) then k (.refuse 4)
    else .seq [if hub then setHub (tgField w) arm else .each (tgCores w) fun key => setPerf key arm, k .ok]

def execPerfApply (sid : Sid) (s : State) : Host.Outcome State Fault Refusal :=
  (ownerCmd 0x6003 sid (fun _ => .done) perfApply).run s

/-- A hub's counters up to the present cycle; those of a dark field stand still (R428). -/
def State.countedHub (s : State) (p : Nat) : PerfSet :=
  let x := AMap.get PerfSet.reset s.hubs p
  if AMap.get false s.repair.dark p || (s.logicalField p).isNone then x else x.toCycle (s.elapsed p + 1)

/-- A latch that waits for edge b takes the place of the one before. -/
def PerfSet.latchAt (p : PerfSet) (b : Nat) : PerfSet := { p with wait := some b, latch := none }

/-- PERF_SNAPSHOT: B = 0 latches at once, another B at the first segment start of that edge or a later one (R425). -/
def perfSnapshot (b : Nat) (k : Answer → Prog) : Prog :=
  .get fun s =>
    let w := s.reg 0x6000
    let hub (p : Nat) : PerfSet := if b = 0 then (s.countedHub p).latchNow s.waferTime s.beat.last else (AMap.get PerfSet.reset s.hubs p).latchAt b
    let core (key : Nat) : Core :=
      if b = 0 then { s.countedCore key with perf := (s.countedCore key).perf.latchNow s.waferTime s.beat.last }
      else { s.core key with perf := (s.core key).perf.latchAt b }
    if perfBusy s then k .busy
    else if !tgGood w || (b != 0 && b * s.period < s.waferTime + 500000) then k (.refuse 4)
    else .seq [if tgKind w = 3 then .one (.hub (tgField w) (hub (tgField w))) else .ups ((tgCores w).map fun key => .core key (core key)),
      k (if b = 0 then .ok else .later)]

def execPerfSnapshot (sid : Sid) (b : Nat) (s : State) : Host.Outcome State Fault Refusal :=
  (ownerCmd 0x6004 sid (fun _ => .done) (perfSnapshot b)).run s

/-- PERF_FIGURE_READ: 0 or 1, taken by each field at its next segment start (R427). -/
def perfFigureWrite (v : Nat) (k : Answer → Prog) : Prog := if v > 1 then k (.refuse 4) else (setReg 0x6007 0 v).andThen (k .ok)
def execPerfFigureRead (sid : Sid) (v : Nat) (s : State) : Host.Outcome State Fault Refusal :=
  (ownerWrite sid (fun _ => .done) (perfFigureWrite v)).run s

/-! ### The 88-byte record (R426) -/

/-- Some unit has latched, or waits to, since the last start. -/
def snapshotSeen (s : State) : Bool :=
  (s.cores.any fun kc => kc.2.perf.latch.isSome || kc.2.perf.wait.isSome) || s.hubs.any fun kv => kv.2.latch.isSome || kv.2.wait.isSome

/-- The record of the unit a select word names.  DEDUCED (log 176): a unit that has not latched has flag bit 1 set (R425); until the first snapshot after a start, the default select word reads 88 zero bytes as R431's table gives them. -/
def perfRecord (s : State) (w : Nat) : List Byte :=
  let hub := tgKind w = 3
  let p := if hub then AMap.get PerfSet.reset s.hubs (tgField w) else (s.core (tgKey w)).perf
  let l := p.latch.getD ⟨0, 0, [], 0, p.cleared⟩
  let unlatched : Bool := p.latch.isNone && (w != 0 || p.cleared || snapshotSeen s)
  leBytes 8 l.time ++ leBytes 8 l.beat ++ leBytes 1 (tgKind w) ++
    (if hub then leBytes 1 (tgField w) ++ leBytes 1 31 ++ leBytes 1 31 else locBytes (tgKey w)) ++
    leBytes 1 l.sticky ++ leBytes 1 (boolNat l.cleared + 2 * boolNat unlatched) ++ leBytes 2 0 ++
    (List.range 8).flatMap fun k => leBytes 8 (l.values.getD k 0)

/-! ### Sampling (R429, R430) -/

/-- The cores SAMPLE_TARGETS names. -/
def sampleTargets (s : State) : List Nat :=
  ((List.range (min 64 (s.reg 0x600A 0))).map fun i => s.reg 0x600A (i + 1)).filterMap fun w =>
    if tgKind w = 0 && tgGood w then some (tgKey w) else none

def sampling (s : State) : Bool := bit (s.reg 0x6008) 8

/-- The n-th interval of a core's sampler, in cycles. -/
def sampleInterval (s : State) (key n : Nat) : Nat :=
  let e := s.reg 0x6008 % 32
  2 ^ (e - 1) + splitMix (s.reg 0x6009 ^^^ key) n % 2 ^ e

/-- The cycle of the present segment that a core has come to. -/
def State.corePosition (s : State) (key : Nat) : Nat :=
  let c := s.core key
  max (if c.run == .issuing then c.cycle else 0) (s.elapsed (s.physField (key / 1024)) + if c.owes then c.owedCyc else 0)

/-- A core's sampler begins an interval now (R429). -/
def beginInterval (key n : Nat) : Prog :=
  .get fun s => setCore key { s.core key with tagAt := some (s.corePosition key + sampleInterval s key n), tag := none }

/-- The samplers of these cores start at their first interval; those of every other core end (R429). -/
def startSamplers (keys : List Nat) : Prog :=
  .get fun s => .seq [
    .ups ((s.cores.filter fun kc => kc.2.tagAt.isSome || kc.2.tag.isSome).map fun kc => .core kc.1 { kc.2 with tagAt := none, tag := none }),
    .one (.sampler { s.sampler with draws := keys.foldl (fun m key => AMap.put 0 m key 1) [] }),
    .each keys fun key => beginInterval key 0]

/-- SAMPLE_CONFIG: n from 8 to 20; setting EN starts every target's sampler at its first interval (R429, R431). -/
def sampleConfigWrite (v : Nat) (k : Answer → Prog) : Prog :=
  let n := v % 32
  if n < 8 || n > 20 || v - v / 256 % 2 * 256 != n then k (.refuse 4)
  else .seq [setReg 0x6008 0 v, .get fun s => startSamplers (if sampling s then (sampleTargets s).eraseDups else []), k .ok]

def execSampleConfig (sid : Sid) (v : BitVec 32) (s : State) : Host.Outcome State Fault Refusal :=
  (ownerWrite sid (fun _ => .done) (sampleConfigWrite v.toNat)).run s

/-- A completion field of a record: 0 for a no-operation step, 0xFFFF for one that a hold interrupted, else the cycles the step took, which come with the event (R430). -/
def completionBytes (t : SampleTag) (rec_ : List Byte) (n : Nat) : List Byte :=
  if bit t.noops n then [0, 0] else if bit t.causes 5 then [0xFF, 0xFF] else slice rec_ (24 + 2 * n) 2

/-- The record of a tagged word (R430). -/
def sampleBytes (key : Nat) (t : SampleTag) (rec_ : List Byte) : List Byte :=
  leBytes 2 t.pc ++ locBytes key ++ leBytes 1 t.causes ++ leBytes 1 t.preds ++ leBytes 1 t.suppressed ++ leBytes 8 t.beat ++
    leBytes 4 t.ready ++ leBytes 4 t.hold ++ (List.range 4).flatMap (completionBytes t rec_)

/-- SAMPLE_TAG: the record of the word that the sampler tagged is complete: it joins the core's buffer of 16, or is dropped and counted; the next interval starts (R429).  A core whose sampler has tagged no word, or whose tagged word has not issued, has no record yet. -/
def execSampleTag (c : CoreId) (rec_ : BitVec 256) (s : State) : Host.Outcome State Fault Refusal :=
  (withCore c fun core => .get fun s =>
    match core.tag with
    | some t => .when (sampling s && (sampleTargets s).contains c.key && t.issued)
      (.seq [if core.samples.length < 16 then
          setCore c.key { core with samples := core.samples ++ [BitVec.ofNat 256 (leNat (sampleBytes c.key t (leBytes 32 rec_.toNat)))] }
        else addReg 0x600D 0 1,
        .get fun s =>
          let n := AMap.get 0 s.sampler.draws c.key
          (Prog.one (.sampler { s.sampler with draws := AMap.put 0 s.sampler.draws c.key (n + 1) })).andThen (beginInterval c.key n)])
    | none => .done).run s

/-- The place of record n in the sample ring. -/
def sampleAddr (n : Nat) : Nat := 0x0F400000 + 32 * (n % 32768)

/-- SAMPLE_DRAIN: M4 moves every buffer into the ring (R429). -/
def drainCore (key : Nat) : Prog :=
  .get fun s =>
    let c := s.core key
    .seq [.each c.samples fun r => .get fun s =>
        .ups ([.sm (sampleAddr s.sampler.head) (leBytes 32 r.toNat), .sampler { s.sampler with head := s.sampler.head + 1 }] ++
          (List.range 4).map fun w => .smBad (sampleAddr s.sampler.head / 8 + w) false),
      .when (!c.samples.isEmpty) (setCore key { c with samples := [] })]

def execSampleDrain (s : State) : Host.Outcome State Fault Refusal :=
  (periodic 4 tkSample 10000000 (.get fun s => .each ((s.cores.filter fun kc => !kc.2.samples.isEmpty).map (·.1)) drainCore)).run s

/-- SAMPLE_VIEW: up to 256 records from a selected one on, the oldest held if that is gone (R429). -/
def sampleView (s : State) (sel : Nat) : List Byte :=
  let first := max sel (s.sampler.head - 32768)
  (List.range (min 256 (s.sampler.head - first))).flatMap fun i => Mem.read s.sm (sampleAddr (first + i)) 32

/-- Before a view is answered each unreadable record in it is counted as dropped (R49).  DESIGN CHOICE: a dropped record reads as 32 zero bytes from then on, and its words are logged by M4. -/
def dropSamples (sel : Nat) : Prog :=
  .get fun s =>
    let first := max sel (s.sampler.head - 32768)
    .each (List.range (min 256 (s.sampler.head - first))) fun i =>
      let a := sampleAddr (first + i)
      .when (s.badWords a 32 != []) (.seq [addReg 0x600D 0 1, logBadWords 4 a 32, .one (.sm a (List.replicate 32 0))])

end Sys2Proof.Machine
end

