-- ==== Sys2Proof/Machine/Dict.lean ====
section
/-! DEFINITION. The object dictionary on COL: reads, writes, their dispatch to the entries' own rules, and the measurement report (R12 to R14, R287, R292 to R294, R297, R307). -/

namespace Sys2Proof.Machine

/-! ### Which entries a session sees (R12, R293, R297) -/

/-- The feature an entry belongs to. -/
def entryFeature (idx : Nat) : Option Nat :=
  if 0x5420 ≤ idx && idx ≤ 0x5422 then some 3
  else if idx = 0x5020 || idx = 0x5021 then some 4
  else if 0x9000 ≤ idx && idx ≤ 0x9021 then some 5
  else if idx = 0x1410 || idx = 0x1411 then some 8
  else none

/-- Sub-indexes of an entry: an array has its count and its elements, any other entry only 0. -/
def subOk (r : RegRow) (sub : Nat) : Bool := sub = 0 || (r.kind == .arr && sub ≤ r.count && sub < 256)

/-- The row of an entry that a session with some features sees; none for a reserved index. -/
def visibleRow (features idx sub : Nat) : Option RegRow :=
  match dictRow? idx with
  | some r => if (match entryFeature idx with
      | some b => bit features b
      | none => true) && subOk r sub then some r else none
  | none => none

/-- How an access to a reserved index is answered (R12).  DESIGN CHOICE: a sub-index that an entry does not have, and an index outside every listed range, are answered like an index that no entry has. -/
def reservedAnswer (s : State) (sid : Nat) : Answer := if s.owns sid then .refuse 1 else .notOwner

/-! ### Reading -/

/-- Seconds since a calibration group's last agreed run (R418). -/
def calAge (s : State) (g : Nat) : Nat :=
  let t := AMap.get 0 s.calib.agreed g
  if t = 0 then 0xFFFFFFFF else (s.waferTime - (t - 1)) / 1000000000

/-- COUNT_BY_STATE: entries of a state (R241). -/
def countByState (s : State) (st : Nat) : Nat := (List.range 16384).countP fun e => s.est e == st

/-- The number an element reads as; some are computed when they are read. -/
def readNum (s : State) (x : Session) (idx sub : Nat) : Nat :=
  if idx = 0x1101 then x.features
  else if idx = 0x1202 then (if s.owner.sid = 0 then 0 else min 0xFFFF ((s.owner.leaseEnd - s.now) / 1000000))
  else if idx = 0x3001 then s.waferTime
  else if idx = 0x3002 then s.waferTime / max 1 s.period
  else if idx = 0x5012 && sub != 0 then countByState s (sub - 1)
  else if idx = 0x7007 && sub != 0 then calAge s (sub - 1)
  else if idx = 0x6005 || idx = 0x600B || idx = 0x8021 then AMap.get 0 x.sel idx
  else s.reg idx sub

/-- Element `sub` of an array; elements beyond the count read as zero (R294). -/
def readElem (s : State) (x : Session) (r : RegRow) (idx sub : Nat) : List Byte :=
  leBytes r.bytes (if sub > s.reg idx 0 then 0 else readNum s x idx sub)

/-- The bytes of a byte-string entry. -/
def readBlob (s : State) (x : Session) (idx : Nat) : List Byte :=
  if idx = 0x1000 then ascii "Krevin Devices"
  else if idx = 0x1001 then ascii "Crilys SW7"
  else if idx = 0x1406 then (if s.blob idx = [] then List.replicate 32 0 else s.blob idx)
  else if idx = 0x4006 then repairMap s
  else if idx = 0x5011 then Mem.read s.sm (cardA (s.reg 0x5010)) 64
  else if idx = 0x6006 then perfRecord s (AMap.get 0 x.sel 0x6005)
  else if idx = 0x600C then sampleView s (AMap.get 0 x.sel 0x600B)
  else if idx = 0x7003 then calSet s
  else if idx = 0x8022 then logView s (AMap.get 0 x.sel 0x8021)
  else if idx = 0x8032 then (Config.traceCatalogue (slotDigest s s.flash.running)).take 65535
  else if 0xA010 ≤ idx && idx ≤ 0xA012 then (if s.blob idx = [] then List.replicate 32 0 else s.blob idx)
  else s.blob idx

/-- The whole value of an element.  Sub-index 0 of an array is its count as U8; an array whose elements do not all have a U8 sub-index is read on from an element to its end. -/
def readValue (s : State) (x : Session) (r : RegRow) (idx sub : Nat) : List Byte :=
  match r.kind with
  | .num => leBytes r.bytes (readNum s x idx 0)
  | .arr =>
    if sub = 0 then leBytes 1 (s.reg idx 0)
    else if r.count ≤ 255 then readElem s x r idx sub
    else (List.range' sub (r.count + 1 - sub)).flatMap (readElem s x r idx)
  | .cmd => leBytes 1 (s.reg idx 0)
  | _ => readBlob s x idx

/-- The answer to a read: from the offset on, at most the maximum length (R293, R294). -/
def readAnswer (s : State) (i : Nat) (e : ReadEntry) : Answer × Nat × List Byte :=
  let x := s.session false i
  match visibleRow x.features e.idx e.sub with
  | none => (reservedAnswer s (x.sid i), 0, [])
  | some r =>
    let v := readValue s x r e.idx e.sub
    if e.offset > v.length then (.refuse 5, v.length, []) else (.ok, v.length, (v.drop e.offset).take e.maxLen)

/-- A value cut to the room left in a response; its padding fits too. -/
def cutTo (room : Nat) (v : List Byte) : List Byte := if v.length + (4 - v.length % 4) % 4 ≤ room then v else v.take (room / 4 * 4)

/-- The entries of a READ in order: what does not fit is shortened, and entries that do not fit at all are left out (R287).  A view of the log rewrites what it found unreadable (R319), a view of the samples drops it (R49); a view of an entry is read after the cores have mended it (R240). -/
def readGo (i reqSeq tag : Nat) : List ReadEntry → Nat → Nat → List Byte → Prog
  | [], n, _, acc => respond i reqSeq 0x12 0 (respBody tag n acc)
  | e :: es, n, room, acc =>
    if room < 12 then respond i reqSeq 0x12 0 (respBody tag n acc)
    else (Prog.when (e.idx = 0x5011) (served .done)).andThen <| (Prog.when (e.idx = 0x600C) (.get fun s => dropSamples (AMap.get 0 (s.session false i).sel 0x600B))).andThen <| .get fun s =>
      let a := readAnswer s i e
      let b := respEntry e.idx e.sub a.1 a.2.1 (cutTo (room - 12) a.2.2)
      .seq [.when (e.idx = 0x8022) (rewriteLost (AMap.get 0 (s.session false i).sel 0x8021)), readGo i reqSeq tag es (n + 1) (room - b.length) (acc ++ b)]

/-- The payload that fits a response on every path of a session, so that it can be sent again on each (R287, R291). -/
def respRoom (s : State) (i : Nat) : Nat :=
  let x := s.session false i
  x.paths.foldl (fun n kv => match kv.2 with
    | some a => min n (s.lenMax a.1)
    | none => n) (s.lenMax ((AMap.get none x.paths x.cur).getD (0, 0)).1) - 8

/-- COL_READ; a count outside 1 to 32 is answered with nothing. -/
def execColRead (rx : Rx) (tag : Nat) (entries : List ReadEntry) (s : State) : Host.Outcome State Fault Refusal :=
  (receiveCol rx true fun i => .when (1 ≤ entries.length && entries.length ≤ 32)
    (.get fun s => readGo i rx.seq tag entries 0 (respRoom s i) [])).run s

/-! ### Writing numbers -/

/-- A value within a range is stored, any other refused. -/
def rangedWrite (idx sub n lo hi : Nat) (k : Answer → Prog) : Prog :=
  if n < lo || n > hi then k (.refuse 4) else (setReg idx sub n).andThen (k .ok)

/-- A positive, finite F32 (R339). -/
def f32Positive (x : Nat) : Bool := match Fmt.fp32.decode x with
  | .fin neg m _ => !neg && m != 0
  | _ => false

/-- A unit that a reading selector or a sampling target may name: kind 0 or 3 (R431). -/
def unitWord (w : Nat) : Bool := (tgKind w == 0 || tgKind w == 3) && tgGood w

/-- Targets named anew start their sampler, targets named no longer end it (R429). -/
def retarget : Prog :=
  .get fun s => .when (sampling s) (
    let ts := sampleTargets s
    let new := ts.filter fun key => AMap.get 0 s.sampler.draws key == 0
    .seq [.ups ((s.cores.filter fun kc => !ts.contains kc.1 && (kc.2.tagAt.isSome || kc.2.tag.isSome)).map fun kc => .core kc.1 { kc.2 with tagAt := none, tag := none }),
      .one (.sampler { s.sampler with draws := new.foldl (fun m key => AMap.put 0 m key 1) (s.sampler.draws.filter fun kv => ts.contains kv.1) }),
      .each new.eraseDups fun key => beginInterval key 0])

/-- A number is written to an element of an owner's entry: judged by the entry's own rule, or stored. -/
def setElem (idx sub n : Nat) (k : Answer → Prog) : Prog :=
  let store : Prog := (setReg idx sub n).andThen (k .ok)
  if idx = 0x1401 then portRate (sub - 1) n k
  else if idx = 0x1402 then rangedWrite idx sub n 0 (2 ^ 48 - 1) k
  else if idx = 0x1407 then rangedWrite idx sub n 1280 9198 k
  else if idx = 0x1408 then rangedWrite idx sub n 1000 60000 k
  else if idx = 0x1410 then macsecMode (sub - 1) n k
  else if idx = 0x2000 then ledgerLimitWrite n k
  else if idx = 0x3007 then stepMaxWrite (sub - 1) n k
  else if idx = 0x3802 then rangedWrite idx sub n 85 105 k
  else if idx = 0x3884 then (if f32Positive n then store else k (.refuse 4))
  else if idx = 0x6000 then (if tgGood n then store else k (.refuse 4))
  else if idx = 0x6001 || idx = 0x6002 then
    (if selectGood (List.replicate (min 1 (sub - 1)) 0 ++ [n]) (if idx = 0x6002 then 0x0A else 0x15) then store else k (.refuse 4))
  else if idx = 0x6007 then perfFigureWrite n k
  else if idx = 0x6008 then sampleConfigWrite n k
  else if idx = 0x600A then (if unitWord n then .seq [setReg idx sub n, retarget, k .ok] else k (.refuse 4))
  else if idx = 0x7008 then (if 1 ≤ n && n ≤ 59 then k (.refuse 4) else store)
  else if idx = 0x9020 then linkEnableWrite n k
  else store

/-- The count of a writable array: elements beyond it are written with zero by their own rule (R294). -/
def setCount (idx count n : Nat) (k : Answer → Prog) : Prog :=
  if n > count then k (.refuse 4)
  else .seq [.get fun s => .each ((List.range' (n + 1) (count - n)).filter fun i => s.reg idx i != 0) fun i => setElem idx i 0 fun _ => .done,
    setReg idx 0 n, .when (idx = 0x600A) retarget, k .ok]

/-- A byte string of an owner's entry. -/
def setBlob (idx : Nat) (v : List Byte) (k : Answer → Prog) : Prog :=
  if (idx = 0x1406 && v.length != 32) || (idx = 0x1409 && (v.length % 18 != 0 || v.length > 72)) then k (.refuse 2)
  else (Prog.one (.blob idx v)).andThen (k .ok)

/-- A value written to an owner's entry; its length is that of the type (R293). -/
def setValue (r : RegRow) (idx sub : Nat) (v : List Byte) (k : Answer → Prog) : Prog :=
  match r.kind with
  | .num => if v.length = r.bytes then setElem idx 0 (leNat v) k else k (.refuse 2)
  | .arr =>
    if sub = 0 then (if v.length = 1 then setCount idx r.count (leNat v) k else k (.refuse 2))
    else if v.length = r.bytes then setElem idx sub (leNat v) k else k (.refuse 2)
  | _ => setBlob idx v k

/-- A selector that any client writes: its own copy, ENTRY_SELECT aside, which all share. -/
def setSelector (r : RegRow) (idx sid : Nat) (v : List Byte) (k : Answer → Prog) : Prog :=
  let n := leNat v
  if v.length != r.bytes then k (.refuse 2)
  else if idx = 0x5010 then rangedWrite idx 0 n 0 16383 k
  else if idx = 0x6005 && !unitWord n then k (.refuse 4)
  else .get fun s => match s.colSid sid with
    | some i =>
      let x := s.session false i
      (setSession false i { x with sel := AMap.put 0 x.sel idx n }).andThen (k .ok)
    | none => k .ok

/-! ### Writing commands -/

/-- The arguments of a command must have its length. -/
def withLen (v : List Byte) (n : Nat) (k : Answer → Prog) (p : Prog) : Prog := if v.length = n then p else k (.refuse 2)

/-- MACSEC_SAK: SSCI and salt travel in mode 2 only. -/
def sakArgs (v : List Byte) (k : Answer → Prog) : Prog :=
  .get fun s =>
    let e := field v 0 1
    let mode := s.reg 0x1410 (e + 1)
    if v.length = 51 && mode != 1 then macsecSak e (field v 1 1) (field v 2 1) (field v 3 32) (field v 35 4) (field v 39 12) k
    else if v.length = 35 && mode != 2 then macsecSak e (field v 1 1) (field v 2 1) (field v 3 32) 0 0 k
    else k (.refuse 2)

/-- A write of a CMD entry starts its command; the hold-up time that a flash program measures is open here. -/
def cmdWrite (idx : Nat) (v : List Byte) (k : Answer → Prog) : Prog :=
  if idx = 0x1301 then withLen v 69 k (drawFree fun us => keyEnroll (field v 0 1) (slice v 1 68) (us % 2 ^ 32) k)
  else if idx = 0x1302 then withLen v 1 k (drawFree fun us => keyRevoke (field v 0 1) (us % 2 ^ 32) k)
  else if idx = 0x1303 then withLen v 0 k (enrollClose k)
  else if idx = 0x1411 then sakArgs v k
  else if idx = 0x3811 then withLen v 5632 k (rainflowLoad ((List.range 1408).map fun i => field v (4 * i) 4) k)
  else if idx = 0x3893 then withLen v 0 k (coolingBaseline k)
  else if idx = 0x4005 then startAssist v k
  else if idx = 0x4010 then withLen v 2 k (fieldBist (field v 0 1) (field v 1 1) k)
  else if idx = 0x5003 then withLen v 4 k (tenantLimitSet (field v 0 2) (field v 2 2) k)
  else if idx = 0x5020 then withLen v 2 k (pauseExport (field v 0 2) k)
  else if idx = 0x5021 then withLen v 2 k (pauseImport (field v 0 2) k)
  else if idx = 0x5420 then withLen v 18 k (tenantSaltSet (field v 0 2) (field v 2 16) k)
  else if idx = 0x5422 then withLen v 2 k (prefixFlush (field v 0 2) k)
  else if idx = 0x5500 then withLen v 39 k (tableLoad (field v 0 1) (field v 1 2) (field v 3 4) (slice v 7 32) k)
  else if idx = 0x6003 then withLen v 0 k (perfApply k)
  else if idx = 0x6004 then withLen v 8 k (perfSnapshot (field v 0 8) k)
  else if idx = 0x7001 then withLen v 2 k (calRun (field v 0 1) (field v 1 1) k)
  else if idx = 0x7004 then calRestore v k
  else if idx = 0x8004 then (if v.length < 4 then k (.refuse 2) else fwStage (field v 0 4) (v.drop 4) k)
  else if idx = 0x8005 then withLen v 32 k (fwCommit (BitVec.ofNat 256 (leNat v)) k)
  else if idx = 0x8006 then withLen v 0 k (fwConfirm k)
  else if idx = 0x8012 then withLen v 1 k (mcoreRestart (field v 0 1) k)
  else if idx = 0x9000 then withLen v 6 k (groupForm (field v 0 4) (field v 4 1) (field v 5 1) k)
  else if idx = 0x9001 then withLen v 0 k (groupLeave k)
  else if idx = 0x9021 then withLen v 1 k (linkRestore (field v 0 1) k)
  else if idx = 0xA000 then withLen v 38 k (loadWrite (field v 0 1) (slice v 1 32) (field v 33 1) (field v 34 4) k)
  else if idx = 0xA001 then withLen v 1 k (unloadWrite (field v 0 1) k)
  else if idx = 0xA002 then withLen v 0 k (swapWrite k)
  else k (.refuse 1)

/-! ### DICT_WRITE, COL_WRITE -/

/-- A write of one entry by a session (R14, R293). -/
def writeEntry (sid : Nat) (e : WriteEntry) (k : Answer → Prog) : Prog :=
  .get fun s => match s.colSid sid with
    | none => .done
    | some i =>
      match visibleRow (s.session false i).features e.idx e.sub with
      | none => servedWrite sid (k (if s.reg 0x4000 = 3 then .refuse 3 else reservedAnswer s sid))
      | some r =>
        match r.access with
        | .ro => ownerWrite sid k fun k => k (.refuse 3)
        | .rwo => ownerWrite sid k (setValue r e.idx e.sub e.value)
        | .rwa => anyWrite sid k (setSelector r e.idx sid e.value)
        | .cmd =>
          if e.idx = 0x4004 then ownerWriteAny sid k fun k => withLen e.value 1 k (startWrite (field e.value 0 1) k)
          else ownerCmdAt (cmdKey e.idx (cmdUnit e.idx e.value)) e.idx sid k (cmdWrite e.idx e.value)

/-- DICT_WRITE. -/
def execDictWrite (sid : Sid) (idx sub : Nat) (value : List Byte) (s : State) : Host.Outcome State Fault Refusal :=
  (writeEntry sid ⟨idx, sub, value⟩ fun _ => .done).run s

/-- The entries of a WRITE in order; a refused one does not stop the next.  PENDING is set when a command's status comes later (R294). -/
def writeGo (i sid reqSeq tag : Nat) : List WriteEntry → Nat → Bool → List Byte → Prog
  | [], n, pending, acc => respond i reqSeq 0x12 (2 * boolNat pending) (respBody tag n acc)
  | e :: es, n, pending, acc =>
    writeEntry sid e fun a => writeGo i sid reqSeq tag es (n + 1) (pending || a.pending) (acc ++ respEntry e.idx e.sub a 0 [])

/-- COL_WRITE; a count outside 1 to 32 is answered with nothing. -/
def execColWrite (rx : Rx) (tag : Nat) (entries : List WriteEntry) (s : State) : Host.Outcome State Fault Refusal :=
  (receiveCol rx true fun i => .when (1 ≤ entries.length && entries.length ≤ 32) (writeGo i rx.sid rx.seq tag entries 0 false [])).run s

/-! ### MEASURE (R307) -/

/-- Digests of a slot: choreography, then manifest; zero for an empty slot. -/
def slotDigests (s : State) (slot : Nat) : List Byte :=
  let m := s.model slot
  if m.held then slice m.digest 0 32 ++ shake256 32 m.manifest else List.replicate 64 0

/-- The digest over every loaded table, in kind then id order. -/
def tableDigest (s : State) : List Byte :=
  shake256 32 (s.tables.digests.flatMap fun kv => leBytes 1 (kv.1 / 65536) ++ leBytes 2 (kv.1 % 65536) ++ slice kv.2 0 32)

/-- The measurement report. -/
def report (s : State) (nonce : List Byte) : List Byte :=
  ascii "CRMR" ++ leBytes 2 1 ++ leBytes 1 (s.reg 0x1002) ++ leBytes 1 (boolNat s.windowOpen + 2 * s.flash.running) ++ nonce ++
    leBytes 8 s.waferTime ++ leBytes 32 Config.romDigest.toNat ++ slice (slotDigest s s.flash.running) 0 32 ++
    ((List.range 16).flatMap fun i => leBytes 8 (s.reg 0x1304 (i + 1))) ++
    slotDigests s 0 ++ slotDigests s 1 ++ slotDigests s 2 ++ tableDigest s ++ List.replicate 16 0

/-- MEASURE. -/
def execMeasure (rx : Rx) (nonce : BitVec 256) (s : State) : Host.Outcome State Fault Refusal :=
  (receiveCol rx true fun i => .get fun s => respond i rx.seq 0x32 0 (report s (leBytes 32 nonce.toNat))).run s

end Sys2Proof.Machine
end

