-- ==== Sys2Proof/Machine/Served.lean ====
section
/-! DEFINITION. Commands that serve: what CSP clients send, the request and transmit rings, reclaimed entries, page reloads, the prefix tree and the tenants (R48, R168, R178, R222, R223, R231, R241, R298 to R301). -/

namespace Sys2Proof.Machine

/-! ### CSP datagrams -/

def onAckCsp (i : Nat) (ms : List SentMsg) : Prog := served (.each ms (ackStatus i))

/-- A CSP datagram. -/
def receiveCsp (rx : Rx) (sequenced : Bool) (body : Nat → Prog) : Prog := receive true rx sequenced onAckCsp body

def execCspAck (rx : Rx) (s : State) : Host.Outcome State Fault Refusal := (receiveCsp rx false fun _ => .done).run s

def execRequest (rx : Rx) (m : ReqMsg) (s : State) : Host.Outcome State Fault Refusal := (receiveCsp rx true fun i => served (requestMsg i rx.path.port m)).run s

def execCancel (rx : Rx) (tag : Nat) (s : State) : Host.Outcome State Fault Refusal := (receiveCsp rx true fun i => served (cancelTag i (tag % 2 ^ 32))).run s

def execCspClose (rx : Rx) (s : State) : Host.Outcome State Fault Refusal := (receiveCsp rx true fun i => served (endCsp i)).run s

/-- SESSION_TIMEOUT: nothing valid has come for SESSION_TIMEOUT_MS; a session whose backlog would have overflowed ends at once. -/
def execSessionTimeout (csp : Bool) (sid : Sid) (s : State) : Host.Outcome State Fault Refusal :=
  (Prog.get fun s =>
    let i := sid % 65536
    let x := s.session csp i
    .when (i < sessionsMax csp && x.live && x.sid i == sid && s.served csp) (.seq [
      .when (!x.lost) (.one (.time (x.lastRx + s.reg 0x1408 * 1000000))), if csp then served (endCsp i) else endCol i])).run s

/-! ### Records and entries -/

/-- REQUEST_TAKE: the next record that waits; an uncorrectable word of it or of its prompt is logged with its address (R49). -/
def execRequestTake (s : State) : Host.Outcome State Fault Refusal :=
  (served <| .get fun s => match findFrom (fun n => AMap.get 0 s.serving.ring (n % 16384) == 1) (ringUsed s 0) (ringCons s 0) with
    | none => .done
    | some n =>
      let a := arrivalOf s n
      .seq [setRingCons 0 ((n + 1) % 2 ^ 32), logBadWords (dutySrc dutyServing) (requestAddr a.rec_) 64,
        logBadWords (dutySrc dutyServing) (promptAddr a.place) (4 * a.prompt),
        match arrivalRefusal s a, s.freeEntry with
        | some r, _ => refuseArrival a r.1 r.2
        | none, some e => enter a e
        | none, none => .done]).run s

/-- QUEUED_RESEND: 250 ms after the last QUEUED, and only for a new place. -/
def execQueuedResend (e : Nat) (s : State) : Host.Outcome State Fault Refusal :=
  (if e ≥ 16384 then (Prog.fault (.noSuchUnit e))
   else served <| .get fun s => .when (s.est e == stQueued && (s.req e).live) (.seq [.one (.time ((s.req e).qsent + 250000000)),
      .get fun s => .when (s.queuePlace e != (s.req e).qpos) (sendQueued e)])).run s

/-- ENTRY_RECLAIM_TIMEOUT: 2 s after RETIRED. -/
def execEntryReclaimTimeout (e : Nat) (s : State) : Host.Outcome State Fault Refusal :=
  (if e ≥ 16384 then (Prog.fault (.noSuchUnit e))
   else served <| .get fun s => .when (s.est e == stRetired && (s.req e).live) ((Prog.one (.time ((s.req e).retiredAt + 2000000000))).andThen (freeEntry e))).run s

/-- TRANSMIT_RECORD: a transmit engine takes the next record into its session's send state; a waiting record takes the place it frees. -/
def execTransmitRecord (port : Nat) (s : State) : Host.Outcome State Fault Refusal :=
  (if port > 1 then (Prog.fault (.noSuchUnit port))
   else served <| .get fun s =>
    .when (ringUsed s 1 > 0) (
      let a := txAddr (ringCons s 1)
      let i := Mem.nat s.sm a 2
      .seq [setRingCons 1 (ringCons s 1 + 1), logBadWords (dutySrc dutyServing) a 128, sendMsg true i (Mem.nat s.sm (a + 2) 1) 0 (Mem.read s.sm (a + 4) (Mem.nat s.sm (a + 3) 1)),
        .get fun s => match s.serving.outbox with
          | [] => .done
          | r :: rs => .seq [setServing fun v => { v with outbox := rs }, .one (.sm (txAddr (ringProd s 1)) r), setRingProd 1 (ringProd s 1 + 1)], sakEvents])).run s

/-! ### Pages and tenants -/

/-- PAGE_RELOAD_DONE: every descriptor of the page is in its fetch ring and the fetch latency has passed since; a page that was loading is FULL, a copied page may be named; one that nobody refers to any more is freed (R166, R168). -/
def execPageReloadDone (lead : Bool) (f : Nat) (s : State) : Host.Outcome State Fault Refusal :=
  (served <| .get fun s =>
    let at_ := AMap.get 0 s.serving.loading (pageKey lead f)
    .when (at_ != 0 && at_ ≤ s.takenOf lead + 1 && !s.serving.fetchQ.any fun kv => kv.2.any fun d => d.1 == pageKey lead f) (.seq [
      setServing fun v => { v with loading := AMap.put 0 v.loading (pageKey lead f) 0 },
      .when ((s.dir lead f).state == pgLoading) ((putDir lead f fun d => { d with state := pgFull }).andThen (noteFull lead f)),
      .get fun s => .when ((s.dir lead f).refs = 0) (freeIdle lead f)])).run s

def execPrefixFlush (sid : Sid) (tenant : BitVec 16) (s : State) : Host.Outcome State Fault Refusal :=
  (ownerCmd 0x5422 sid (fun _ => .done) fun k => featureOr 3 sid k fun k => served (prefixFlush tenant.toNat k)).run s

def execTenantSaltSet (sid : Sid) (tenant : BitVec 16) (salt : BitVec 128) (s : State) : Host.Outcome State Fault Refusal :=
  (ownerCmd 0x5420 sid (fun _ => .done) fun k => featureOr 3 sid k fun k => served (tenantSaltSet tenant.toNat salt.toNat k)).run s

def execTenantLimitSet (sid : Sid) (tenant limit : BitVec 16) (s : State) : Host.Outcome State Fault Refusal :=
  (ownerCmd 0x5003 sid (fun _ => .done) fun k => served (tenantLimitSet tenant.toNat limit.toNat k)).run s

end Sys2Proof.Machine
end

