-- ==== Sys2Proof/Machine/Dispatch.lean ====
section
/-! DEFINITION. One arm per command of the table. -/

namespace Sys2Proof.Machine

def exec (i : Instr) (s : State) : Host.Outcome State Fault Refusal :=
  match i with
  | .mnop c => Sys2Proof.Machine.execMnop c s
  | .mload c h x wb out => Sys2Proof.Machine.execMload c h x wb out s
  | .mmul c h x wb ab z v1 => Sys2Proof.Machine.execMmul c h x wb ab z v1 s
  | .mout c h x ab bf v1 pred => Sys2Proof.Machine.execMout c h x ab bf v1 pred s
  | .vnop c => Sys2Proof.Machine.execVnop c s
  | .vld c vr h x imm sub => Sys2Proof.Machine.execVld c vr h x imm sub s
  | .vst c vr h x imm sub pred => Sys2Proof.Machine.execVst c vr h x imm sub pred s
  | .vlds c h x imm => Sys2Proof.Machine.execVlds c h x imm s
  | .vsst c h x imm pred => Sys2Proof.Machine.execVsst c h x imm pred s
  | .vldq c vr h x imm => Sys2Proof.Machine.execVldq c vr h x imm s
  | .vqst c vr h x imm sub pred => Sys2Proof.Machine.execVqst c vr h x imm sub pred s
  | .vspin c h x imm => Sys2Proof.Machine.execVspin c h x imm s
  | .vqend c imm => Sys2Proof.Machine.execVqend c imm s
  | .fadd c vd va vb w => Sys2Proof.Machine.execFadd c vd va vb w s
  | .fsub c vd va vb w => Sys2Proof.Machine.execFsub c vd va vb w s
  | .fmul c vd va vb w => Sys2Proof.Machine.execFmul c vd va vb w s
  | .fma c vd va vb vc w => Sys2Proof.Machine.execFma c vd va vb vc w s
  | .fmax c vd va vb w => Sys2Proof.Machine.execFmax c vd va vb w s
  | .fmin c vd va vb w => Sys2Proof.Machine.execFmin c vd va vb w s
  | .fexp c vd va w => Sys2Proof.Machine.execFexp c vd va w s
  | .frcp c vd va w => Sys2Proof.Machine.execFrcp c vd va w s
  | .frsq c vd va w => Sys2Proof.Machine.execFrsq c vd va w s
  | .fsig c vd va w => Sys2Proof.Machine.execFsig c vd va w s
  | .vsum c vd va w => Sys2Proof.Machine.execVsum c vd va w s
  | .vmaxr c vd va w => Sys2Proof.Machine.execVmaxr c vd va w s
  | .vbcst c vd va w lane => Sys2Proof.Machine.execVbcst c vd va w lane s
  | .vtopk c vd va => Sys2Proof.Machine.execVtopk c vd va s
  | .fcvt c vd va widen => Sys2Proof.Machine.execFcvt c vd va widen s
  | .anop c => Sys2Proof.Machine.execAnop c s
  | .acfg c arg => Sys2Proof.Machine.execAcfg c arg s
  | .aqld c h x => Sys2Proof.Machine.execAqld c h x s
  | .arst c slot => Sys2Proof.Machine.execArst c slot s
  | .apage c h x causal slot => Sys2Proof.Machine.execApage c h x causal slot s
  | .aout c h x slot => Sys2Proof.Machine.execAout c h x slot s
  | .amrg c h x slot => Sys2Proof.Machine.execAmrg c h x slot s
  | .anorm c h x slot => Sys2Proof.Machine.execAnorm c h x slot s
  | .dnop c => Sys2Proof.Machine.execDnop c s
  | .dcpy c hs xs hd xd n1 pred => Sys2Proof.Machine.execDcpy c hs xs hd xd n1 pred s
  | .dsend c hs xs route xd len pred => Sys2Proof.Machine.execDsend c hs xs route xd len pred s
  | .dred c hs xs route xd pred => Sys2Proof.Machine.execDred c hs xs route xd pred s
  | .dqget c hs xs route xd pred => Sys2Proof.Machine.execDqget c hs xs route xd pred s
  | .dqput c hs xs route xd len pred => Sys2Proof.Machine.execDqput c hs xs route xd len pred s
  | .dscat c hs xs route hi xi pred => Sys2Proof.Machine.execDscat c hs xs route hi xi pred s
  | .dnw c hs xs hd xd a b pred => Sys2Proof.Machine.execDnw c hs xs hd xd a b pred s
  | .dctr c h x sel pred => Sys2Proof.Machine.execDctr c h x sel pred s
  | .nop c => Sys2Proof.Machine.execNop c s
  | .wait c ctr inc => Sys2Proof.Machine.execWait c ctr inc s
  | .cset c ctr v => Sys2Proof.Machine.execCset c ctr v s
  | .tset c ctr v => Sys2Proof.Machine.execTset c ctr v s
  | .tadd c ctr v => Sys2Proof.Machine.execTadd c ctr v s
  | .rel c h => Sys2Proof.Machine.execRel c h s
  | .loop c d => Sys2Proof.Machine.execLoop c d s
  | .xset c x v => Sys2Proof.Machine.execXset c x v s
  | .xadd c x v => Sys2Proof.Machine.execXadd c x v s
  | .pset c p v => Sys2Proof.Machine.execPset c p v s
  | .arrive c e => Sys2Proof.Machine.execArrive c e s
  | .bwait c e => Sys2Proof.Machine.execBwait c e s
  | .cadd c e imm => Sys2Proof.Machine.execCadd c e imm s
  | .cwait c e => Sys2Proof.Machine.execCwait c e s
  | .beat c n => Sys2Proof.Machine.execBeat c n s
  | .done c => Sys2Proof.Machine.execDone c s
  | .waitSatisfied c => Sys2Proof.Machine.execWaitSatisfied c s
  | .syncRelease c => Sys2Proof.Machine.execSyncRelease c s
  | .guardedReadRelease c => Sys2Proof.Machine.execGuardedReadRelease c s
  | .egressRoom c => Sys2Proof.Machine.execEgressRoom c s
  | .guardTimeout c => Sys2Proof.Machine.execGuardTimeout c s
  | .waitTimeout c => Sys2Proof.Machine.execWaitTimeout c s
  | .egressTimeout c => Sys2Proof.Machine.execEgressTimeout c s
  | .write p dst => Sys2Proof.Machine.execWrite p dst s
  | .qdata p dst => Sys2Proof.Machine.execQdata p dst s
  | .qput p ep => Sys2Proof.Machine.execQput p ep s
  | .hbmReadDone ep => Sys2Proof.Machine.execHbmReadDone ep s
  | .hbmWriteDone ep => Sys2Proof.Machine.execHbmWriteDone ep s
  | .reduceCapture r port src => Sys2Proof.Machine.execReduceCapture r port src s
  | .reduceCombine r rid => Sys2Proof.Machine.execReduceCombine r rid s
  | .parkRelease c => Sys2Proof.Machine.execParkRelease c s
  | .gatherFlush c => Sys2Proof.Machine.execGatherFlush c s
  | .controlAccess m pf prow pcol reg op => Sys2Proof.Machine.execControlAccess m pf prow pcol reg op s
  | .smRead rq addr len => Sys2Proof.Machine.execSmRead rq addr len s
  | .smWrite rq addr bytes mask => Sys2Proof.Machine.execSmWrite rq addr bytes mask s
  | .smCas rq addr expect new => Sys2Proof.Machine.execSmCas rq addr expect new s
  | .smFetchAdd rq addr d => Sys2Proof.Machine.execSmFetchAdd rq addr d s
  | .smFence rq => Sys2Proof.Machine.execSmFence rq s
  | .stagingRecord c => Sys2Proof.Machine.execStagingRecord c s
  | .coreSilent c => Sys2Proof.Machine.execCoreSilent c s
  | .onTrackSample edge => Sys2Proof.Machine.execOnTrackSample edge s
  | .beatEdge edge cycleErr => Sys2Proof.Machine.execBeatEdge edge cycleErr s
  | .holdRequest => Sys2Proof.Machine.execHoldRequest s
  | .holdComplete mismatch => Sys2Proof.Machine.execHoldComplete mismatch s
  | .resumeEdge edge => Sys2Proof.Machine.execResumeEdge edge s
  | .candidateRow t p => Sys2Proof.Machine.execCandidateRow t p s
  | .candidateMissing t slot => Sys2Proof.Machine.execCandidateMissing t slot s
  | .issueRecord t p => Sys2Proof.Machine.execIssueRecord t p s
  | .issueSlot lead => Sys2Proof.Machine.execIssueSlot lead s
  | .issueEntryWrite lead n c => Sys2Proof.Machine.execIssueEntryWrite lead n c s
  | .fetchRingWrite lead m c => Sys2Proof.Machine.execFetchRingWrite lead m c s
  | .batchDeliver pseq => Sys2Proof.Machine.execBatchDeliver pseq s
  | .transmitRecord port => Sys2Proof.Machine.execTransmitRecord port s
  | .requestTake => Sys2Proof.Machine.execRequestTake s
  | .admissionScan => Sys2Proof.Machine.execAdmissionScan s
  | .queuedResend e => Sys2Proof.Machine.execQueuedResend e s
  | .passRetire pseq => Sys2Proof.Machine.execPassRetire pseq s
  | .pauseImageDone e => Sys2Proof.Machine.execPauseImageDone e s
  | .pageReloadDone lead f => Sys2Proof.Machine.execPageReloadDone lead f s
  | .entryReclaimTimeout e => Sys2Proof.Machine.execEntryReclaimTimeout e s
  | .escalationReport => Sys2Proof.Machine.execEscalationReport s
  | .escalationClose pseq => Sys2Proof.Machine.execEscalationClose pseq s
  | .selectEntryWrite c w => Sys2Proof.Machine.execSelectEntryWrite c w s
  | .clampScan => Sys2Proof.Machine.execClampScan s
  | .linkPacketSend l p => Sys2Proof.Machine.execLinkPacketSend l p s
  | .linkFrame l f => Sys2Proof.Machine.execLinkFrame l f s
  | .linkDown l => Sys2Proof.Machine.execLinkDown l s
  | .linkBringupDone l b => Sys2Proof.Machine.execLinkBringupDone l b s
  | .groupEdgeDecision edge => Sys2Proof.Machine.execGroupEdgeDecision edge s
  | .holdCompleteReport m => Sys2Proof.Machine.execHoldCompleteReport m s
  | .memberReadyReport m main lead manifest beat cadence => Sys2Proof.Machine.execMemberReadyReport m main lead manifest beat cadence s
  | .groupFormTimeout => Sys2Proof.Machine.execGroupFormTimeout s
  | .groupForm sid id size member => Sys2Proof.Machine.execGroupForm sid id size member s
  | .groupLeave sid => Sys2Proof.Machine.execGroupLeave sid s
  | .linkRestore sid l => Sys2Proof.Machine.execLinkRestore sid l s
  | .linkEnable sid mask => Sys2Proof.Machine.execLinkEnable sid mask s
  | .load sid slot digest sources links => Sys2Proof.Machine.execLoad sid slot digest sources links s
  | .unload sid slot => Sys2Proof.Machine.execUnload sid slot s
  | .swap sid => Sys2Proof.Machine.execSwap sid s
  | .drainEnd slot => Sys2Proof.Machine.execDrainEnd slot s
  | .modelStart slot => Sys2Proof.Machine.execModelStart slot s
  | .shardTimeout => Sys2Proof.Machine.execShardTimeout s
  | .fetchRangeTimeout xid => Sys2Proof.Machine.execFetchRangeTimeout xid s
  | .data from_ xid off bytes => Sys2Proof.Machine.execData from_ xid off bytes s
  | .notfound from_ xid => Sys2Proof.Machine.execNotfound from_ xid s
  | .pushAck xid got => Sys2Proof.Machine.execPushAck xid got s
  | .pushRetry xid => Sys2Proof.Machine.execPushRetry xid s
  | .pushTimeout xid => Sys2Proof.Machine.execPushTimeout xid s
  | .tableLoad sid kind id len digest => Sys2Proof.Machine.execTableLoad sid kind id len digest s
  | .tableBodyTimeout => Sys2Proof.Machine.execTableBodyTimeout s
  | .pauseExport sid e => Sys2Proof.Machine.execPauseExport sid e s
  | .pauseImport sid e => Sys2Proof.Machine.execPauseImport sid e s
  | .tenantSaltSet sid tenant salt => Sys2Proof.Machine.execTenantSaltSet sid tenant salt s
  | .prefixFlush sid tenant => Sys2Proof.Machine.execPrefixFlush sid tenant s
  | .tenantLimitSet sid tenant limit => Sys2Proof.Machine.execTenantLimitSet sid tenant limit s
  | .colOpen path version features level => Sys2Proof.Machine.execColOpen path version features level s
  | .colClose rx => Sys2Proof.Machine.execColClose rx s
  | .colAck rx => Sys2Proof.Machine.execColAck rx s
  | .colRead rx tag entries => Sys2Proof.Machine.execColRead rx tag entries s
  | .colWrite rx tag entries => Sys2Proof.Machine.execColWrite rx tag entries s
  | .dictWrite sid idx sub value => Sys2Proof.Machine.execDictWrite sid idx sub value s
  | .claim rx rank => Sys2Proof.Machine.execClaim rx rank s
  | .heartbeat rx => Sys2Proof.Machine.execHeartbeat rx s
  | .handover rx target => Sys2Proof.Machine.execHandover rx target s
  | .release rx => Sys2Proof.Machine.execRelease rx s
  | .unclaim rx => Sys2Proof.Machine.execUnclaim rx s
  | .leaseExpiry => Sys2Proof.Machine.execLeaseExpiry s
  | .measure rx nonce => Sys2Proof.Machine.execMeasure rx nonce s
  | .cspOpen path version features => Sys2Proof.Machine.execCspOpen path version features s
  | .cspClose rx => Sys2Proof.Machine.execCspClose rx s
  | .cspAck rx => Sys2Proof.Machine.execCspAck rx s
  | .request rx m => Sys2Proof.Machine.execRequest rx m s
  | .requestAssemblyTimeout sid tag => Sys2Proof.Machine.execRequestAssemblyTimeout sid tag s
  | .cancel rx tag => Sys2Proof.Machine.execCancel rx tag s
  | .retransmitTimeout csp sid seq => Sys2Proof.Machine.execRetransmitTimeout csp sid seq s
  | .ackTimer csp sid => Sys2Proof.Machine.execAckTimer csp sid s
  | .sessionTimeout csp sid => Sys2Proof.Machine.execSessionTimeout csp sid s
  | .portDown e => Sys2Proof.Machine.execPortDown e s
  | .portUp e rate => Sys2Proof.Machine.execPortUp e rate s
  | .announce e => Sys2Proof.Machine.execAnnounce e s
  | .arpRequest e target sender => Sys2Proof.Machine.execArpRequest e target sender s
  | .neighborSolicitation e target sender => Sys2Proof.Machine.execNeighborSolicitation e target sender s
  | .echoRequest e v6 dst src payload => Sys2Proof.Machine.execEchoRequest e v6 dst src payload s
  | .portRate sid e v => Sys2Proof.Machine.execPortRate sid e v s
  | .macsecMode sid e v => Sys2Proof.Machine.execMacsecMode sid e v s
  | .macsecSak sid e dir an key ssci salt => Sys2Proof.Machine.execMacsecSak sid e dir an key ssci salt s
  | .keyEnroll sid slot key holdupUs => Sys2Proof.Machine.execKeyEnroll sid slot key holdupUs s
  | .keyRevoke sid slot holdupUs => Sys2Proof.Machine.execKeyRevoke sid slot holdupUs s
  | .enrollClose sid => Sys2Proof.Machine.execEnrollClose sid s
  | .enrollRelease => Sys2Proof.Machine.execEnrollRelease s
  | .enrollWindowTimeout => Sys2Proof.Machine.execEnrollWindowTimeout s
  | .mailboxRequest src dst req => Sys2Proof.Machine.execMailboxRequest src dst req s
  | .ledgerRequest requester action unit arg => Sys2Proof.Machine.execLedgerRequest requester action unit arg s
  | .ledgerLimit sid v => Sys2Proof.Machine.execLedgerLimit sid v s
  | .watchdogTimeout m => Sys2Proof.Machine.execWatchdogTimeout m s
  | .mcoreTrap m => Sys2Proof.Machine.execMcoreTrap m s
  | .mcoreRestart sid m => Sys2Proof.Machine.execMcoreRestart sid m s
  | .mcoreServiceResume m => Sys2Proof.Machine.execMcoreServiceResume m s
  | .logAppend src code sev payload => Sys2Proof.Machine.execLogAppend src code sev payload s
  | .fwStage sid off bytes => Sys2Proof.Machine.execFwStage sid off bytes s
  | .fwCommit sid digest => Sys2Proof.Machine.execFwCommit sid digest s
  | .fwCommitDone e => Sys2Proof.Machine.execFwCommitDone e s
  | .fwConfirm sid => Sys2Proof.Machine.execFwConfirm sid s
  | .coldStart r => Sys2Proof.Machine.execColdStart r s
  | .warmStart => Sys2Proof.Machine.execWarmStart s
  | .start sid kind => Sys2Proof.Machine.execStart sid kind s
  | .startAssist sid blob => Sys2Proof.Machine.execStartAssist sid blob s
  | .assistWindowTimeout => Sys2Proof.Machine.execAssistWindowTimeout s
  | .fieldBist sid pf force => Sys2Proof.Machine.execFieldBist sid pf force s
  | .bistDone dead usable => Sys2Proof.Machine.execBistDone dead usable s
  | .testEnChange level => Sys2Proof.Machine.execTestEnChange level s
  | .cageModuleChange e klass deciWatt => Sys2Proof.Machine.execCageModuleChange e klass deciWatt s
  | .currentPublish r => Sys2Proof.Machine.execCurrentPublish r s
  | .fieldRampDone pf => Sys2Proof.Machine.execFieldRampDone pf s
  | .stepRaiseWrite pf => Sys2Proof.Machine.execStepRaiseWrite pf s
  | .stepMax sid pf v => Sys2Proof.Machine.execStepMax sid pf v s
  | .inputFail cause => Sys2Proof.Machine.execInputFail cause s
  | .inputOvervoltage => Sys2Proof.Machine.execInputOvervoltage s
  | .inputLow mv => Sys2Proof.Machine.execInputLow mv s
  | .inputHigh mv => Sys2Proof.Machine.execInputHigh mv s
  | .inputOvercurrent ma => Sys2Proof.Machine.execInputOvercurrent ma s
  | .converterFail bc => Sys2Proof.Machine.execConverterFail bc s
  | .phaseFail dom phase => Sys2Proof.Machine.execPhaseFail dom phase s
  | .senseFault pf rail pair => Sys2Proof.Machine.execSenseFault pf rail pair s
  | .catchFire pf rail => Sys2Proof.Machine.execCatchFire pf rail s
  | .catchExhaust pf rail => Sys2Proof.Machine.execCatchExhaust pf rail s
  | .catchRelease pf => Sys2Proof.Machine.execCatchRelease pf s
  | .railIsolated pf cause => Sys2Proof.Machine.execRailIsolated pf cause s
  | .diodeScan readings => Sys2Proof.Machine.execDiodeScan readings s
  | .thermalTrip sensor edge => Sys2Proof.Machine.execThermalTrip sensor edge s
  | .throttleEval => Sys2Proof.Machine.execThrottleEval s
  | .marginWarn pf mon code => Sys2Proof.Machine.execMarginWarn pf mon code s
  | .marginCrit pf mon code => Sys2Proof.Machine.execMarginCrit pf mon code s
  | .marginRelease pf => Sys2Proof.Machine.execMarginRelease pf s
  | .coolantRead inlet outlet dp => Sys2Proof.Machine.execCoolantRead inlet outlet dp s
  | .coolingCheck => Sys2Proof.Machine.execCoolingCheck s
  | .coolingBaseline sid => Sys2Proof.Machine.execCoolingBaseline sid s
  | .rainflowSample => Sys2Proof.Machine.execRainflowSample s
  | .rainflowLoad sid counts => Sys2Proof.Machine.execRainflowLoad sid counts s
  | .refLost input => Sys2Proof.Machine.execRefLost input s
  | .refDetected input => Sys2Proof.Machine.execRefDetected input s
  | .ppsEdge at_ => Sys2Proof.Machine.execPpsEdge at_ s
  | .calRun sid mask force => Sys2Proof.Machine.execCalRun sid mask force s
  | .calRestore sid blob => Sys2Proof.Machine.execCalRestore sid blob s
  | .calDone items trims => Sys2Proof.Machine.execCalDone items trims s
  | .calIntervalExpiry => Sys2Proof.Machine.execCalIntervalExpiry s
  | .perfApply sid => Sys2Proof.Machine.execPerfApply sid s
  | .perfSnapshot sid b => Sys2Proof.Machine.execPerfSnapshot sid b s
  | .perfFigureRead sid v => Sys2Proof.Machine.execPerfFigureRead sid v s
  | .sampleConfig sid v => Sys2Proof.Machine.execSampleConfig sid v s
  | .sampleTag c rec_ => Sys2Proof.Machine.execSampleTag c rec_ s
  | .sampleDrain => Sys2Proof.Machine.execSampleDrain s
  | .cablePresentChange l present => Sys2Proof.Machine.execCablePresentChange l present s
  | .calvLost mv => Sys2Proof.Machine.execCalvLost mv s
  | .tableRefetchTimeout kind id => Sys2Proof.Machine.execTableRefetchTimeout kind id s
  | .droppedFrame e => Sys2Proof.Machine.execDroppedFrame e s

end Sys2Proof.Machine
end

