-- ==== Sys2Proof/Safety.lean ====
section
/-! DEFINITION. The terms in which claims are made: parts of the state, what a program may touch, the canonical state, and which commands are whose. -/

namespace Sys2Proof.Machine

/-- The parts of the state, one per field, the queue of commands aside. -/
inductive Part where
  | now
  | epoch
  | free
  | dict
  | blobs
  | cores
  | spads
  | net
  | sm
  | smBad
  | smReply
  | hbm
  | hbmBad
  | qps
  | ctlReply
  | objects
  | beat
  | repair
  | hubs
  | fieldClamps
  | exitBase
  | exits
  | arb
  | testMode
  | models
  | thermal
  | power
  | sampler
  | calib
  | mcores
  | flash
  | ticks
  | deferred
  | cmds
  | col
  | csp
  | owner
  | wire
  | console
  | ports
  | boot
  | image
  | load
  | tables
  | serving
  | group
  deriving DecidableEq, Repr

/-- Two states agree on a part. -/
def State.same (p : Part) (s t : State) : Prop :=
  match p with
  | .now => t.now = s.now
  | .epoch => t.epoch = s.epoch
  | .free => t.free = s.free
  | .dict => t.dict = s.dict
  | .blobs => t.blobs = s.blobs
  | .cores => t.cores = s.cores
  | .spads => t.spads = s.spads
  | .net => t.net = s.net
  | .sm => t.sm = s.sm
  | .smBad => t.smBad = s.smBad
  | .smReply => t.smReply = s.smReply
  | .hbm => t.hbm = s.hbm
  | .hbmBad => t.hbmBad = s.hbmBad
  | .qps => t.qps = s.qps
  | .ctlReply => t.ctlReply = s.ctlReply
  | .objects => t.objects = s.objects
  | .beat => t.beat = s.beat
  | .repair => t.repair = s.repair
  | .hubs => t.hubs = s.hubs
  | .fieldClamps => t.fieldClamps = s.fieldClamps
  | .exitBase => t.exitBase = s.exitBase
  | .exits => t.exits = s.exits
  | .arb => t.arb = s.arb
  | .testMode => t.testMode = s.testMode
  | .models => t.models = s.models
  | .thermal => t.thermal = s.thermal
  | .power => t.power = s.power
  | .sampler => t.sampler = s.sampler
  | .calib => t.calib = s.calib
  | .mcores => t.mcores = s.mcores
  | .flash => t.flash = s.flash
  | .ticks => t.ticks = s.ticks
  | .deferred => t.deferred = s.deferred
  | .cmds => t.cmds = s.cmds
  | .col => t.col = s.col
  | .csp => t.csp = s.csp
  | .owner => t.owner = s.owner
  | .wire => t.wire = s.wire
  | .console => t.console = s.console
  | .ports => t.ports = s.ports
  | .boot => t.boot = s.boot
  | .image => t.image = s.image
  | .load => t.load = s.load
  | .tables => t.tables = s.tables
  | .serving => t.serving = s.serving
  | .group => t.group = s.group

/-- The parts an update may change. -/
def Update.parts : Update → List Part
  | .reg .. => [.dict]
  | .blob .. => [.blobs]
  | .core .. => [.cores]
  | .spad .. => [.spads]
  | .spadAll .. => [.spads]
  | .net .. => [.net]
  | .sm .. => [.sm]
  | .smBad .. => [.smBad]
  | .smClear => [.sm, .smBad]
  | .smReply .. => [.smReply]
  | .hbm .. => [.hbm]
  | .hbmBad .. => [.hbmBad]
  | .hbmClear => [.hbm, .hbmBad]
  | .qp .. => [.qps]
  | .ctlReply .. => [.ctlReply]
  | .object .. => [.objects]
  | .beat .. => [.beat]
  | .repair .. => [.repair]
  | .fieldClamp .. => [.fieldClamps]
  | .exit .. => [.exits]
  | .exitsDefault .. => [.exitBase, .exits]
  | .arb .. => [.arb]
  | .arbReset => [.arb]
  | .hub .. => [.hubs]
  | .testMode .. => [.testMode]
  | .model .. => [.models]
  | .thermal .. => [.thermal]
  | .power .. => [.power]
  | .sampler .. => [.sampler]
  | .calib .. => [.calib]
  | .mcores .. => [.mcores]
  | .flash .. => [.flash]
  | .tick .. => [.ticks]
  | .deferred .. => [.deferred]
  | .cmd .. => [.cmds]
  | .col .. => [.col]
  | .csp .. => [.csp]
  | .owner .. => [.owner]
  | .sent .. => [.wire, .ports]
  | .line .. => [.console]
  | .ports .. => [.ports]
  | .boot .. => [.boot]
  | .image .. => [.image]
  | .load .. => [.load]
  | .tables .. => [.tables]
  | .serving .. => [.serving]
  | .group .. => [.group]
  | .smZero .. => [.sm, .smBad]
  | .dict .. => [.dict]
  | .time .. => [.now]
  | .epoch .. => [.epoch]
  | .drawn => [.free]

/-- Two states agree everywhere but on the parts that a list names; the queue of commands is not asked about. -/
def State.sameBut (ps : List Part) (s t : State) : Prop := ∀ p : Part, p ∉ ps → State.same p s t

/-- Every update a program can make has a property. -/
def Prog.uses (q : Update → Prop) : Prog → Prop
  | .done => True
  | .get k => ∀ s, (k s).uses q
  | .upd u k => q u ∧ k.uses q
  | .fault _ => True
  | .refuse _ => True

/-- A program never stops. -/
def Prog.total : Prog → Prop
  | .done => True
  | .get k => ∀ s, (k s).total
  | .upd _ k => k.total
  | .fault _ => False
  | .refuse _ => False

/-! ### The canonical state -/

/-- Every dictionary element fits its width. -/
def dictFits (d : AMap Nat) : Prop := ∀ kv ∈ d, kv.2 < 2 ^ regWidth kv.1

/-- The canonical form of the state: every map and memory has it, and every dictionary element fits its width. -/
structure State.Canonical (s : State) : Prop where
  dict : AMap.wf 0 s.dict = true
  fits : dictFits s.dict
  blobs : AMap.wf [] s.blobs = true
  cores : AMap.wf Core.fresh s.cores = true
  spads : AMap.wf [] s.spads = true
  spad : ∀ kv ∈ s.spads, Mem.wf kv.2 = true
  sm : Mem.wf s.sm = true
  smBad : AMap.wf false s.smBad = true
  hbm : Mem.wf s.hbm = true
  hbmBad : AMap.wf false s.hbmBad = true
  qps : AMap.wf [] s.qps = true
  objects : AMap.wf SyncObj.none s.objects = true
  hubs : AMap.wf PerfSet.reset s.hubs = true
  fieldClamps : AMap.wf 0 s.fieldClamps = true
  exitBase : AMap.wf 0 s.exitBase = true
  exits : AMap.wf 0 s.exits = true
  arb : AMap.wf 0 s.arb = true
  models : AMap.wf Model.none s.models = true
  ticks : AMap.wf 0 s.ticks = true
  deferred : AMap.wf [] s.deferred = true
  cmds : AMap.wf [] s.cmds = true
  col : AMap.wf Session.closed s.col = true
  csp : AMap.wf Session.closed s.csp = true

/-! ### Steps of a core -/

/-- The state with one core's record replaced. -/
def State.putCore (s : State) (c : CoreId) (x : Core) : State := s.apply (.core c.key x)

/-- It is this step's turn at a core of the wafer: the core runs a figure, nothing holds it, and the step stands in the word at pc and has not issued (R50, R76). -/
def Offered (s : State) (c : CoreId) (i : Instr) : Prop := c.valid = true ∧ (s.core c.key).offers c i = true

/-- The word at pc does not wait, and its accesses claim no bank twice in a cycle; once a step of the word has issued, both are settled (R53, R76). -/
def WordFree (s : State) (c : CoreId) : Prop :=
  (s.core c.key).issued = 0 → wordHold s c (s.core c.key) = none ∧ firstClash (s.core c.key).claims (wordClaims s c (s.core c.key)) = none

/-- The state with a step marked as issued, and with the first step of a word the word's claims taken. -/
def State.begun (s : State) (c : CoreId) (i : Instr) : State :=
  s.putCore c ((s.core c.key).begin c i (if (s.core c.key).issued = 0 then wordClaims s c (s.core c.key) else []))

/-- A step begins at a core: it is its turn and its word may issue; t is the state it acts in. -/
def Begins (s : State) (c : CoreId) (i : Instr) (t : State) : Prop := Offered s c i ∧ WordFree s c ∧ t = s.begun c i

/-- None of the rows a step reads holds an uncorrectable word. -/
def RowsClean (s : State) (c : CoreId) (rows : List Nat) : Prop := ∀ n ∈ rows, (s.core c.key).readBad n = false

/-- A whole row is written: the bank takes it, a pending entry and the stored errors of the row are gone (R55, R71). -/
def State.storeRow (k : Nat) (s : State) (w : Nat × Row) : State :=
  (s.apply (.core k { (s.core k).rowFresh w.1 with gather := (s.core k).gather.filter fun g => g.row != w.1 })).apply (.spad k (64 * w.1) (rowBytes w.2))

/-- Whole rows are written in order. -/
def State.storeRows (s : State) (k : Nat) (ws : List (Nat × Row)) : State := ws.foldl (State.storeRow k) s

/-- What a false predicate suppresses is not stored (R78). -/
def committed (c : Core) (pred : Nat) (ws : List (Nat × Row)) : List (Nat × Row) := if c.commits pred then ws else []

/-- What a read through a handle gives: the rows, and the stored rows they come from, none of which holds an uncorrectable word. -/
def Reads (s : State) (c : CoreId) (h i n : Nat) (rows : List Row) (stored : List Nat) : Prop :=
  readRows s c.key (s.core c.key) h i n = .ok (rows, stored) ∧ RowsClean s c stored

/-- Where a write through a handle lands. -/
def Lands (s : State) (c : CoreId) (h i : Nat) (data : List Row) (ws : List (Nat × Row)) : Prop :=
  writeRows (s.core c.key) h i data = .ok ws

/-- The state after a step: the core's record with the corrected words of its reads counted and the rows it replaces kept for the other steps of its word, and the rows it stores. -/
def State.after (s : State) (c : CoreId) (x : Core) (stored : List Nat) (ws : List (Nat × Row)) : State :=
  (s.putCore c ((x.countReads stored).keepOld s c.key (ws.map (·.1)))).storeRows c.key ws

/-- The format of a handle, an index register and a vector register of a core. -/
abbrev fmtOf (s : State) (c : CoreId) (h : BitVec 6) : Nat := hFmt ((s.core c.key).handle h.toNat)
abbrev xOf (s : State) (c : CoreId) (x : BitVec 3) : Nat := (s.core c.key).xreg x.toNat
abbrev vOf (s : State) (c : CoreId) (v : BitVec 4) : Nat := (s.core c.key).vreg v.toNat

/-- One lane of a vector register (R86). -/
def laneOf (w : Bool) (v i : Nat) : Nat := (regLanes w v).getD i 0

/-- The handle may be read: it has no guard, or its guard is FULL (R68). -/
def Readable (s : State) (c : CoreId) (h : BitVec 6) : Prop := guardReady (s.core c.key) h.toNat = .ok ()

end Sys2Proof.Machine
end

