-- ==== Sys2Proof/WellFormed.lean ====
section
/-! DEFINITION. Which commands are well formed: their operands name things the device has and their data have the lengths their formats give. -/

namespace Sys2Proof

/-- A packet of a kind that carries between 0 and 16 flits whose number its header states (R29): LEN + 1 rows in a write, scatter or reduction, LEN rows after the descriptor in a queue put. -/
def Packet.wf (p : Packet) : Bool := p.flits.length ≤ 16

def PktSource.wf : PktSource → Bool
  | .inFlight _ => true
  | .given p => p.wf

def Requester.wf : Requester → Bool
  | .tumbler n => n < 24
  | .mcore n => n < 6
  | .rxDma e => e < 2
  | .txDma e => e < 2
  | .root => true

/-- 88 physical fields (R16). -/
def fieldOk (pf : Nat) : Bool := pf < 88
/-- Thirty-two chip links, L00 to L31 (R30). -/
def linkOk (l : Nat) : Bool := l < 32
/-- Two Ethernet ports (R282). -/
def portOk (e : Nat) : Bool := e < 2
/-- Six M-cores (R309). -/
def mcoreOk (m : Nat) : Bool := m < 6
/-- The dance-card entries E0 to E16383 (R217). -/
def entryOk (e : Nat) : Bool := e < 16384
def slotOk (n : Nat) : Bool := n < 3
def memberOk (m : Nat) : Bool := m < 8
def tumblerOk (t : Nat) : Bool := t < 24

def ReqMsg.wf (m : ReqMsg) : Bool := m.prompt < 2 ^ 32 && m.maxPos < 2 ^ 32 && m.offset < 2 ^ 32 && m.ids.length ≤ 2230

def Frame.wf (f : Frame) : Bool := f.slots.length ≤ 80

/-- The core of a step or of an event of a core. -/
def Instr.core? : Instr → Option CoreId
  | .mnop c => some c | .mload c .. => some c | .mmul c .. => some c | .mout c .. => some c
  | .vnop c => some c | .vld c .. => some c | .vst c .. => some c | .vlds c .. => some c | .vsst c .. => some c
  | .vldq c .. => some c | .vqst c .. => some c | .vspin c .. => some c | .vqend c .. => some c
  | .fadd c .. => some c | .fsub c .. => some c | .fmul c .. => some c | .fma c .. => some c | .fmax c .. => some c
  | .fmin c .. => some c | .fexp c .. => some c | .frcp c .. => some c | .frsq c .. => some c | .fsig c .. => some c
  | .vsum c .. => some c | .vmaxr c .. => some c | .vbcst c .. => some c | .vtopk c .. => some c | .fcvt c .. => some c
  | .anop c => some c | .acfg c .. => some c | .aqld c .. => some c | .arst c .. => some c | .apage c .. => some c
  | .aout c .. => some c | .amrg c .. => some c | .anorm c .. => some c
  | .dnop c => some c | .dcpy c .. => some c | .dsend c .. => some c | .dred c .. => some c | .dqget c .. => some c
  | .dqput c .. => some c | .dscat c .. => some c | .dnw c .. => some c | .dctr c .. => some c
  | .nop c => some c | .wait c .. => some c | .cset c .. => some c | .tset c .. => some c | .tadd c .. => some c
  | .rel c .. => some c | .loop c .. => some c | .xset c .. => some c | .xadd c .. => some c | .pset c .. => some c
  | .arrive c .. => some c | .bwait c .. => some c | .cadd c .. => some c | .cwait c .. => some c | .beat c .. => some c
  | .done c => some c
  | .waitSatisfied c => some c | .syncRelease c => some c | .guardedReadRelease c => some c | .egressRoom c => some c
  | .guardTimeout c => some c | .waitTimeout c => some c | .egressTimeout c => some c
  | .write _ c => some c | .qdata _ c => some c | .reduceCapture c .. => some c | .reduceCombine c .. => some c
  | .parkRelease c => some c | .gatherFlush c => some c | .stagingRecord c => some c | .coreSilent c => some c
  | .issueEntryWrite _ _ c => some c | .fetchRingWrite _ _ c => some c | .selectEntryWrite c _ => some c | .sampleTag c _ => some c
  | _ => none

/-- The checks on the operands that are not cores. -/
def Instr.operandsOk : Instr → Bool
  | .vld _ _ _ _ _ sub => sub.toNat < 2
  | .vst _ _ _ _ _ sub _ => sub.toNat < 2
  | .vqend _ imm => imm.toNat % 16 == 0 && (Machine.bit imm.toNat 4 || Machine.bits imm.toNat 6 5 != 0)
  | .vbcst _ _ _ w lane => w || lane.toNat < 64
  | .dctr _ _ _ sel _ => sel.toNat != 3
  | .pset _ p _ => p.toNat != 0
  | .write p _ => p.wf
  | .qdata p _ => p.wf
  | .qput p ep => p.wf && ep < 0x180
  | .hbmReadDone ep => ep < 0x180
  | .hbmWriteDone ep => ep < 0x180
  | .controlAccess m pf prow pcol _ _ => mcoreOk m && (fieldOk pf || pf == 127) && prow < 32 && pcol < 32
  | .smRead rq addr len => rq.wf && 8 ≤ len && len ≤ 64 && addr % 64 + len ≤ 64 && addr + len ≤ 2 ^ 28
  | .smWrite rq addr bytes _ => rq.wf && 8 ≤ bytes.length && bytes.length ≤ 64 && addr % 64 + bytes.length ≤ 64 && addr + bytes.length ≤ 2 ^ 28
  | .smCas rq addr _ _ => rq.wf && addr % 8 == 0 && addr < 2 ^ 28
  | .smFetchAdd rq addr _ => rq.wf && addr % 8 == 0 && addr < 2 ^ 28
  | .smFence rq => rq.wf
  | .candidateRow t p => tumblerOk t && p.wf
  | .candidateMissing t slot => tumblerOk t && slot < 32
  | .issueRecord t p => tumblerOk t && p.wf
  | .transmitRecord e => portOk e
  | .queuedResend e => entryOk e
  | .pauseImageDone e => entryOk e
  | .entryReclaimTimeout e => entryOk e
  | .linkPacketSend l p => linkOk l && p.wf
  | .linkFrame l f => linkOk l && f.wf
  | .linkDown l => linkOk l
  | .linkBringupDone l _ => linkOk l
  | .holdCompleteReport m => memberOk m
  | .memberReadyReport m .. => memberOk m
  | .drainEnd slot => slotOk slot
  | .modelStart slot => slotOk slot
  | .data p _ _ bytes => p.port < 34 && bytes.length ≤ 8192
  | .notfound p _ => p.port < 34
  | .fwStage _ _ bytes => bytes.length ≤ 8192
  | .colOpen p .. => portOk p.port
  | .colRead _ _ es => 1 ≤ es.length && es.length ≤ 32
  | .colWrite _ _ es => 1 ≤ es.length && es.length ≤ 32
  | .cspOpen p .. => portOk p.port
  | .request _ m => m.wf
  | .portDown e => portOk e
  | .portUp e rate => portOk e && 1 ≤ rate && rate ≤ 3
  | .announce e => portOk e
  | .arpRequest e .. => portOk e
  | .neighborSolicitation e .. => portOk e
  | .echoRequest e .. => portOk e
  | .mailboxRequest src dst _ => mcoreOk src && mcoreOk dst
  | .watchdogTimeout m => mcoreOk m
  | .mcoreTrap m => mcoreOk m
  | .mcoreServiceResume m => mcoreOk m
  | .logAppend src _ sev payload => (src ≤ 5 || (0x10 ≤ src && src ≤ 0x27) || src == 0x30 || src == 0x31) && sev < 6 && payload.length ≤ 44
  | .cageModuleChange e .. => portOk e
  | .fieldRampDone pf => fieldOk pf
  | .stepRaiseWrite pf => fieldOk pf
  | .converterFail bc => bc < 24
  | .senseFault pf rail pair => fieldOk pf && rail < 2 && pair < 4
  | .catchFire pf rail => fieldOk pf && rail < 2
  | .catchExhaust pf rail => fieldOk pf && rail < 2
  | .catchRelease pf => fieldOk pf
  | .railIsolated pf _ => fieldOk pf
  | .marginWarn pf .. => fieldOk pf
  | .marginCrit pf .. => fieldOk pf
  | .marginRelease pf => fieldOk pf
  | .refLost input => input < 2
  | .refDetected input => input < 2
  | .sampleTag _ _ => true
  | .cablePresentChange l _ => linkOk l
  | .droppedFrame e => portOk e
  | _ => true

/-- A well-formed command. -/
def Instr.wf (i : Instr) : Bool :=
  i.operandsOk && (match i.core? with
    | some c => c.valid
    | none => true)

end Sys2Proof
end

