-- ==== Sys2Proof/Certificates/Slice0/Obligations.lean ====
section
/-! DEFINITION. The statements for the provers. -/

open Sys2Proof Sys2Proof.Machine

/-- A step takes the command at the front of the queue and runs its meaning with the rest of the queue. -/
def Obligations.StepRunsFrontCommand : Prop :=
  ∀ (c : Instr) (rest : List Instr) (s : State),
    Sys2Proof.Machine.step { s with pending := c :: rest } = Sys2Proof.Machine.exec c { s with pending := rest } ∧
    (s.pending = [] → Sys2Proof.Machine.step s = .next { s with now := s.now + 1 })

/-- The state after reset: the canonical form, and the defaults of R178 and R241. -/
def Obligations.ResetState : Prop :=
  State.reset.Canonical ∧ State.reset.pending = [] ∧ State.reset.entries = [] ∧
  State.reset.reg 0x5000 = 1024 ∧ (∀ k, 1 ≤ k → k ≤ 8 → State.reset.reg 0x5001 k = 2048) ∧ State.reset.reg 0x5002 = 16384 ∧ State.reset.reg 0x5004 = 4250 ∧
  State.reset.reg 0x5005 = 0 ∧ State.reset.reg 0x5006 = 1 ∧ State.reset.reg 0x5007 = 100 ∧ State.reset.reg 0x5010 = 0 ∧
  State.reset.reg 0x5015 = 0 ∧ State.reset.reg 0x5412 = 16

/-- Every step keeps the canonical form of all memories and maps, and the width of every dictionary element. -/
def Obligations.CanonicalKept : Prop :=
  ∀ s t : State, s.Canonical → Sys2Proof.Machine.step s = .next t → t.Canonical

/-- No meaning adds to or takes from the queue of waiting commands, and no step makes time go back. -/
def Obligations.QueueAndTime : Prop :=
  (∀ (c : Instr) (s t : State), exec c s = .next t → t.pending = s.pending) ∧
  (∀ s t : State, Sys2Proof.Machine.step s = .next t → s.now ≤ t.now)

/-- Decode of encode: no operand bit of a step word is dropped. -/
def Obligations.SlotRoundTrip : Prop :=
  ∀ (i : Instr) (c : CoreId) (slot w : Nat), i.wf = true → i.core? = some c → encodeSlot i = some (slot, w) → decodeSlot c slot w = some i

/-- No reserved operation code falls through to a step. -/
def Obligations.ReservedSlotsRefused : Prop :=
  ∀ (c : CoreId) (w : Nat),
    (3 < bits w 31 28 → decodeSlot c 0 w = none) ∧
    ((0x09 ≤ bits w 31 26 ∧ bits w 31 26 ≤ 0x0F) ∨ bits w 31 26 = 0x16 ∨ bits w 31 26 = 0x17 ∨ 0x20 < bits w 31 26 → decodeSlot c 1 w = none) ∧
    (7 < bits w 15 12 → decodeSlot c 2 w = none) ∧
    (8 < bits w 31 27 → decodeSlot c 3 w = none) ∧
    (12 < bits w 15 12 → decodeSlot c 4 w = none)

/-- The matrix-array steps complete with these effects and nothing else. -/
def Obligations.MatrixSteps : Prop :=
  ∀ (s t : State) (c : CoreId) (h : BitVec 6) (x : BitVec 3) (wb ab z : Bool) (out : BitVec 2) (v1 : BitVec 6) (pred : BitVec 3),
    (∀ rows stored, fmtOf t c h ∈ weightFmts →
      Reads t c h.toNat (xOf t c x) (8 * fmtBits (fmtOf t c h) + tileScaleRows (fmtOf t c h) + 4 * outCount (fmtOf t c h) out) rows stored →
      Begins s c (.mload c h x wb out) t →
        exec (.mload c h x wb out) s =
        .next (t.after c ((t.core c.key).setBank wb (bankOfRows (fmtOf t c h) (outCount (fmtOf t c h) out) rows)) stored [])) ∧
    (∀ rows stored, pairAllowed ((t.core c.key).bank wb).fmt (fmtOf t c h) = true →
      Reads t c h.toNat (xOf t c x) (actRows (fmtOf t c h) (v1.toNat + 1) + actScaleRows (fmtOf t c h) (v1.toNat + 1)) rows stored →
      Begins s c (.mmul c h x wb ab z v1) t →
        exec (.mmul c h x wb ab z v1) s =
        .next (t.after c ((t.core c.key).setAcc ab (mmulBank ((t.core c.key).bank wb) (fmtOf t c h)
          (packRows (rows.take (actRows (fmtOf t c h) (v1.toNat + 1)))) (packRows (rows.drop (actRows (fmtOf t c h) (v1.toNat + 1))))
          (v1.toNat + 1) z ((t.core c.key).acc ab))) stored [])) ∧
    (∀ ws, fmtOf t c h ∈ [fmtRaw, fmtFp32] →
      Lands t c h.toNat (xOf t c x)
        (rowsOf (4 * (v1.toNat + 1)) (packLanes 32 ((List.range (64 * (v1.toNat + 1))).map fun i => ((t.core c.key).acc ab).getD i 0))) ws →
      Begins s c (.mout c h x ab false v1 pred) t →
        exec (.mout c h x ab false v1 pred) s =
        .next (t.after c (((t.core c.key).clamp 0).suppressed pred.toNat) [] (committed (t.core c.key) pred.toNat ws))) ∧
    (∀ ws, fmtOf t c h ∈ [fmtRaw, fmtBf16] →
      Lands t c h.toNat (xOf t c x)
        (rowsOf (2 * (v1.toNat + 1))
          (packLanes 16 ((List.range (64 * (v1.toNat + 1))).map fun i => (narrow (((t.core c.key).acc ab).getD i 0)).1))) ws →
      Begins s c (.mout c h x ab true v1 pred) t →
        exec (.mout c h x ab true v1 pred) s =
        .next (t.after c (((t.core c.key).clamp
            ((List.range (64 * (v1.toNat + 1))).countP fun i => (narrow (((t.core c.key).acc ab).getD i 0)).2)).suppressed pred.toNat)
          [] (committed (t.core c.key) pred.toNat ws)))

/-- The frame and the effect of storing whole rows (R55, R71 item 5). -/
def Obligations.RowsStored : Prop :=
  ∀ (s : State) (k : Nat) (ws : List (Nat × Row)),
    (∀ a, (∀ w ∈ ws, a / 64 ≠ w.1) → Mem.byte ((s.storeRows k ws).spad k) a = Mem.byte (s.spad k) a) ∧
    (∀ k', k' ≠ k → (s.storeRows k ws).spad k' = s.spad k') ∧
    (∀ w ∈ ws, (ws.map (·.1)).Nodup → (s.storeRows k ws).row k w.1 = w.2) ∧
    (∀ w ∈ ws, ((s.storeRows k ws).core k).gatherEntry w.1 = none ∧ ((s.storeRows k ws).core k).rowBad w.1 = false) ∧
    State.sameBut [.cores, .spads] s (s.storeRows k ws)

/-- The address of a handle's row (R59), and when a linear access succeeds. -/
def Obligations.HandleAccess : Prop :=
  (∀ (h i : Nat),
      (hLength h ≤ i → storedRow h i = .error (.void codeBounds noRow)) ∧
      (i < hLength h → hMode h = 0 → hBase h + i < 51200 → storedRow h i = .ok (hBase h + i)) ∧
      (i < hLength h → hMode h = 1 → hBase h + i * hStride h < 51200 → storedRow h i = .ok (hBase h + i * hStride h)) ∧
      (i < hLength h → hMode h = 2 → 0 < hRun h → hBase h + i / hRun h * hStride h + i % hRun h < 51200 →
        storedRow h i = .ok (hBase h + i / hRun h * hStride h + i % hRun h)) ∧
      (i < hLength h → hMode h = 0 → 51200 ≤ hBase h + i → storedRow h i = .error (.void codeBounds (hBase h + i)))) ∧
  (∀ (s : State) (c : CoreId) (h : BitVec 6) (i n : Nat) (data : List Row),
      hMode ((s.core c.key).handle h.toNat) = 0 → i + n ≤ hLength ((s.core c.key).handle h.toNat) →
      hBase ((s.core c.key).handle h.toNat) + i + n ≤ 51200 →
      data.length = n →
      (Readable s c h → readRows s c.key (s.core c.key) h.toNat i n =
        .ok ((List.range n).map fun j => s.stepRow c.key (s.core c.key) (hBase ((s.core c.key).handle h.toNat) + (i + j)),
          (List.range n).map fun j => hBase ((s.core c.key).handle h.toNat) + (i + j))) ∧
      Lands s c h.toNat i data (((List.range n).map fun j => hBase ((s.core c.key).handle h.toNat) + (i + j)).zip data))

/-- The loads of the vector unit. -/
def Obligations.VectorLoads : Prop :=
  ∀ (s t : State) (c : CoreId) (vr : BitVec 4) (h : BitVec 6) (x : BitVec 3) (imm : BitVec 8) (rows : List Row) (stored : List Nat),
    (Reads t c h.toNat (vuIndex (t.core c.key) x.toNat imm.toNat) 4 rows stored →
      Begins s c (.vld c vr h x imm 0) t →
        exec (.vld c vr h x imm 0) s = .next (t.after c ((t.core c.key).setV vr.toNat (packRows rows)) stored [])) ∧
    (fmtOf t c h = fmtBf16 → Reads t c h.toNat (vuIndex (t.core c.key) x.toNat imm.toNat) 2 rows stored →
      Begins s c (.vld c vr h x imm 1) t →
        exec (.vld c vr h x imm 1) s =
        .next (t.after c ((t.core c.key).setV vr.toNat (packLanes 32 ((lanes 16 64 (packRows rows)).map widen))) stored [])) ∧
    (Reads t c h.toNat (vuIndex (t.core c.key) x.toNat imm.toNat) 1 rows stored →
      Begins s c (.vlds c h x imm) t →
        exec (.vlds c h x imm) s = .next (t.after c { t.core c.key with sa := packRows rows, sp := 0 } stored [])) ∧
    (fmtOf t c h = fmtK8 → Reads t c h.toNat (vuIndex (t.core c.key) x.toNat imm.toNat) 1 rows stored →
      Begins s c (.vldq c vr h x imm) t →
        exec (.vldq c vr h x imm) s =
        .next (t.after c { (t.core c.key).setV vr.toNat (dequant fmtK8 (packRows rows) (t.core c.key).sa (t.core c.key).sp) with
          sp := ((t.core c.key).sp + 2) % 64 } stored [])) ∧
    (fmtOf t c h = fmtK4 → Reads t c h.toNat (vuIndex (t.core c.key) x.toNat imm.toNat) 1 rows stored →
      Begins s c (.vldq c vr h x imm) t →
        exec (.vldq c vr h x imm) s =
        .next (t.after c { ((t.core c.key).setV vr.toNat (dequant fmtK4 (packRows rows) (t.core c.key).sa (t.core c.key).sp)).setV (vr.toNat + 1)
            (dequant fmtK4 (packRows rows >>> 256) (t.core c.key).sa ((t.core c.key).sp + 2)) with
          sp := ((t.core c.key).sp + 4) % 64 } stored []))

/-- The stores of the vector unit and the spinner step. -/
def Obligations.VectorStores : Prop :=
  ∀ (s t : State) (c : CoreId) (vr : BitVec 4) (h : BitVec 6) (x : BitVec 3) (imm : BitVec 8) (pred : BitVec 3) (ws : List (Nat × Row)),
    (Lands t c h.toNat (vuIndex (t.core c.key) x.toNat imm.toNat) (rowsOf 4 (vOf t c vr)) ws →
      Begins s c (.vst c vr h x imm 0 pred) t →
        exec (.vst c vr h x imm 0 pred) s =
        .next (t.after c ((t.core c.key).suppressed pred.toNat) [] (committed (t.core c.key) pred.toNat ws))) ∧
    (fmtOf t c h = fmtBf16 →
      Lands t c h.toNat (vuIndex (t.core c.key) x.toNat imm.toNat)
        (rowsOf 2 (packLanes 16 ((lanes 32 64 (vOf t c vr)).map fun v => (narrow v).1))) ws →
      Begins s c (.vst c vr h x imm 1 pred) t →
        exec (.vst c vr h x imm 1 pred) s =
        .next (t.after c (((t.core c.key).clamp ((lanes 32 64 (vOf t c vr)).countP fun v => (narrow v).2)).suppressed pred.toNat)
          [] (committed (t.core c.key) pred.toNat ws))) ∧
    (Lands t c h.toNat (vuIndex (t.core c.key) x.toNat imm.toNat) [BitVec.ofNat 512 (t.core c.key).sa] ws →
      Begins s c (.vsst c h x imm pred) t →
        exec (.vsst c h x imm pred) s =
        .next (t.after c (Core.suppressed { t.core c.key with sp := 0 } pred.toNat) [] (committed (t.core c.key) pred.toNat ws))) ∧
    (∀ rows stored, fmtOf t c h = fmtFp32 → Reads t c h.toNat (xOf t c x) (2 ^ (imm.toNat / 32 + 6) / 16) rows stored →
      Lands t c h.toNat (xOf t c x)
        (rowsOf (2 ^ (imm.toNat / 32 + 6) / 16) (packLanes 32 (spin (imm.toNat / 32 + 6) (AMap.get 0 (t.core c.key).seeds (imm.toNat % 32))
          (lanes 32 (2 ^ (imm.toNat / 32 + 6)) (packRows rows))))) ws →
      Begins s c (.vspin c h x imm) t →
        exec (.vspin c h x imm) s = .next (t.after c (t.core c.key) stored ws))

namespace Sys2Proof.Machine

/-- The blocks a VQST quantises: two of one register for K8, four of two registers for K4 with the outliers of its tile set (R113, R121, R131). -/
def vqstBlocks (s : State) (c : CoreId) (vr : BitVec 4) (h : BitVec 6) (q : BitVec 2) : List QBlock :=
  if fmtOf s c h = fmtK8 then quantReg fmtK8 0 (vOf s c vr)
  else quantReg fmtK4 (tcN (AMap.get 0 (s.core c.key).tileCfg q.toNat)) (vOf s c vr) ++
    quantReg fmtK4 (tcN (AMap.get 0 (s.core c.key).tileCfg q.toNat)) ((s.core c.key).vreg (vr.toNat + 1))

/-- The side entries of a tile set with those of new blocks. -/
def vqstSides (s : State) (c : CoreId) (q : BitVec 2) (bs : List QBlock) : List Nat :=
  ((s.core c.key).tile q.toNat).asm ++ bs.flatMap (·.entries)

/-- The core after a VQST: the tile set's counts, its assembly, the scale bytes and SP. -/
def vqstCore (s : State) (c : CoreId) (q : BitVec 2) (pred : BitVec 3) (bs : List QBlock) : Core :=
  Core.suppressed { (s.core c.key).setTile q.toNat
      (if (vqstSides s c q bs).length < 32 then { ((s.core c.key).tile q.toNat).count bs with asm := vqstSides s c q bs }
       else { ((s.core c.key).tile q.toNat).count bs with asm := [], side := ((s.core c.key).tile q.toNat).side + 1 }) with
    sa := putScales (s.core c.key).sa (s.core c.key).sp bs, sp := ((s.core c.key).sp + bs.length) % 64 } pred.toNat

/-- A side row lands: its handle is raw, its index is the side pointer (R121). -/
def SideLands (s : State) (c : CoreId) (q : Nat) (entries : List Nat) (ws : List (Nat × Row)) : Prop :=
  hFmt ((s.core c.key).handle (tcSide (AMap.get 0 (s.core c.key).tileCfg q))) = fmtRaw ∧
  Lands s c (tcSide (AMap.get 0 (s.core c.key).tileCfg q)) ((s.core c.key).tile q).side [sideRow entries] ws

end Sys2Proof.Machine

/-- Quantising into a tile set, and its end. -/
def Obligations.QuantiseSteps : Prop :=
  ∀ (s t : State) (c : CoreId) (vr : BitVec 4) (h : BitVec 6) (x : BitVec 3) (imm : BitVec 8) (q : BitVec 2) (pred : BitVec 3) (i9 : BitVec 9)
    (ws side : List (Nat × Row)),
    (fmtOf t c h ∈ [fmtK8, fmtK4] →
      Lands t c h.toNat (vuIndex (t.core c.key) x.toNat imm.toNat)
        [BitVec.ofNat 512 (packLanes (fmtBits (fmtOf t c h)) ((vqstBlocks t c vr h q).flatMap (·.codes)))] ws →
      ((vqstSides t c q (vqstBlocks t c vr h q)).length < 32 →
        Begins s c (.vqst c vr h x imm q pred) t →
          exec (.vqst c vr h x imm q pred) s =
          .next (t.after c (vqstCore t c q pred (vqstBlocks t c vr h q)) [] (committed (t.core c.key) pred.toNat ws))) ∧
      (32 ≤ (vqstSides t c q (vqstBlocks t c vr h q)).length → SideLands t c q.toNat (vqstSides t c q (vqstBlocks t c vr h q)) side →
        Begins s c (.vqst c vr h x imm q pred) t →
          exec (.vqst c vr h x imm q pred) s =
          .next (t.after c (vqstCore t c q pred (vqstBlocks t c vr h q)) [] (committed (t.core c.key) pred.toNat (ws ++ side))))) ∧
    (i9.toNat % 16 = 0 →
      (((t.core c.key).tile (bits i9.toNat 8 7)).asm = [] ∧ side = [] ∨
        ((t.core c.key).tile (bits i9.toNat 8 7)).asm ≠ [] ∧
          SideLands t c (bits i9.toNat 8 7) ((t.core c.key).tile (bits i9.toNat 8 7)).asm side) →
      (bit i9.toNat 4 = false → bits i9.toNat 6 5 ≠ 0 → ∀ v, v = verdict (AMap.get 0 (t.core c.key).tileCfg (bits i9.toNat 8 7)) ((t.core c.key).tile (bits i9.toNat 8 7)) →
        ∀ y, y = ((t.core c.key).setTile (bits i9.toNat 8 7) Tile.clear).event 0x14 (boolNat v) →
          Begins s c (.vqend c i9) t →
            exec (.vqend c i9) s =
            .next (t.after c { y with verdicts := y.verdicts ++ [(bits i9.toNat 6 5, v, false)], inlineVerdicts := y.inlineVerdicts + boolNat v } [] side)) ∧
      (bit i9.toNat 4 = true → ∀ v, v = verdict (AMap.get 0 (t.core c.key).tileCfg (bits i9.toNat 8 7)) ((t.core c.key).tile (bits i9.toNat 8 7)) →
        ∀ y, y = ((t.core c.key).setTile (bits i9.toNat 8 7) Tile.clear).event 0x14 (boolNat v) →
          Begins s c (.vqend c i9) t →
            exec (.vqend c i9) s =
            .next (t.after c (if v && y.pred (bits i9.toNat 6 5) then
              { y with reports := y.reports ||| 2 ^ bits i9.toNat 8 7, reportCount := y.reportCount + 1, lateReports := AMap.put 0 y.lateReports (bits i9.toNat 8 7) (if y.owes then y.seg + 1 else 0) } else y) [] side)))

/-- The verdict (R133). -/
def Obligations.VerdictRule : Prop :=
  ∀ (cfg : Nat) (t : Tile),
    (verdict cfg t = true ↔ (bits cfg 63 48 < t.sat ∨ bits cfg 47 32 < t.zero ∨ bits cfg 31 16 < t.ovf)) ∧
    (∀ bs : List QBlock, bits cfg 63 48 = 0xFFFF → bits cfg 47 32 = 0xFFFF → bits cfg 31 16 = 0xFFFF → verdict cfg (t.count bs) = false)

/-- Lane by lane arithmetic with one result register. -/
def Obligations.VectorArithmetic : Prop :=
  ∀ (s t : State) (c : CoreId) (vd va vb vc : BitVec 4) (w : Bool),
    (∀ op ∈ [((laneFmt w).add, Instr.fadd c vd va vb w), ((laneFmt w).sub, .fsub c vd va vb w), ((laneFmt w).mul, .fmul c vd va vb w),
        ((laneFmt w).max, .fmax c vd va vb w), ((laneFmt w).min, .fmin c vd va vb w)],
      Begins s c op.2 t →
        ∃ r, exec op.2 s = .next (t.putCore c ((t.core c.key).setV vd.toNat r)) ∧
        ∀ i < laneCount w, laneOf w r i = op.1 (laneOf w (vOf t c va) i) (laneOf w (vOf t c vb) i) % 2 ^ laneBits w) ∧
    (Begins s c (.fma c vd va vb vc w) t →
      ∃ r, exec (.fma c vd va vb vc w) s = .next (t.putCore c ((t.core c.key).setV vd.toNat r)) ∧
      ∀ i < laneCount w, laneOf w r i =
        (laneFmt w).fma (laneOf w (vOf t c va) i) (laneOf w (vOf t c vb) i) (laneOf w (vOf t c vc) i) % 2 ^ laneBits w)

/-- The functions of the vector unit. -/
def Obligations.VectorFunctions : Prop :=
  ∀ (s t : State) (c : CoreId) (vd va : BitVec 4) (w : Bool) (lane : BitVec 7),
    (∀ op ∈ [(laneExp w, Instr.fexp c vd va w), (laneRcp w, .frcp c vd va w), (laneRsq w, .frsq c vd va w), (laneSig w, .fsig c vd va w)],
      Begins s c op.2 t →
        ∃ r, exec op.2 s = .next (t.putCore c ((t.core c.key).setV vd.toNat r)) ∧
        ∀ i < laneCount w, laneOf w r i = op.1 (laneOf w (vOf t c va) i) % 2 ^ laneBits w) ∧
    (Begins s c (.vsum c vd va w) t →
      ∃ r, exec (.vsum c vd va w) s = .next (t.putCore c ((t.core c.key).setV vd.toNat r)) ∧
      ∀ i < laneCount w, laneOf w r i = treeSum w (vOf t c va) % 2 ^ laneBits w) ∧
    (Begins s c (.vmaxr c vd va w) t →
      ∃ r, exec (.vmaxr c vd va w) s = .next (t.putCore c ((t.core c.key).setV vd.toNat r)) ∧
      ∀ i < laneCount w, laneOf w r i = laneMax w (vOf t c va) % 2 ^ laneBits w) ∧
    (lane.toNat < laneCount w → Begins s c (.vbcst c vd va w lane) t →
      ∃ r, exec (.vbcst c vd va w lane) s = .next (t.putCore c ((t.core c.key).setV vd.toNat r)) ∧
      ∀ i < laneCount w, laneOf w r i = laneOf w (vOf t c va) lane.toNat % 2 ^ laneBits w) ∧
    (Begins s c (.vtopk c vd va) t →
      exec (.vtopk c vd va) s = .next (t.putCore c ((t.core c.key).setV vd.toNat (topk (vOf t c va))))) ∧
    (Begins s c (.fcvt c vd va true) t →
      exec (.fcvt c vd va true) s =
      .next (t.putCore c ((t.core c.key).setV vd.toNat (packLanes 32 ((lanes 16 64 (vOf t c va)).map widenLane))))) ∧
    (Begins s c (.fcvt c vd va false) t →
      exec (.fcvt c vd va false) s =
      .next (t.putCore c (((t.core c.key).setV vd.toNat (packLanes 16 ((lanes 32 64 (vOf t c va)).map fun v => (narrow v).1))).clamp
        ((lanes 32 64 (vOf t c va)).countP fun v => (narrow v).2))))

/-- A name of no logical core, and the operand values that R87, R99, R100 and R135 reserve. -/
def Obligations.StepsThatStop : Prop :=
  (∀ (s : State) (i : Instr) (c : CoreId) (n w : Nat), c.valid = false → i.core? = some c → encodeSlot i = some (n, w) → exec i s = .fault (.noSuchCore c.key)) ∧
  (∀ (s : State) (c : CoreId) (vr va : BitVec 4) (h : BitVec 6) (x pred : BitVec 3) (imm : BitVec 8) (sub : BitVec 2) (i9 : BitVec 9) (lane : BitVec 7) (v : Bool),
      (1 < sub.toNat → exec (.vld c vr h x imm sub) s = .refused .reservedEncoding ∧ exec (.vst c vr h x imm sub pred) s = .refused .reservedEncoding) ∧
      (i9.toNat % 16 ≠ 0 ∨ (bit i9.toNat 4 = false ∧ bits i9.toNat 6 5 = 0) → exec (.vqend c i9) s = .refused .reservedEncoding) ∧
      (64 ≤ lane.toNat → exec (.vbcst c vr va false lane) s = .refused .reservedEncoding) ∧
      exec (.dctr c h x 3 pred) s = .refused .reservedEncoding ∧ exec (.pset c 0 v) s = .refused .reservedEncoding)

namespace Sys2Proof.Machine

/-- The configuration an attention pipe works under (R90). -/
abbrev apOf (s : State) (c : CoreId) : Nat := (s.core c.key).apConfig

/-- Positions of a page that take part (R92). -/
def pagePositions (w i : Nat) (causal : Bool) (pos : Nat) : List Nat :=
  (List.range 64).filter fun j => j < bits w 6 0 && (!causal || 64 * i + j ≤ pos)

/-- The heads of a slot after one page (R150). -/
def pageHeads (cfg page : Nat) (query : List Nat) (js : List Nat) (x : ApSlot) : List Head :=
  (List.range (apG cfg)).map fun hd =>
    applyPage (apScale cfg) ((List.range (apD cfg)).map fun e => query.getD (hd * apD cfg + e) 0)
      (js.map fun j => ((List.range (apD cfg)).map (pageElem cfg page 0 j), (List.range (apD cfg)).map (pageElem cfg page 1 j)))
      (x.head (apD cfg) hd)

end Sys2Proof.Machine

/-- The attention-pipe steps, and the corners R150 and R151 name. -/
def Obligations.AttentionPipe : Prop :=
  (∀ (s t : State) (c : CoreId) (h : BitVec 6) (x : BitVec 3) (causal slot : Bool) (arg : BitVec 2) (rows prows : List Row) (stored pstored : List Nat)
      (ws : List (Nat × Row)),
      (Begins s c (.acfg c arg) t →
        exec (.acfg c arg) s = .next (t.putCore c { t.core c.key with apSel := arg.toNat })) ∧
      (Begins s c (.arst c slot) t →
        exec (.arst c slot) s = .next (t.putCore c ((t.core c.key).setSlot slot ApSlot.reset))) ∧
      (Reads t c h.toNat (xOf t c x) (apG (apOf t c) * apD (apOf t c) * 2 / 64 + 1) rows stored →
        Begins s c (.aqld c h x) t →
          exec (.aqld c h x) s = .next (t.after c { t.core c.key with
            query := lanes 16 (apG (apOf t c) * apD (apOf t c)) (packRows (rows.take (apG (apOf t c) * apD (apOf t c) * 2 / 64))),
            queryPos := packRows (rows.drop (apG (apOf t c) * apD (apOf t c) * 2 / 64)) % 2 ^ 32 } stored [])) ∧
      (Reads t c h.toNat (xOf t c x / 16) 1 rows stored → bits (listWord (packRows rows) (xOf t c x)) 31 16 = 0xFFFF →
        Begins s c (.apage c h x causal slot) t →
          exec (.apage c h x causal slot) s = .next (t.after c (t.core c.key) stored [])) ∧
      (∀ w, w = listWord (packRows rows) (xOf t c x) → Reads t c h.toNat (xOf t c x / 16) 1 rows stored → bits w 31 16 ≠ 0xFFFF →
        Reads t c (apPool (apOf t c)) (bits w 31 16 * apPageRows (apOf t c)) (apPageRows (apOf t c)) prows pstored →
        Begins s c (.apage c h x causal slot) t →
          exec (.apage c h x causal slot) s = .next (t.after c
          (if pagePositions w (xOf t c x) causal (t.core c.key).queryPos = [] then t.core c.key
           else (t.core c.key).setSlot slot (slotOf (pageHeads (apOf t c) (packRows prows) (t.core c.key).query
             (pagePositions w (xOf t c x) causal (t.core c.key).queryPos) ((t.core c.key).slot slot)))) (stored ++ pstored) [])) ∧
      (Lands t c h.toNat (xOf t c x) (partialRows (apOf t c) ((t.core c.key).slot slot)) ws →
        Begins s c (.aout c h x slot) t →
          exec (.aout c h x slot) s = .next (t.after c (t.core c.key) [] ws)) ∧
      (Reads t c h.toNat (xOf t c x) (apG (apOf t c) * apD (apOf t c) / 16 + (apG (apOf t c) + 7) / 8) rows stored →
        Begins s c (.amrg c h x slot) t →
          exec (.amrg c h x slot) s = .next (t.after c ((t.core c.key).setSlot slot
          (slotOf ((headsOfRows (apOf t c) rows).zipIdx.map fun p => mergeHead (((t.core c.key).slot slot).head (apD (apOf t c)) p.2) p.1))) stored [])) ∧
      (Lands t c h.toNat (xOf t c x) (rowsOf (apG (apOf t c) * apD (apOf t c) * 2 / 64)
          (packLanes 16 ((List.range (apG (apOf t c))).flatMap fun hd => normHead (((t.core c.key).slot slot).head (apD (apOf t c)) hd)))) ws →
        Begins s c (.anorm c h x slot) t →
          exec (.anorm c h x slot) s = .next (t.after c (t.core c.key) [] ws))) ∧
  ((∀ (sc : Nat) (q : List Nat) (hd : Head), applyPage sc q [] hd = hd) ∧
    (∀ (sc : Nat) (q : List Nat) (js : List (List Nat × List Nat)) (hd : Head), js ≠ [] →
      (q.any Fmt.bf16.isNan = true ∨ js.any (fun p => p.1.any fp32Nan || p.2.any fp32Nan) = true ∨ fp32Nan hd.m = true ∨ fp32Nan hd.l = true ∨ hd.o.any fp32Nan = true ∨ fp32Nan sc = true) →
      applyPage sc q js hd = ⟨Fmt.fp32.qnan, Fmt.fp32.qnan, hd.o.map fun _ => Fmt.fp32.qnan⟩) ∧
    (∀ a b : Head, a.m = negInf → b.m = negInf → mergeHead a b = a) ∧
    (∀ a : Head, a.l = 0 → normHead a = a.o.map fun _ => 0))

namespace Sys2Proof.Machine

/-- A route entry of a core, and the header of its template (R95). -/
abbrev routeOf (s : State) (c : CoreId) (r : BitVec 6) : Nat := (s.core c.key).route r.toNat
abbrev tmplOf (s : State) (c : CoreId) (r : BitVec 6) : Nat := routeHdr (routeOf s c r)

/-- Room in the egress queue for a packet of n flits (R66). -/
def EgressRoom (s : State) (c : CoreId) (n : Nat) : Prop := flitCount (s.core c.key).egress + n ≤ 64

/-- The core with a packet sent, unless the predicate is false (R78). -/
def sent (s : State) (c : CoreId) (pred : BitVec 3) (hdr : Nat) (flits : List Row) : Core :=
  (if (s.core c.key).commits pred.toNat then (s.core c.key).send c.key hdr flits else s.core c.key).suppressed pred.toNat

/-- Consecutive rows from a row onward. -/
def rowsFrom (row : Nat) (data : List Row) : List (Nat × Row) := ((List.range data.length).zip data).map fun p => (row + p.1, p.2)

end Sys2Proof.Machine

/-- The mover steps that stay in the core. -/
def Obligations.MoverLocalSteps : Prop :=
  ∀ (s t : State) (c : CoreId) (hs hd : BitVec 6) (xs xd : BitVec 3) (n1 : BitVec 6) (a b : BitVec 2) (pred : BitVec 3) (sel : BitVec 2)
    (rows : List Row) (stored : List Nat) (ws : List (Nat × Row)),
    (Reads t c hs.toNat (xOf t c xs) (n1.toNat + 1) rows stored → Lands t c hd.toNat (xOf t c xd) rows ws →
      Begins s c (.dcpy c hs xs hd xd n1 pred) t →
        exec (.dcpy c hs xs hd xd n1 pred) s =
        .next (t.after c ((t.core c.key).suppressed pred.toNat) stored (committed (t.core c.key) pred.toNat ws))) ∧
    (∀ row, Reads t c hs.toNat (xOf t c xs) 1 rows stored → storedRow ((t.core c.key).handle hd.toNat) (xOf t c xd) = .ok row →
      ((t.core c.key).commits pred.toNat = false →
        Begins s c (.dnw c hs xs hd xd a b pred) t →
          exec (.dnw c hs xs hd xd a b pred) s = .next (t.after c ((t.core c.key).suppressed pred.toNat) stored [])) ∧
      ((t.core c.key).commits pred.toNat = true → (t.core c.key).gather = [] →
        Begins s c (.dnw c hs xs hd xd a b pred) t →
          exec (.dnw c hs xs hd xd a b pred) s =
          .next ((t.putCore c (((t.core c.key).countReads stored).keepOld t c.key [row])).putCore c { ((t.core c.key).countReads stored).keepOld t c.key [row] with
            gather := [⟨row, overlay 0 (BitVec.ofNat 512 ((packRows rows >>> (128 * a.toNat) % 2 ^ 128) <<< (128 * b.toNat))) (0xFFFF <<< (16 * b.toNat)),
              0xFFFF <<< (16 * b.toNat)⟩] }))) ∧
    (sel.toNat ≠ 3 → Lands t c hd.toNat (xOf t c xd) [snapshotRow t c.key sel.toNat (t.core c.key)] ws →
      Begins s c (.dctr c hd xd sel pred) t →
        exec (.dctr c hd xd sel pred) s =
        .next (t.after c ((t.core c.key).suppressed pred.toNat) [] (committed (t.core c.key) pred.toNat ws)))

/-- The mover steps that send. -/
def Obligations.MoverSendingSteps : Prop :=
  ∀ (s t : State) (c : CoreId) (hs hi route : BitVec 6) (xs xd xi : BitVec 3) (len : BitVec 4) (pred : BitVec 3)
    (rows lrows : List Row) (stored lstored : List Nat),
    (Reads t c hs.toNat (xOf t c xs) (len.toNat + 1) rows stored →
      (routeLocal (routeOf t c route) = false → EgressRoom t c (len.toNat + 1) →
        Begins s c (.dsend c hs xs route xd len pred) t →
          exec (.dsend c hs xs route xd len pred) s = .next (t.after c (sent t c pred
          (setBits (setBits (tmplOf t c route) 40 37 len.toNat) 27 12 ((hdrSpad (tmplOf t c route) + xOf t c xd) % 65536)) rows) stored [])) ∧
      (routeLocal (routeOf t c route) = true → (hdrSpad (tmplOf t c route) + xOf t c xd) % 65536 + (len.toNat + 1) ≤ 51200 →
        Begins s c (.dsend c hs xs route xd len pred) t →
          exec (.dsend c hs xs route xd len pred) s = .next (t.after c ((t.core c.key).suppressed pred.toNat) stored
          (committed (t.core c.key) pred.toNat (rowsFrom ((hdrSpad (tmplOf t c route) + xOf t c xd) % 65536) rows)))) ∧
      (EgressRoom t c (len.toNat + 1) →
        Begins s c (.dqput c hs xs route xd len pred) t →
          exec (.dqput c hs xs route xd len pred) s = .next (t.after c (sent t c pred
          (setBits (setBits (tmplOf t c route) 40 37 len.toNat) 27 12 (hdrSpad (tmplOf t c route) + xOf t c xd)) rows) stored []))) ∧
    (Reads t c hs.toNat (xOf t c xs) 1 rows stored → EgressRoom t c 1 →
      (Begins s c (.dqget c hs xs route xd pred) t →
        exec (.dqget c hs xs route xd pred) s = .next (t.after c (sent t c pred
          (setBits (setBits (tmplOf t c route) 40 37 0) 27 12 (hdrSpad (tmplOf t c route) + xOf t c xd)) rows) stored [])) ∧
      (hdrPfmt (tmplOf t c route) = 2 → Begins s c (.dred c hs xs route xd pred) t →
        exec (.dred c hs xs route xd pred) s = .next (t.after c (sent t c pred
          (setBits (setBits (setBits (tmplOf t c route) 40 37 0) 27 12 (hdrSpad (tmplOf t c route) + xOf t c xd)) 11 4 (packRows rows >>> 256))
          [BitVec.ofNat 512 (packRows rows % 2 ^ 256)]) stored [])) ∧
      (hdrPfmt (tmplOf t c route) ≠ 0 → hdrPfmt (tmplOf t c route) ≠ 2 → Begins s c (.dred c hs xs route xd pred) t →
        exec (.dred c hs xs route xd pred) s = .next (t.after c (sent t c pred
          (setBits (setBits (tmplOf t c route) 40 37 0) 27 12 (hdrSpad (tmplOf t c route) + xOf t c xd)) rows) stored []))) ∧
    (hdrPfmt (tmplOf t c route) = 0 → Reads t c hs.toNat (xOf t c xs) 2 rows stored → EgressRoom t c 2 →
      Begins s c (.dred c hs xs route xd pred) t →
        exec (.dred c hs xs route xd pred) s = .next (t.after c (sent t c pred
          (setBits (setBits (tmplOf t c route) 40 37 1) 27 12 (hdrSpad (tmplOf t c route) + xOf t c xd)) rows) stored [])) ∧
    (∀ p, Readable t c hs → Reads t c hi.toNat (xOf t c xi / 16) 1 lrows lstored → p = packRows lrows >>> (32 * (xOf t c xi % 16) + 16) % 65536 →
      (routeLocal (routeOf t c route) = true ∨ EgressRoom t c (hdrLen (tmplOf t c route) + 1)) →
      (p = 0xFFFF → Begins s c (.dscat c hs xs route hi xi pred) t →
        exec (.dscat c hs xs route hi xi pred) s = .next (t.after c ((t.core c.key).suppressed pred.toNat) lstored [])) ∧
      (p ≠ 0xFFFF → Reads t c hs.toNat (xOf t c xs) (hdrLen (tmplOf t c route) + 1) rows stored →
        (routeLocal (routeOf t c route) = false → Begins s c (.dscat c hs xs route hi xi pred) t →
          exec (.dscat c hs xs route hi xi pred) s = .next (t.after c (sent t c pred
          (setBits (setBits (tmplOf t c route) 40 37 (hdrLen (tmplOf t c route))) 27 12
            ((hdrSpad (tmplOf t c route) + p * routeStride (routeOf t c route)) % 65536)) rows) (lstored ++ stored) [])) ∧
        (routeLocal (routeOf t c route) = true →
          (hdrSpad (tmplOf t c route) + p * routeStride (routeOf t c route)) % 65536 + (hdrLen (tmplOf t c route) + 1) ≤ 51200 →
          Begins s c (.dscat c hs xs route hi xi pred) t →
            exec (.dscat c hs xs route hi xi pred) s = .next (t.after c ((t.core c.key).suppressed pred.toNat) (lstored ++ stored)
            (committed (t.core c.key) pred.toNat (rowsFrom ((hdrSpad (tmplOf t c route) + p * routeStride (routeOf t c route)) % 65536) rows))))))

namespace Sys2Proof.Machine

/-- The core after a sequencer step whose own effect is f: the word closes after it (R76, R101). -/
def State.word (s : State) (c : CoreId) (f : Core → Core) : State := s.putCore c (f (s.core c.key)).closeWord

/-- The sync object that entry e of a core names (R102). -/
def objOf (s : State) (c : CoreId) (e : BitVec 5) : Nat := syObject ((s.core c.key).syncEntry e.toNat)

end Sys2Proof.Machine

/-- The waits and the sync-object steps, and what a wait leaves in its entry (R102). -/
def Obligations.WaitAndSync : Prop :=
  (∀ (s t : State) (c : CoreId) (ctr : BitVec 5) (inc : BitVec 7) (e imm : BitVec 5),
      ((t.core c.key).issued % 16 ≠ 0 ∨ waitMet (t.core c.key) ctr.toNat = true → Begins s c (.wait c ctr inc) t → exec (.wait c ctr inc) s =
        .next (t.word c fun r => { r with tgt := AMap.put 0 r.tgt ctr.toNat ((AMap.get 0 r.tgt ctr.toNat + inc.toNat) % 65536) })) ∧
      ((t.core c.key).issued % 16 ≠ 0 ∨ barrierMet t (t.core c.key) e.toNat = true → Begins s c (.bwait c e) t →
        exec (.bwait c e) s = .next (t.putCore c (barrierDone e.toNat (t.core c.key)))) ∧
      ((t.core c.key).issued % 16 ≠ 0 ∨ counterMet t (t.core c.key) e.toNat = true → Begins s c (.cwait c e) t →
        exec (.cwait c e) s = .next (t.putCore c (counterDone e.toNat (t.core c.key)))) ∧
      (∀ o, o = t.object (objOf t c e) → o.counter = false → o.expected ≠ 0 → Begins s c (.arrive c e) t → exec (.arrive c e) s =
        .next ((t.apply (.object (objOf t c e) (if o.arrived + 1 ≥ o.expected then { o with arrived := 0, gen := !o.gen } else { o with arrived := o.arrived + 1 }))).putCore c
          (t.core c.key).closeWord)) ∧
      (∀ o, o = t.object (objOf t c e) → o.counter = true → Begins s c (.cadd c e imm) t → exec (.cadd c e imm) s =
        .next ((t.apply (.object (objOf t c e) { o with value := (o.value + (imm.toNat + 1)) % 2 ^ 32 })).putCore c (t.core c.key).closeWord))) ∧
  (∀ (s : State) (c : CoreId) (ctr : BitVec 5) (inc : BitVec 7) (e : BitVec 5),
      (s.core c.key).issued = 0 → (∀ n < 4, slotBits n (s.core c.key).word = 0) → holdInForce s = false →
      ∀ y ∈ [(StallCause.arrival ctr.toNat inc.toNat, Instr.wait c ctr inc, waitMet (s.core c.key) ctr.toNat),
          (.barrier e.toNat, .bwait c e, barrierMet s (s.core c.key) e.toNat), (.counter e.toNat, .cwait c e, counterMet s (s.core c.key) e.toNat)],
        Offered s c y.2.1 → y.2.2 = false → exec y.2.1 s =
          .next (s.putCore c { (s.core c.key).waits c [y.1] with held := some ⟨y.1, y.2.1, s.now⟩, heldBy := [], heldCnt := 0 })) ∧
  (∀ (c : Core) (e : Nat), c.syncEntry e < 2 ^ 64 →
      syGen ((barrierDone e c).syncEntry e) = !syGen (c.syncEntry e) ∧
      (∀ i < 64, i ≠ 49 → bit ((barrierDone e c).syncEntry e) i = bit (c.syncEntry e) i) ∧
      syTarget ((counterDone e c).syncEntry e) = (syTarget (c.syncEntry e) + syStep (c.syncEntry e)) % 2 ^ 32 ∧
      (∀ i, 32 ≤ i → i < 64 → bit ((counterDone e c).syncEntry e) i = bit (c.syncEntry e) i) ∧
      (∀ e', e' ≠ e → (barrierDone e c).syncEntry e' = c.syncEntry e' ∧ (counterDone e c).syncEntry e' = c.syncEntry e'))

/-- The sequencer steps with their effect of R100, and the no-operations. -/
def Obligations.SequencerSteps : Prop :=
  (∀ (s t : State) (c : CoreId) (ctr : BitVec 5) (v7 : BitVec 7) (x : BitVec 3) (v9 : BitVec 9) (p : BitVec 2) (b : Bool) (h : BitVec 6) (d : BitVec 4),
      (Begins s c (.nop c) t → exec (.nop c) s = .next (t.word c id)) ∧
      (Begins s c (.cset c ctr v7) t → exec (.cset c ctr v7) s = .next (t.word c fun r => r.setCtr ctr.toNat v7.toNat)) ∧
      (Begins s c (.tset c ctr v7) t → exec (.tset c ctr v7) s = .next (t.word c fun r => { r with tgt := AMap.put 0 r.tgt ctr.toNat v7.toNat })) ∧
      (Begins s c (.tadd c ctr v7) t → exec (.tadd c ctr v7) s =
        .next (t.word c fun r => { r with tgt := AMap.put 0 r.tgt ctr.toNat ((AMap.get 0 r.tgt ctr.toNat + 128 * v7.toNat) % 65536) })) ∧
      (x.toNat ≠ 0 → Begins s c (.xset c x v9) t → exec (.xset c x v9) s = .next (t.word c fun r => { r with x := AMap.put 0 r.x x.toNat v9.toNat })) ∧
      (x.toNat ≠ 0 → Begins s c (.xadd c x v9) t → exec (.xadd c x v9) s =
          .next (t.word c fun r => { r with x := AMap.put 0 r.x x.toNat (((r.xreg x.toNat : Int) + signed 9 v9.toNat) % 65536).toNat })) ∧
      (Begins s c (.xset c 0 v9) t → exec (.xset c 0 v9) s = .next (t.word c id)) ∧
      (Begins s c (.xadd c 0 v9) t → exec (.xadd c 0 v9) s = .next (t.word c id)) ∧
      (p.toNat ≠ 0 → Begins s c (.pset c p b) t → exec (.pset c p b) s = .next (t.word c fun r => { r with p := AMap.put 0 r.p p.toNat (boolNat b) })) ∧
      (hGuarded ((t.core c.key).handle h.toNat) = true → hFull ((t.core c.key).handle h.toNat) = true → Begins s c (.rel c h) t →
        exec (.rel c h) s = .next (t.word c fun r =>
          Core.setCtr { r with handles := AMap.put 0 r.handles h.toNat (r.handle h.toNat - 2 ^ 43),
                               opened := if r.parked.any (fun p => inFootprint (r.handle h.toNat) (hdrSpad p.h)) then r.opened ++ [h.toNat] else r.opened }
            (hGctr (r.handle h.toNat)) (r.counter (hGctr (r.handle h.toNat)) + 65536 - hGtarget (r.handle h.toNat)))) ∧
      (Begins s c (.loop c d) t → exec (.loop c d) s = .next (t.putCore c (Core.setX
        { (t.core c.key).closeWord with
          stack := ⟨d.toNat, (t.core c.key).pc + 1,
            if loopTrip (AMap.get 0 (t.core c.key).loops d.toNat) = 0 then none else some (loopTrip (AMap.get 0 (t.core c.key).loops d.toNat))⟩
              :: (t.core c.key).closeWord.stack }
        (loopReg (AMap.get 0 (t.core c.key).loops d.toNat)) (loopInit (AMap.get 0 (t.core c.key).loops d.toNat)))))) ∧
  (∀ (s t : State) (c : CoreId) (n : BitVec 10),
      ((t.core c.key).owes = false → Begins s c (.beat c n) t →
        exec (.beat c n) s = .next (t.putCore c { (t.core c.key).closeWord.paused with run := .waitEdge, left := 0, next := n.toNat, heldCnt := 0 })) ∧
      ((t.core c.key).owes = true → Begins s c (.beat c n) t →
        exec (.beat c n) s = .next (t.putCore c { (t.core c.key).closeWord with
          run := .issuing, left := n.toNat, owes := false, seg := (t.core c.key).owedSeg, owedCyc := 0,
          cycle := (t.core c.key).closeWord.cycle - (t.core c.key).owedCyc, tagAt := (t.core c.key).tagAt.map (· - (t.core c.key).owedCyc) })) ∧
      (Begins s c (.done c) t → exec (.done c) s = .next (t.putCore c { (t.core c.key).closeWord with run := .done, left := 0, owes := false, owedCyc := 0 }))) ∧
  (∀ (s t : State) (c : CoreId), ∀ i ∈ [Instr.mnop c, .vnop c, .anop c, .dnop c], Begins s c i t → exec i s = .next (t.putCore c (t.core c.key)))

/-- The events that end a stall. -/
def Obligations.HeldCoreEvents : Prop :=
  (∀ (s : State) (c : CoreId), c.valid = true →
    ∀ i ∈ [Instr.waitSatisfied c, .syncRelease c, .guardedReadRelease c, .egressRoom c], ∃ t, exec i s = .next t) ∧
  (∀ (s t u : State) (c : CoreId) (ctr e : BitVec 5) (inc : BitVec 7) (t0 : Nat), (s.core c.key).heldBy = [] → u = s.putCore c (s.freedCore c) →
    wordHold u c (u.core c.key) = none →
    ((s.core c.key).held = some ⟨.arrival ctr.toNat inc.toNat, .wait c ctr inc, t0⟩ → waitMet (s.core c.key) ctr.toNat = true →
      Begins u c (.wait c ctr inc) t → exec (.waitSatisfied c) s = .next (t.putCore c (waitDone ctr.toNat inc.toNat (t.core c.key)))) ∧
    ((s.core c.key).held = some ⟨.barrier e.toNat, .bwait c e, t0⟩ → barrierMet s (s.core c.key) e.toNat = true →
      Begins u c (.bwait c e) t → exec (.syncRelease c) s = .next (t.putCore c (barrierDone e.toNat (t.core c.key)))) ∧
    ((s.core c.key).held = some ⟨.counter e.toNat, .cwait c e, t0⟩ → counterMet s (s.core c.key) e.toNat = true →
      Begins u c (.cwait c e) t → exec (.syncRelease c) s = .next (t.putCore c (counterDone e.toNat (t.core c.key))))) ∧
  (∀ (s u : State) (c : CoreId) (vr : BitVec 4) (h : BitVec 6) (x : BitVec 3) (imm : BitVec 8) (t0 : Nat), c.valid = true →
    (s.core c.key).heldBy = [] → u = s.putCore c (s.freedCore c) → wordHold u c (u.core c.key) = none →
    (s.core c.key).held = some ⟨.guard h.toNat, .vld c vr h x imm 0, t0⟩ → hFull ((s.core c.key).handle h.toNat) = true →
    exec (.guardedReadRelease c) s = exec (.vld c vr h x imm 0) u) ∧
  (∀ (s u v : State) (c : CoreId) (hs route : BitVec 6) (xs xd pred : BitVec 3) (len : BitVec 4) (flits t0 : Nat) (r : List Packet × List Packet), c.valid = true →
    (s.core c.key).heldBy = [] → (s.core c.key).held = some ⟨.egress flits, .dsend c hs xs route xd len pred, t0⟩ → flits ≤ 64 →
    r = injectUntil flits (s.core c.key).egress.length (s.core c.key).egress →
    u = (s.apply (.net (s.net ++ r.1))).putCore c (Core.event { s.core c.key with egress := r.2 } 0x0E (flitCount r.1)) →
    v = u.putCore c (u.freedCore c) →
    r.1 ++ r.2 = (s.core c.key).egress ∧
    (wordHold v c (v.core c.key) = none → exec (.egressRoom c) s = exec (.dsend c hs xs route xd len pred) v)) ∧
  (∀ (s : State) (c : CoreId) (st : Stall) (x : StallCause) (more : List StallCause), c.valid = true →
    (s.core c.key).held = some st → isGuard st.cause = true → causeMet s (s.core c.key) st.cause = true → (s.core c.key).heldBy = x :: more →
    (∀ y ∈ x :: more, causeMet s (s.core c.key) y = false) →
    exec (.guardedReadRelease c) s = .next (s.putCore c { (s.core c.key).countWait (s.heldCycles c.key (s.core c.key)) with
      held := some { st with cause := x }, heldBy := more })) ∧
  (∀ (s : State) (c : CoreId), c.valid = true → AMap.wf Core.fresh s.cores = true →
    ∀ x ∈ [(isGuard, 0x02, Instr.guardTimeout c), (isWait, 0x03, .waitTimeout c), (isEgress, 0x04, .egressTimeout c)],
      ∀ st, (s.core c.key).held = some st → x.1 st.cause = true → (s.core c.key).run ≠ .voided →
        ∃ t, exec x.2.2 s = .next t ∧ st.since + 4 * s.period ≤ t.now ∧ (t.core c.key).run = .voided ∧ (t.core c.key).held = none ∧
          (t.core c.key).faultCode = x.2.1 ∧ holdInForce t = true ∧
          State.sameBut [.now, .cores, .dict, .sm, .smBad, .console, .beat, .col, .wire, .ports] s t)

/-- A word waits as a whole (R76); a guarded handle in FILL holds the reader (R68); a step that breaks a rule voids (R73). -/
def Obligations.StepsHoldOrVoid : Prop :=
  (∀ (s : State) (c : CoreId) (i : Instr) (n w : Nat), i.wf = true → i.core? = some c → encodeSlot i = some (n, w) →
      (c.valid = true → (s.core c.key).offers c i = false → exec i s = .next s) ∧
      (Offered s c i → (s.core c.key).issued = 0 →
        (∀ cause j more, wordHolds s c (s.core c.key) = (cause, j) :: more →
          (holdInForce s = false → exec i s = .next (s.putCore c { (s.core c.key).waits c (cause :: more.map (·.1)) with
            held := some ⟨cause, j, s.now⟩, heldBy := more.map (·.1), heldCnt := 0 })) ∧
          (holdInForce s = true → exec i s = .next (s.putCore c { ((s.core c.key).waits c (cause :: more.map (·.1))).tagEnded with
            run := .stopped, held := none, heldBy := [] }))) ∧
        (∀ row, wordHold s c (s.core c.key) = none → firstClash (s.core c.key).claims (wordClaims s c (s.core c.key)) = some row →
          s.beat.hold = .none → AMap.wf Core.fresh s.cores = true →
          ∃ u, exec i s = .next u ∧ u.core c.key = { s.core c.key with run := .voided, held := none, heldBy := [], faultCode := 0x07, faultAt := s.waferTime } ∧
            u.beat.hold = .requested ∧ u.spads = s.spads ∧ u.hbm = s.hbm))) ∧
  (∀ (s : State) (c : CoreId) (vr : BitVec 4) (h : BitVec 6) (x : BitVec 3) (imm : BitVec 8), Offered s c (.vld c vr h x imm 0) →
      (s.core c.key).issued = 0 → (∀ n < 5, n ≠ 1 → slotBits n (s.core c.key).word = 0) →
      hGuarded ((s.core c.key).handle h.toNat) = true → hFull ((s.core c.key).handle h.toNat) = false →
      (holdInForce s = false → exec (.vld c vr h x imm 0) s =
        .next (s.putCore c { (s.core c.key).waits c [.guard h.toNat] with held := some ⟨.guard h.toNat, .vld c vr h x imm 0, s.now⟩, heldBy := [], heldCnt := 0 })) ∧
      (holdInForce s = true → exec (.vld c vr h x imm 0) s =
        .next (s.putCore c { ((s.core c.key).waits c [.guard h.toNat]).tagEnded with run := .stopped, held := none, heldBy := [] }))) ∧
  (∀ (s t : State) (c : CoreId) (vr : BitVec 4) (h : BitVec 6) (x : BitVec 3) (imm : BitVec 8), s.beat.hold = .none → AMap.wf Core.fresh s.cores = true →
      ∀ y ∈ [(0x05, Instr.vld c vr h x imm 0,
            (decide (hMode ((s.core c.key).handle h.toNat) = 0) && decide (hLength ((s.core c.key).handle h.toNat) ≤ vuIndex (s.core c.key) x.toNat imm.toNat)
              && !(hGuarded ((s.core c.key).handle h.toNat))) = true),
          (0x06, .vldq c vr h x imm, (!(hGuarded ((s.core c.key).handle h.toNat)) && !([fmtK8, fmtK4].contains (fmtOf s c h))) = true),
          (0x09, .rel c h, (hGuarded ((s.core c.key).handle h.toNat) && !(hFull ((s.core c.key).handle h.toNat))) = true)],
        y.2.2 → Begins s c y.2.1 t →
        ∃ u, exec y.2.1 s = .next u ∧ u.core c.key = { t.core c.key with run := .voided, held := none, heldBy := [], faultCode := y.1, faultAt := s.waferTime } ∧
          u.reg 0x4024 = (s.reg 0x4024 + 1) % 2 ^ regWidth (regKey 0x4024 0) ∧ u.beat.hold = .requested ∧ u.spads = s.spads ∧ u.hbm = s.hbm)

/-- R40: barriers and counters. -/
def Obligations.SyncObjectRule : Prop :=
  (∀ o : SyncObj, o.counter = false → 1 ≤ o.expected → o.expected ≤ 65535 →
    (o.arrived + 1 < o.expected → o.arrive = { o with arrived := o.arrived + 1 }) ∧
    (o.arrived + 1 = o.expected → o.arrive.gen = !o.gen ∧ o.arrive.arrived = 0 ∧ o.arrive.expected = o.expected)) ∧
  (∀ (s : State) (n : Nat) (o : SyncObj) (c : Core) (e : Nat), s.object n = o → o.counter = false → 1 ≤ o.expected → o.arrived + 1 = o.expected →
    syObject (c.syncEntry e) = n → syGen (c.syncEntry e) = o.gen → barrierMet (s.apply (.object n o.arrive)) c e = true) ∧
  (∀ (o : SyncObj) (k : Nat), o.counter = true → o.value < 2 ^ 32 → o.add k = { o with value := (o.value + k) % 2 ^ 32 }) ∧
  (∀ (s : State) (c : Core) (e : Nat), (s.object (syObject (c.syncEntry e))).value < 2 ^ 32 →
    (counterMet s c e = true ↔
      0 ≤ signed 32 (twos 32 (((s.object (syObject (c.syncEntry e))).value : Int) - (syTarget (c.syncEntry e) : Int)))))

namespace Sys2Proof.Machine

/-- The packets in the network with those in a source core's egress queue behind them; a core voided in s sends none (R73). -/
def waitingOf (s t : State) (src : Nat) : List Packet :=
  t.net ++ if src < 2 ^ 17 && (s.core src).run != .voided then (t.core src).egress else []

/-- A packet that a command takes next: brought from outside, with no earlier one of its source and destination waiting, or the first that is wanted of those in flight from a source, at place i, where none passes an earlier one of its source and destination (R27). -/
def Takes (s : State) (src : PktSource) (want : Packet → Bool) (q : Packet) (i : Nat) : Prop := match src with
  | .given p => p = q ∧ want q = true ∧ s.net.any (sameFlow q) = false ∧ (q.src < 2 ^ 17 → (s.core q.src).egress.any (sameFlow q) = false)
  | .inFlight k => nextWanted (fun p => p.src == k && want p) (waitingOf s s k) = some i ∧ (waitingOf s s k)[i]? = some q

/-- It has left where it waited, and nothing else has. -/
def Left (s t : State) (src : PktSource) (i : Nat) : Prop := match src with
  | .given _ => t.net = s.net
  | .inFlight k => waitingOf s t k = (waitingOf s s k).eraseIdx i

/-- The cores but for the one that a packet leaves and some others are as they were. -/
def coresBut (s t : State) (src : PktSource) (ks : List Nat) : Prop := ∀ k, k ∉ ks → src ≠ .inFlight k → t.core k = s.core k

/-- A packet for a core's scratchpad: WRITE or a reduction's result, whole rows or 8-byte lanes, or QDATA (R31, R32, R65). -/
def RowPacket (p : Packet) (c : CoreId) : Prop :=
  c.valid = true ∧ hdrKind p.h ∈ [0, 1, 2, 4] ∧ p.flits.length = hdrLen p.h + 1 ∧ hdrSpad p.h + hdrLen p.h < 51200

/-- The command that releases the packet to its core, and what it takes. -/
def arrival (src : PktSource) (p : Packet) (c : CoreId) : Instr := if hdrKind p.h = 4 then .qdata src c else .write src c
def arrivals (s : State) (p : Packet) (c : CoreId) : Packet → Bool := s.arrivesAt c (if hdrKind p.h = 4 then [4] else [0, 1, 2])

/-- The lanes of a narrow WRITE; 0: whole rows. -/
def lanesOf (p : Packet) : Nat := if hdrKind p.h = 0 then hdrScale p.h else 0

/-- A narrow WRITE has been written: units see its bytes under the lane mask, every other byte is what they saw, and its counter has advanced by its rows (R62, R65, R71). -/
def WrittenNarrow (s t : State) (c : CoreId) (p : Packet) : Prop :=
  (∀ i ≤ hdrLen p.h, ∀ b < 64, bits (t.unitRow c.key (t.core c.key) (hdrSpad p.h + i)).toNat (8 * b + 7) (8 * b) =
    if bit (laneMask (lanesOf p)) b then bits (p.flits.getD i 0).toNat (8 * b + 7) (8 * b)
    else bits (s.unitRow c.key (s.core c.key) (hdrSpad p.h + i)).toNat (8 * b + 7) (8 * b)) ∧
  (∀ n, n < hdrSpad p.h ∨ hdrSpad p.h + hdrLen p.h < n → t.unitRow c.key (t.core c.key) n = s.unitRow c.key (s.core c.key) n) ∧
  (t.core c.key).counter (hdrCtr p.h) = ((s.core c.key).counter (hdrCtr p.h) + (hdrLen p.h + 1)) % 65536 ∧
  (∀ i, i ≠ hdrCtr p.h → (t.core c.key).counter i = (s.core c.key).counter i)

/-- A packet has been written: its rows hold its flits, every other byte is what it was, and its counter has advanced by its rows (R62, R65). -/
def Written (s t : State) (c : CoreId) (p : Packet) : Prop :=
  (∀ i ≤ hdrLen p.h, t.row c.key (hdrSpad p.h + i) = p.flits.getD i 0) ∧
  (∀ a, a / 64 < hdrSpad p.h ∨ hdrSpad p.h + hdrLen p.h < a / 64 → Mem.byte (t.spad c.key) a = Mem.byte (s.spad c.key) a) ∧
  (∀ k, k ≠ c.key → t.spad k = s.spad k) ∧
  (t.core c.key).counter (hdrCtr p.h) = ((s.core c.key).counter (hdrCtr p.h) + (hdrLen p.h + 1)) % 65536 ∧
  (∀ i, i ≠ hdrCtr p.h → (t.core c.key).counter i = (s.core c.key).counter i)

end Sys2Proof.Machine

/-- The outcomes at an ingress (R18, R27, R64, R65, R69). -/
def Obligations.PacketsArrive : Prop :=
  (∀ (s : State) (c : CoreId) (src : PktSource) (p : Packet) (i : Nat), RowPacket p c → Takes s src (arrivals s p c) p i →
    (arrayGone s (c.key / 1024) = false → (s.core c.key).fifo = [] → (s.core c.key).opened = [] → p.flits.length ≤ 32 →
      (mustPark (s.core c.key) p = false →
        (lanesOf p = 0 → ∃ t, exec (arrival src p c) s = .next t ∧ Written s t c p ∧ (t.core c.key).fifo = [] ∧ Left s t src i ∧ coresBut s t src [c.key] ∧
          State.sameBut [.cores, .spads, .hubs, .arb, .free, .net] s t) ∧
        (lanesOf p ≠ 0 → (s.core c.key).gather.length + (hdrLen p.h + 1) ≤ 64 → ((s.core c.key).gather.map (·.row)).Nodup →
          ∃ t, exec (arrival src p c) s = .next t ∧ WrittenNarrow s t c p ∧ Left s t src i ∧ coresBut s t src [c.key] ∧ State.sameBut [.cores, .spads, .hubs, .arb, .free, .net] s t)) ∧
      (mustPark (s.core c.key) p = true → (s.core c.key).parked.length < 4 →
        ∃ t, exec (arrival src p c) s = .next t ∧ (t.core c.key).parked = (s.core c.key).parked ++ [p] ∧ (t.core c.key).fifo = [] ∧
          (t.core c.key).ctr = (s.core c.key).ctr ∧ Left s t src i ∧ coresBut s t src [c.key] ∧ State.sameBut [.cores, .hubs, .arb, .free, .net] s t)) ∧
    (arrayGone s (c.key / 1024) = false → 32 < flitCount (s.core c.key).fifo + p.flits.length →
      ∃ t, exec (arrival src p c) s = .next t ∧ t.net.head? = some p ∧ (src = .given p → t.net = p :: s.net) ∧ coresBut s t src [] ∧ State.sameBut [.net, .hubs, .free, .cores] s t) ∧
    (arrayGone s (c.key / 1024) = true → ∃ t, exec (arrival src p c) s = .next t ∧ Left s t src i ∧ coresBut s t src [] ∧ State.sameBut [.net, .cores] s t)) ∧
  (∀ (s : State) (c : CoreId) (p : Packet), RowPacket p c → arrivals s p c p = true → (p.src < 2 ^ 17 → (s.core p.src).egress.any (sameFlow p) = false) → s.net.any (sameFlow p) = true →
    exec (arrival (.given p) p c) s = .next (s.apply (.net (s.net ++ [p]))))

/-- Delayed writes: how they land, and that every unit sees them before (R55, R69, R71). -/
def Obligations.DelayedWrites : Prop :=
  ((∀ (s : State) (c : CoreId) (p : Packet), RowPacket p c → lanesOf p = 0 → (s.core c.key).fifo = [] → (s.core c.key).parked = [p] →
    (s.core c.key).rowGuarded (hdrSpad p.h) = false →
    ∃ t, exec (.parkRelease c) s = .next t ∧ Written s t c p ∧ (t.core c.key).parked = [] ∧ State.sameBut [.cores, .spads] s t) ∧
  (∀ (s : State) (c : CoreId) (g : GatherEntry) (rest : List GatherEntry), c.valid = true → (s.core c.key).gather = g :: rest →
    (g.mask = fullMask ∨ (s.core c.key).rowBad g.row = false) →
    ∃ t, exec (.gatherFlush c) s = .next t ∧
      t.row c.key g.row = (if g.mask = fullMask then g.data else overlay (s.row c.key g.row) g.data g.mask) ∧
      (∀ a, a / 64 ≠ g.row → Mem.byte (t.spad c.key) a = Mem.byte (s.spad c.key) a) ∧
      (t.core c.key).gatherEntry g.row = none ∧ State.sameBut [.cores, .spads] s t)) ∧
  (((∀ (s : State) (k n : Nat), (s.core k).gatherEntry n = none → s.unitRow k (s.core k) n = s.row k n) ∧
    (∀ (s : State) (k n : Nat) (g : GatherEntry), (s.core k).gatherEntry n = some g → s.unitRow k (s.core k) n = overlay (s.row k n) g.data g.mask) ∧
    (∀ (old new : Row) (mask i : Nat), i < 64 →
      bits (overlay old new mask).toNat (8 * i + 7) (8 * i) = if bit mask i then bits new.toNat (8 * i + 7) (8 * i) else bits old.toNat (8 * i + 7) (8 * i))) ∧
  (∀ (s : State) (k n : Nat) (data : Row) (mask : Nat), (s.core k).gather.length < 64 →
      ∃ t, (narrowWrite k n data mask).run s = .next t ∧
        (∀ i < 64, bits (t.unitRow k (t.core k) n).toNat (8 * i + 7) (8 * i) =
          if bit mask i then bits data.toNat (8 * i + 7) (8 * i) else bits (s.unitRow k (s.core k) n).toNat (8 * i + 7) (8 * i)) ∧
        (∀ m, m ≠ n → t.unitRow k (t.core k) m = s.unitRow k (s.core k) m)))

/-- The HBM queue pairs (R97, R98). -/
def Obligations.HbmQueuePairs : Prop :=
  ∀ (s : State) (ep : Nat), ep < 0x180 →
    (∀ (src : PktSource) (p : Packet) (i : Nat), Takes s src (fun r => hdrField r.h == 127 && hdrEndpoint r.h == ep && hdrKind r.h == 3) p i →
      (descGood (p.flits.headD 0) (hdrLen p.h) = true → (AMap.get [] s.qps ep).length < 64 →
        ∃ t, exec (.qput src ep) s = .next t ∧ t.qps = AMap.put [] s.qps ep (AMap.get [] s.qps ep ++ [⟨p.flits.headD 0, p.flits.drop 1⟩]) ∧
          Left s t src i ∧ coresBut s t src [] ∧ State.sameBut [.qps, .arb, .hubs, .free, .net, .cores] s t) ∧
      (descGood (p.flits.headD 0) (hdrLen p.h) = true → 64 ≤ (AMap.get [] s.qps ep).length →
        ∃ t, exec (.qput src ep) s = .next t ∧ t.net.head? = some p ∧ (src = .given p → t.net = p :: s.net) ∧ coresBut s t src [] ∧ State.sameBut [.net, .cores] s t) ∧
      (descGood (p.flits.headD 0) (hdrLen p.h) = false →
        ∃ t, exec (.qput src ep) s = .next t ∧ t.qps = s.qps ∧ Left s t src i ∧ coresBut s t src [] ∧ t.hbm = s.hbm ∧ t.spads = s.spads)) ∧
    (∀ r rest, AMap.get [] s.qps ep = r :: rest → dOp r.desc = 0 →
      ∃ ps : List Packet, exec (.hbmReadDone ep) s = .next ((s.apply (.qp ep rest)).apply (.net (s.net ++ ps))) ∧
        ps.flatMap (·.flits) = s.hbmRows (ep / 16) (dAddr r.desc) (dRows r.desc) ∧
        ∀ p ∈ ps, 1 ≤ p.flits.length ∧ p.flits.length ≤ 16 ∧ ((dReq r.desc).valid = true → hdrCore p.h = (dReq r.desc).key) ∧ hdrKind p.h = 4) ∧
    (∀ r rest, AMap.get [] s.qps ep = r :: rest → dOp r.desc = 1 →
      ∃ t, exec (.hbmWriteDone ep) s = .next t ∧ AMap.get [] t.qps ep = rest ∧
        t.net = s.net ++ [⟨srcEndpoint ep, answerHdr r.desc 0 (dRrow r.desc), [r.desc]⟩] ∧
        t.hbmRows (ep / 16) (dAddr r.desc) (dRows r.desc) = (List.range (dRows r.desc)).map (fun i => r.data.getD i 0) ∧
        (∀ a, a < hbmAddr (ep / 16) (dAddr r.desc) ∨ hbmAddr (ep / 16) (dAddr r.desc) + 64 * dRows r.desc ≤ a → Mem.byte t.hbm a = Mem.byte s.hbm a) ∧
        State.sameBut [.qps, .net, .hbm, .hbmBad] s t)

namespace Sys2Proof.Machine

/-- A packet that the router captures on this port: the first router on its way whose entry for its id lists the port of arrival, with no contribution there yet, or one of an incomplete entry that a hold discards (R32, R34). -/
def capturedAt (s : State) (r : CoreId) (port : Port) (q : Packet) : Bool := match captureHop s q (pathOf s q) with
  | some (_, h) => h.router == r.key && h.inp == portIdx port && (s.core r.key).placeFree (holdInForce s) (hdrRid q.h) h.inp
  | none => false

/-- The packet that a router's entry e makes of the contributions in their fixed order (R32). -/
def combinedPacket (c : CoreId) (e : Nat) (parts : List Packet) : Packet :=
  ⟨srcResult c.key (reOut e), BitVec.ofNat 64 (resultHdr (reAccf e) ((parts.map (·.h)).headD 0)),
    rowsOf (if reAccf e then 1 else 2) (packLanes (if reAccf e then 16 else 32) ((combineBlocks (reAccf e) (hdrKind ((parts.map (·.h)).headD 0) == 2) (parts.map (widenBlock (reAccf e)))).map (·.1)))⟩

end Sys2Proof.Machine

/-- The reductions in the routers (R32, R34). -/
def Obligations.Reductions : Prop :=
  ∀ (s : State) (c : CoreId), c.valid = true →
    (∀ (port : Port) (src i : Nat) (q : Packet) (place : Nat), Takes s (.inFlight src) (capturedAt s c port) q i → place = hdrRid q.h * 8 + portIdx port →
      ∃ t, exec (.reduceCapture c port src) s = .next t ∧ Left s t (.inFlight src) i ∧
        ((AMap.get none (s.core c.key).parts place) = none → (t.core c.key).parts = AMap.put none (s.core c.key).parts place (some q)) ∧
        ((AMap.get none (s.core c.key).parts place) ≠ none → (t.core c.key).parts = AMap.put none ((s.core c.key).parts.filter fun kv => kv.1 / 8 != hdrRid q.h) place (some q)) ∧
        coresBut s t (.inFlight src) [c.key] ∧ State.sameBut [.net, .cores, .arb, .hubs, .free] s t) ∧
    (∀ (rid : BitVec 4) (e : Nat) (ports : List Nat) (first : Packet) (more : List Packet) (p : Packet), e = AMap.get 0 (s.core c.key).router rid.toNat →
      ports = ((List.range 5).filter fun i => bit (rePorts e) i) →
      ports.filterMap (fun i => AMap.get none (s.core c.key).parts (rid.toNat * 8 + i)) = first :: more → (first :: more).length = ports.length →
      p = combinedPacket c e (first :: more) →
      (reOut e ≠ 0 → ∃ t ls, ls = combineBlocks (reAccf e) (hdrKind first.h == 2) ((first :: more).map (widenBlock (reAccf e))) ∧
        exec (.reduceCombine c rid) s = .next t ∧ t.net = s.net ++ [p] ∧
        t.core c.key = { s.core c.key with parts := (s.core c.key).parts.filter fun kv => kv.1 / 8 != rid.toNat } ∧
        AMap.get 0 t.fieldClamps c.field =
          (if (ls.map (·.2)).sum = 0 then AMap.get 0 s.fieldClamps c.field else min 0xFFFF (AMap.get 0 s.fieldClamps c.field + (ls.map (·.2)).sum)) ∧
        State.sameBut [.cores, .fieldClamps, .hubs, .net] s t) ∧
      (reOut e = 0 → arrayGone s (c.key / 1024) = false →
        ((s.core c.key).fifo = [] → (s.core c.key).opened = [] → hdrSpad p.h + hdrLen p.h < 51200 → ∃ t, exec (.reduceCombine c rid) s = .next t ∧ Written s t c p ∧ t.net = s.net ∧
          (t.core c.key).parts = (s.core c.key).parts.filter (fun kv => kv.1 / 8 != rid.toNat) ∧ State.sameBut [.cores, .spads, .fieldClamps, .hubs] s t) ∧
        (32 < flitCount (s.core c.key).fifo + p.flits.length → ∃ t, exec (.reduceCombine c rid) s = .next t ∧ t.net = p :: s.net ∧
          (t.core c.key).parts = (s.core c.key).parts.filter (fun kv => kv.1 / 8 != rid.toNat) ∧ State.sameBut [.cores, .fieldClamps, .hubs, .free, .net] s t)))

/-- Held steps issue after all (R66, R68). -/
def Obligations.HeldStepsIssue : Prop :=
  ∀ (s u v t : State) (c : CoreId) (h route : BitVec 6) (x xd : BitVec 3) (since : Nat) (rows : List Row) (stored : List Nat), c.valid = true →
    (s.core c.key).heldBy = [] →
    (∀ (vr : BitVec 4) (imm : BitVec 8), (s.core c.key).held = some ⟨.guard h.toNat, .vld c vr h x imm 0, since⟩ →
      u = s.putCore c (s.freedCore c) → wordHold u c (u.core c.key) = none → Begins u c (.vld c vr h x imm 0) t →
      Reads t c h.toNat (vuIndex (t.core c.key) x.toNat imm.toNat) 4 rows stored →
      exec (.guardedReadRelease c) s = .next (t.after c (Core.setV (t.core c.key) vr.toNat (packRows rows)) stored [])) ∧
    (∀ (len : BitVec 4) (pred : BitVec 3) (r : List Packet × List Packet),
      (s.core c.key).held = some ⟨.egress (len.toNat + 1), .dsend c h x route xd len pred, since⟩ →
      r = injectUntil (len.toNat + 1) (s.core c.key).egress.length (s.core c.key).egress →
      u = (s.apply (.net (s.net ++ r.1))).putCore c (Core.event { s.core c.key with egress := r.2 } 0x0E (flitCount r.1)) →
      r.1 ++ r.2 = (s.core c.key).egress ∧ flitCount r.2 + (len.toNat + 1) ≤ 64 ∧
      (v = u.putCore c (u.freedCore c) → wordHold v c (v.core c.key) = none → Begins v c (.dsend c h x route xd len pred) t → routeLocal (routeOf t c route) = false →
        Reads t c h.toNat (xOf t c x) (len.toNat + 1) rows stored →
        exec (.egressRoom c) s = .next (t.after c (sent t c pred
          (setBits (setBits (tmplOf t c route) 40 37 len.toNat) 27 12 ((hdrSpad (tmplOf t c route) + xOf t c xd) % 65536)) rows) stored [])))

/-- The staging engine (R159) and a silent core (R393). -/
def Obligations.StagingAndSilence : Prop :=
  ∀ (s : State) (c : CoreId) (w a at_ : Nat) (rows : List Row) (taken : Core), c.valid = true → w = (s.core c.key).staging →
    a = AMap.get 0 (s.core c.key).apCfg (stAcfg w) → at_ = stSbuf w + (s.core c.key).stagingDone % stRecords w * stRows w →
    rows = (List.range (stRows w)).map (fun i => s.unitRow c.key (s.core c.key) (at_ + i)) →
    taken = Core.event { ((List.range (stRows w)).map (at_ + ·)).foldl Core.countRow (s.core c.key) with
      stagingDone := (s.core c.key).stagingDone + 1, stagingRows := (s.core c.key).stagingRows - stRows w } 0x12 1 →
    (stEnabled w = true → stRows w ≠ 0 → stRecords w ≠ 0 → stRows w ≤ (s.core c.key).stagingRows → (∀ i < stRows w, (s.core c.key).rowBad (at_ + i) = false) →
      ((rowField (rows.headD 0) 0 2 = 0xFFFF ∨ rowField (rows.headD 0) 4 4 % stWays w ≠ stWay w) →
        exec (.stagingRecord c) s = .next (s.putCore c (taken.advance (stFctr w) 1))) ∧
      (rowField (rows.headD 0) 0 2 ≠ 0xFFFF → rowField (rows.headD 0) 4 4 % stWays w = stWay w →
        rowField (rows.headD 0) 0 2 < hLength ((s.core c.key).handle (sgPool a)) / max 1 (apRows a) → rowField (rows.headD 0) 2 1 < 63 →
        rowField (rows.headD 0) 3 1 % 2 = 1 → ∀ (slotRow : Nat → Nat) (j : Nat),
          (∀ r, slotRow r = handleRow ((s.core c.key).handle (sgPool a)) (rowField (rows.headD 0) 0 2 * apRows a + r)) → j = rowField (rows.headD 0) 2 1 →
          ∀ t, (writePieces c.key
            (bytePieces slotRow (j * posBytes a) ((rowsBytes (rows.drop 2)).take (posBytes a)) ++
              bytePieces slotRow (64 * posBytes a + j * posBytes a) (((rowsBytes (rows.drop 2)).drop (64 * ceilDiv (posBytes a) 64)).take (posBytes a)) ++
              bytePieces slotRow (128 * posBytes a + j * (apDim a / 16)) ((rowBytes (rows.getD 1 0)).take (apDim a / 16)))).run (s.putCore c taken) = .next t →
            exec (.stagingRecord c) s = .next (t.putCore c ((t.core c.key).advance (stFctr w) 1)))) ∧
    (s.fieldLive c.field = true → (s.core c.key).run ≠ .voided → AMap.wf Core.fresh s.cores = true →
      ∃ t, exec (.coreSilent c) s = .next t ∧ (t.core c.key).run = .voided ∧ (t.core c.key).faultCode = 0x0A ∧ holdInForce t = true ∧ t.spads = s.spads)

namespace Sys2Proof.Machine

/-- A value as dictionary element (idx, sub) holds it. -/
def elt (idx sub v : Nat) : Nat := v % 2 ^ regWidth (regKey idx sub)

/-- The parts that a log entry touches: the log ring and its head, the console, and the sessions that are told of it. -/
def logParts : List Part := [.dict, .sm, .smBad, .console, .col, .wire, .ports, .deferred]

/-- An access outside its region: an error to the requester, nothing changed but the log and what tells of it (R45). -/
def Denied (s : State) (rq : Requester) (t : State) : Prop :=
  t.smReply = some ⟨rq, true, []⟩ ∧ (∀ b < 0x0F000000, Mem.byte t.sm b = Mem.byte s.sm b) ∧ (∀ b, 0x0F400000 ≤ b → Mem.byte t.sm b = Mem.byte s.sm b) ∧
    State.sameBut (.smReply :: logParts) s t ∧ (s.reg 0x8020 = 0 → t.reg 0x8023 = elt 0x8023 0 (s.reg 0x8023 + 1))

end Sys2Proof.Machine

/-- The accesses of the service crossbar and their errors (R43 to R46), and words mended from their other copy, at an access and before the next command that serves (R169, R240; the moment is the model's choice, log 187). -/
def Obligations.SharedMemory : Prop :=
  (∀ (s : State) (rq : Requester) (a n : Nat) (bytes : List Byte) (mask : Nat) (x y : BitVec 64), rqValid rq = true →
    (goodAccess a n = true → mayReach rq a false = true → badWords s a n = [] →
      exec (.smRead rq a n) s = .next (s.apply (.smReply (some ⟨rq, false, Mem.read s.sm a n⟩)))) ∧
    (goodAccess a bytes.length = true → mayReach rq a true = true →
      ∃ t, exec (.smWrite rq a bytes mask) s = .next t ∧ t.smReply = some ⟨rq, false, []⟩ ∧
        (∀ i, i < bytes.length → Mem.byte t.sm (a + i) = if bit mask i then bytes.getD i 0 else Mem.byte s.sm (a + i)) ∧
        (∀ b, b < a ∨ a + bytes.length ≤ b → Mem.byte t.sm b = Mem.byte s.sm b) ∧ State.sameBut [.sm, .smBad, .smReply] s t) ∧
    (a % 8 = 0 → a + 8 ≤ 0x10000000 → mayReach rq a true = true → AMap.get false s.smBad (a / 8) = false →
      (∃ t, exec (.smCas rq a x y) s = .next t ∧ t.smReply = some ⟨rq, false, leBytes 8 (Mem.nat s.sm a 8)⟩ ∧
        Mem.nat t.sm a 8 = (if Mem.nat s.sm a 8 = x.toNat then y.toNat else Mem.nat s.sm a 8) ∧
        (∀ b, b < a ∨ a + 8 ≤ b → Mem.byte t.sm b = Mem.byte s.sm b) ∧ State.sameBut [.sm, .smReply] s t) ∧
      (∃ t, exec (.smFetchAdd rq a x) s = .next t ∧ t.smReply = some ⟨rq, false, leBytes 8 (Mem.nat s.sm a 8)⟩ ∧
        Mem.nat t.sm a 8 = (Mem.nat s.sm a 8 + x.toNat) % 2 ^ 64 ∧
        (∀ b, b < a ∨ a + 8 ≤ b → Mem.byte t.sm b = Mem.byte s.sm b) ∧ State.sameBut [.sm, .smReply] s t)) ∧
    exec (.smFence rq) s = .next (s.apply (.smReply (some ⟨rq, false, []⟩)))) ∧
  (∀ (s : State) (rq : Requester) (a n : Nat), rqValid rq = true →
    ((n < 8 ∨ 64 < n ∨ 64 < a % 64 + n ∨ 0x10000000 < a + n) → exec (.smRead rq a n) s = .fault (.badAddress a) ∧
      (∀ (bytes : List Byte) (mask : Nat), bytes.length = n → exec (.smWrite rq a bytes mask) s = .fault (.badAddress a))) ∧
    (∀ x y : BitVec 64, a % 8 ≠ 0 ∨ 0x10000000 < a + 8 → exec (.smCas rq a x y) s = .fault (.badAddress a) ∧ exec (.smFetchAdd rq a x) s = .fault (.badAddress a)) ∧
    (goodAccess a n = true → mayReach rq a false = false → ∃ t, exec (.smRead rq a n) s = .next t ∧ Denied s rq t) ∧
    (mayReach rq a true = false → (∀ (bytes : List Byte) (mask : Nat), goodAccess a bytes.length = true → ∃ t, exec (.smWrite rq a bytes mask) s = .next t ∧ Denied s rq t) ∧
      (∀ x y : BitVec 64, a % 8 = 0 → a + 8 ≤ 0x10000000 → (∃ t, exec (.smCas rq a x y) s = .next t ∧ Denied s rq t) ∧ (∃ t, exec (.smFetchAdd rq a x) s = .next t ∧ Denied s rq t))) ∧
    ((∀ e, rq ≠ .rxDma e ∧ rq ≠ .txDma e) → (mayReach rq a true = false ↔ 0x0F000000 ≤ a ∧ a < 0x0F400000) ∧ mayReach rq a false = true) ∧
    (∀ (e : Nat) (w : Bool), rq = .rxDma e ∨ rq = .txDma e →
      (mayReach rq a w = true ↔ (0x500000 ≤ a ∧ a < 0x510000) ∨ (0x0EC00000 ≤ a ∧ a < 0x0EF00000) ∨ (0x0F500000 ≤ a ∧ a < 0x10000000))) ∧
    (mayReach rq a false = true → a < 0x100000 → a % 8 = 0 → AMap.get false s.smBad (a / 8) = true → AMap.get false s.smBad ((a + 0x108000) / 8) = false →
      ∃ t, exec (.smRead rq a 8) s = .next t ∧ t.smReply = some ⟨rq, true, []⟩ ∧ Mem.read t.sm a 8 = Mem.read s.sm (a + 0x108000) 8 ∧
        AMap.get false t.smBad (a / 8) = false ∧ t.reg 0x5017 = (s.reg 0x5017 + 1) % 2 ^ regWidth (regKey 0x5017 0))) ∧
  (∀ (s : State) (w b : Nat), otherCopy (8 * w) = some b → 8 * w < 0x100000 ∨ (0x1800000 ≤ 8 * w ∧ 8 * w < 0x7800000 ∧ 8 * w / 0x8000 % 2 = 0) → s.smBad = [(w, true)] →
    ∃ t, mendNow.run s = .next t ∧ t.damaged = [] ∧ Mem.read t.sm (8 * w) 8 = Mem.read s.sm b 8 ∧
      t.reg 0x5017 = (if 8 * w < 0x100000 then elt 0x5017 0 (s.reg 0x5017 + 1) else s.reg 0x5017) ∧
      ∀ c ∈ [Instr.issueSlot false, .issueSlot true, .admissionScan, .requestTake, .escalationReport], exec c s = exec c t)

/-- Reads and writes over the control network (R35, R36, R72). -/
def Obligations.ControlAccesses : Prop :=
  ∀ (s : State) (m pf prow pcol key i p : Nat) (v : BitVec 32), m < 6 → pf < 88 → s.mcore m = 0 → prow ≤ 24 → pcol ≤ 24 →
    coreAt s pf prow pcol = some key → i < 64 → p < 4 →
    (∃ t, exec (.controlAccess m pf prow pcol (.handle i p) .read) s = .next t ∧
      t.ctlReply = some ⟨m, false, bits ((s.core key).handle i) (32 * p + 31) (32 * p)⟩ ∧ t.core key = s.core key ∧ State.sameBut [.ctlReply, .cores] s t) ∧
    (s.fieldRuns (key / 1024) = false → exec (.controlAccess m pf prow pcol (.handle i p) (.write v)) s =
      .next ((s.apply (.core key (Core.settleGuards { s.core key with
        handles := AMap.put 0 (s.core key).handles i (setBits ((s.core key).handle i) (32 * p + 31) (32 * p) v.toNat) }))).apply
        (.ctlReply (some ⟨m, false, 0⟩)))) ∧
    (s.fieldRuns (key / 1024) = true → ∀ reg, ctlGuarded reg = true → ctlExists reg = true →
      exec (.controlAccess m pf prow pcol reg (.write v)) s = .next (s.apply (.ctlReply (some ⟨m, true, 0⟩)))) ∧
    (i < 8 → exec (.controlAccess m pf prow pcol (.counterLow i) .read) s =
      .next ((s.apply (.core key { s.countedCore key with ctlHigh := AMap.put 0 (s.core key).ctlHigh i (AMap.get 0 (s.countedCore key).perf.ctr i / 2 ^ 32) })).apply
        (.ctlReply (some ⟨m, false, AMap.get 0 (s.countedCore key).perf.ctr i % 2 ^ 32⟩)))) ∧
    (i < 8 → ∃ t, exec (.controlAccess m pf prow pcol (.counterHigh i) .read) s = .next t ∧ t.core key = s.core key ∧
      t.ctlReply = some ⟨m, false, AMap.get 0 (s.core key).ctlHigh i⟩) ∧
    (∀ reg, exec (.controlAccess m pf prow pcol reg .parityError) s = .next (s.apply (.ctlReply (some ⟨m, true, 0⟩)))) ∧
    (∀ reg y z, 24 < y ∨ 24 < z → exec (.controlAccess m pf y z reg .read) s = .next (s.apply (.ctlReply (some ⟨m, true, 0⟩)))) ∧
    (∀ reg op, ctlExists reg = false → exec (.controlAccess m pf prow pcol reg op) s = .next (s.apply (.ctlReply (some ⟨m, true, 0⟩)))) ∧
    (∀ reg, exec (.controlAccess m 127 prow pcol reg (.write v)) s = .next (s.apply (.ctlReply (some ⟨m, false, 0⟩)))) ∧
    (∀ reg, ∃ x, exec (.controlAccess m 127 prow pcol reg .read) s = .next ((s.apply .drawn).apply (.ctlReply (some ⟨m, false, x⟩))))

namespace Sys2Proof.Machine

/-- Time has gone on to a moment, or was past it. -/
def reachedTime (s t : State) (n : Nat) : Prop := t.now = max s.now n

end Sys2Proof.Machine

/-- The root's verdict on a candidate edge (R38, R39). -/
def Obligations.BeatSamples : Prop :=
  ∀ (s : State) (edge : Nat), s.inGroup = false → s.beat.decided < edge →
    (s.beat.hold = .none → ∃ t d, exec (.onTrackSample edge) s = .next t ∧ reachedTime s t (edgeTime s edge - 150) ∧
      t.beat.decided = edge ∧ t.beat.sampled = some d ∧ d.edge = edge ∧
      (d.take = true ↔ (∀ f ∈ liveFields s, onTrack s f = true) ∧ ringUsed s 2 + s.group.records.length + (waitingReports s).length ≤ 32768) ∧
      t.reg 0x3041 = (if d.take then s.reg 0x3041 else (s.reg 0x3041 + 1) % 2 ^ regWidth (regKey 0x3041 0)) ∧ t.reg 0x3043 = s.reg 0x3043) ∧
    (s.beat.hold = .requested ∨ s.beat.hold = .complete → ∃ t, exec (.onTrackSample edge) s = .next t ∧
      reachedTime s t (edgeTime s edge - 150) ∧ t.beat.decided = edge ∧ t.beat.sampled = none ∧ t.beat.hold = s.beat.hold ∧
      t.reg 0x3043 = (s.reg 0x3043 + 1) % 2 ^ regWidth (regKey 0x3043 0) ∧ t.reg 0x3041 = s.reg 0x3041)

/-- Holds (R39, R74) and their completion in a group (R276). -/
def Obligations.HoldsBegin : Prop :=
  (∀ s : State, s.beat.hold = .none → AMap.wf Core.fresh s.cores = true →
    ∃ t, exec .holdRequest s = .next t ∧ t.beat.hold = .requested ∧ t.beat.holdCause = 0x12 ∧ (∀ k, t.core k = (s.core k).stopForHold (s.heldCycles k (s.core k))) ∧
      State.sameBut [.beat, .cores, .dict] s t) ∧
  (∀ s : State, s.beat.hold = .requested → exec .holdRequest s = .next s) ∧
  (∀ s : State, s.beat.hold = .complete → AMap.wf Core.fresh s.cores = true →
    ∃ t, exec .holdRequest s = .next t ∧ t.beat = { s.beat with hold := .requested } ∧ (∀ k, t.core k = (s.core k).stopForHold (s.heldCycles k (s.core k))) ∧
      State.sameBut [.beat, .cores] s t) ∧
  (∀ (s : State) (m : Nat), s.inGroup = true → s.groupMember = 0 → m ≠ 0 → m < s.groupSize → m < 8 → ¬ (s.beat.hold = .complete) →
    exec (.holdCompleteReport m) s = .next (s.apply (.group { s.group with held := if s.group.held.contains m then s.group.held else s.group.held ++ [m] }))) ∧
  (∀ (s : State) (m : Nat), s.inGroup = true → s.groupMember = 0 → m ≠ 0 → m < s.groupSize → m < 8 → s.mcore 5 = 0 → s.beat.hold = .complete →
    (∀ j ∈ otherMembers s, j ≠ m → j ∈ s.group.held) →
    ∃ t, exec (.holdCompleteReport m) s = .next t ∧ t.beat.hold = .released (resumeBeat s) ∧ t.group.held = [])

/-- The end of a hold (R394, R396). -/
def Obligations.HoldsEnd : Prop :=
  (∀ s : State, s.inGroup = false → s.beat.hold = .requested → s.mcore 3 = 0 → holdSettled s = true → s.reg 0x9005 ≠ 2 →
    s.damaged = [] → ∃ t, exec (.holdComplete []) s = .next t ∧ t.beat.hold = .released (resumeBeat t) ∧ t.now = s.now ∧ t.epoch = s.epoch) ∧
  (∀ s : State, ceilDiv s.waferTime s.period + 4 ≤ resumeBeat s ∧
    ((s.model 0).running = true → 0 < s.hCadence (s.model 0) → resumeBeat s % s.hCadence (s.model 0) = 0)) ∧
  (∀ (s : State) (r : Nat), s.inGroup = false → s.beat.hold = .released r → reportsFit s = false →
    s.damaged = [] → ∃ t, exec (.resumeEdge r) s = .next t ∧ t.beat.hold = .released (r + 1) ∧ t.cores = s.cores) ∧
  (∀ (s : State) (r : Nat), s.inGroup = true → s.beat.hold = .released r → reportsFit s = false →
    s.damaged = [] → ∃ t, exec (.resumeEdge r) s = .next t ∧ t.beat.hold = .requested ∧ t.cores = s.cores) ∧
  (∀ (s : State) (r : Nat), s.beat.hold = .released r → reportsFit s = true →
    s.damaged = [] → ∃ t, exec (.resumeEdge r) s = .next t ∧ reachedTime s t (edgeTime s r) ∧ t.beat.hold = .none ∧ t.beat.last = r ∧ r ≤ t.beat.decided ∧ t.beat.sampled = none)

/-- Edges reach the cores of live fields (R38, R103), and R37's last sentence. -/
def Obligations.BeatEdgesTaken : Prop :=
  ((∀ (s : State) (edge : Nat) (d : Sampled), s.inGroup = false → s.beat.hold = .none → s.beat.sampled = some d → d.edge = edge → d.take = true → reportsFit s = true →
      AMap.wf Core.fresh s.cores = true →
      ∃ t, exec (.beatEdge edge []) s = .next t ∧ reachedTime s t (edgeTime s edge) ∧ t.beat.last = edge ∧ t.beat.sampled = none ∧ t.spads = s.spads ∧
        t.reg 0x3040 = (s.reg 0x3040 + 1) % 2 ^ regWidth (regKey 0x3040 0) ∧
        ∀ k, s.fieldLive (k / 1024) = true →
          ((s.core k).run = .waitEdge → (t.core k).run = .issuing ∧ (t.core k).left = (s.core k).next) ∧
          ((s.core k).unfinished = true → (t.core k).run = .issuing ∧ (t.core k).owes = true ∧ (t.core k).left = (s.core k).left)) ∧
    (∀ (s : State) (edge : Nat) (d : Sampled) (cyc : List (Nat × Int)), s.inGroup = false → s.beat.hold = .none → s.beat.sampled = some d → d.edge = edge →
      d.take = true → reportsFit s = false →
      ∃ t, exec (.beatEdge edge cyc) s = .next t ∧ t.beat.last = s.beat.last ∧ t.beat.sampled = none ∧ t.cores = s.cores ∧
        t.reg 0x3041 = (s.reg 0x3041 + 1) % 2 ^ regWidth (regKey 0x3041 0)) ∧
    (∀ (s : State) (edge : Nat) (cyc : List (Nat × Int)), s.beat.sampled = none → exec (.beatEdge edge cyc) s = .next s)) ∧
  ((∀ s : State, s.beatNow = s.waferTime / s.reg 0x3003) ∧
    (∀ (s : State) (n : Nat), 0 < s.reg 0x3003 → ({ s with now := edgeTime s n } : State).beatNow = n))

namespace Sys2Proof.Machine

/-- A COL session whose writes are answered: it is live, M4 runs and the start has reached step 4. -/
def Served (s : State) (sid : Nat) : Prop := (s.colSid sid).isSome = true ∧ s.mcore 4 = 0 ∧ 4 ≤ s.reg 0x4002

/-- A port takes frames in: its link is up, and with MACsec on a receive association is installed (R285). -/
def Admits (s : State) (e : Nat) : Prop :=
  s.portUp e = true ∧ (s.reg 0x1410 (e + 1) = 0 ∨ (List.range 2).any (fun an => (AMap.get MacAssoc.none s.ports.assoc (4 * e + 2 + an)).valid) = true)

/-- No key event is due, and no port counts 32-bit packet numbers towards one (R285). -/
def Quiet (s : State) : Prop := s.ports.sakDue = [] ∧ ∀ e ≤ 1, s.reg 0x1410 (e + 1) ≠ 1

/-- A message of the image channel comes in: over a chip link, or on a port that takes it in with no key event due (R209, R285). -/
def ImageIn (s : State) (p : Path) : Prop := p.port ≤ 1 → Admits s p.port ∧ Quiet s

/-- The owner's session, on a device whose start has not failed. -/
def OwnerServed (s : State) (sid : Nat) : Prop := Served s sid ∧ s.reg 0x4000 ≠ 3 ∧ s.owns sid = true

/-- The session has negotiated a feature (R297). -/
def Featured (s : State) (sid b : Nat) : Prop := ∀ i, s.colSid sid = some i → bit (s.session false i).features b = true

/-- What a ledger's key is granted. -/
def State.granted (s : State) (action unit : Nat) : Nat := AMap.get 0 s.power.grants (ledgerKey action unit)

/-- The packets that the slots of a frame complete. -/
def completedBy (s : State) (l : Nat) (f : Frame) : List (List Row) := (takeSlots ((s.link l).arriving, (s.link l).fwArriving, []) f.slots).2.2

/-- Links of a mask. -/
def linksOf (mask : Nat) : List Nat := (List.range 32).filter fun l => bit mask l

end Sys2Proof.Machine

/-- The chip links (R261 to R267). -/
def Obligations.LinkPackets : Prop :=
  ∀ (s : State) (l : Nat), l < 32 →
    (∀ (src : PktSource) (p : Packet) (i : Nat), Takes s src (fun q => hdrField q.h == 127 && hdrEndpoint q.h == 0x1A0 + l) p i →
      (linkAccepts s l p = true → ∃ t, exec (.linkPacketSend l src) s = .next t ∧ Left s t src i ∧ coresBut s t src [] ∧
        t.link (s.carrier l) = { s.link (s.carrier l) with queue := (s.link (s.carrier l)).queue ++ [(s.now, p)] } ∧
        (∀ k, k ≠ s.carrier l → t.link k = s.link k) ∧ State.sameBut [.group, .net, .cores] s t) ∧
      (linkAccepts s l p = false → ∃ t, exec (.linkPacketSend l src) s = .next t ∧ Left s t src i ∧ coresBut s t src [] ∧
        t.reg 0x9017 (l + 1) = (s.reg 0x9017 (l + 1) + 1) % 2 ^ regWidth (regKey 0x9017 (l + 1)) ∧ t.group = s.group)) ∧
    (∀ f : Frame, linkLive s l = true → f.good = true → bit f.control.toNat 21 = false → bits f.control.toNat 39 31 = (s.link l).rxSeq →
      (∀ x ∈ completedBy s l f, Config.firmwareOrder x = none) →
      ∃ t ctl slots, exec (.linkFrame l f) s = .next t ∧ (t.link l).rxSeq = ((s.link l).rxSeq + 1) % 512 ∧ (t.link l).nak = false ∧
        (t.link l).lastGood = s.now ∧ (t.link l).out = some (ctl, slots) ∧ bits ctl 30 22 = (s.link l).rxSeq ∧ bit ctl 21 = false ∧
        t.reg 0x9015 (l + 1) = (s.reg 0x9015 (l + 1) + f.corrected) % 2 ^ regWidth (regKey 0x9015 (l + 1))) ∧
    (∀ f : Frame, linkLive s l = true → f.good = false → (s.link l).nak = false → (s.link l).retries = [] →
      ∃ t, exec (.linkFrame l f) s = .next t ∧ (t.link l).rxSeq = (s.link l).rxSeq ∧ (t.link l).nak = true ∧ (t.link l).naks = 1 ∧
        t.reg 0x9016 (l + 1) = (s.reg 0x9016 (l + 1) + 1) % 2 ^ regWidth (regKey 0x9016 (l + 1)) ∧ t.net = s.net) ∧
    (s.inGroup = false → s.linkState l = lkUp ∨ s.linkState l = lkSpare →
      ∃ t, exec (.linkDown l) s = .next t ∧ reachedTime s t ((s.link l).lastGood + 1000) ∧ t.linkState l = lkDown ∧ t.reg 0x9018 = (s.reg 0x9018 + 1) % 2 ^ regWidth (regKey 0x9018 0) ∧
        (∀ k, k ≠ l → t.linkState k = s.linkState k) ∧ t.group = s.group) ∧
    (∀ k, s.inGroup = true → s.mcore 5 = 0 → s.linkState l = lkUp → (bundleOf s l).find? (fun j => j != l && s.linkState j == lkUp) = some k →
      ∃ t, exec (.linkDown l) s = .next t ∧ t.linkState l = lkDown ∧ t.beat.hold ≠ .none ∧ (t.link l).via = k + 1 ∧
        (t.link k).queue = (s.link k).queue ++ (s.link l).queue)

/-- Links come up and are enabled (R268, R269, R281). -/
def Obligations.LinkBringup : Prop :=
  ∀ (s : State) (l sid : Nat), l < 32 →
    (∀ b : Bringup, s.mcore 5 = 0 → s.linkState l = lkTraining → s.groupSize ≤ 1 → s.inGroup = false → s.granted actLink (l / 2) ≠ 0 →
      s.boot.report.badLinks.contains l = false → bit (s.reg 0x1021) l = true →
      (b.failedStep = 0 → ∃ t, exec (.linkBringupDone l b) s = .next t ∧ t.linkState l = lkUp ∧
        t.reg 0x9012 (l + 1) = b.retryNs % 2 ^ regWidth (regKey 0x9012 (l + 1)) ∧ t.reg 0x9013 (l + 1) = b.syncNs % 2 ^ regWidth (regKey 0x9013 (l + 1)) ∧
        t.reg 0x9014 (l + 1) = twos 32 b.offsetPs ∧ (t.link l).lastGood = s.now ∧ State.sameBut [.dict, .group] s t) ∧
      (b.failedStep = 1 → ∃ t, exec (.linkBringupDone l b) s = .next t ∧ t.linkState l = lkOff ∧ t.link l = Link.reset) ∧
      (b.failedStep = 2 → ∃ t, exec (.linkBringupDone l b) s = .next t ∧ t.linkState l = lkDown ∧ State.sameBut [.dict] s t)) ∧
    (OwnerServed s sid → Featured s sid 5 → s.mcore 5 ≠ 0 ∨ s.mcore 1 ≠ 0 →
      ∃ t, exec (.linkRestore sid l) s = .next t ∧ t.power.waiting = s.power.waiting ++ [.linkRestore l] ∧ AMap.get [] t.cmds (cmdKey 0x9021 l) = AMap.get [] s.cmds (cmdKey 0x9021 l) ++ [sid] ∧
        State.sameBut [.power, .cmds] s t) ∧
    (OwnerServed s sid → Featured s sid 5 → s.mcore 5 = 0 → s.mcore 1 = 0 →
      (s.linkState l = lkSpare → ∃ t, exec (.linkRestore sid l) s = .next t ∧ t.linkState l = lkUp ∧ (t.link l).via = 0 ∧ t.reg 0x9021 = 0) ∧
      (s.linkState l = lkDown ∨ s.linkState l = lkSlow ∨ s.linkState l = lkOffset ∨ s.linkState l = lkMiswired →
        s.granted actLink (l / 2) ≠ 0 ∨ s.fits 100 = true →
        ∃ t, exec (.linkRestore sid l) s = .next t ∧ t.linkState l = lkTraining ∧ t.reg 0x9021 = 0) ∧
      (∀ mask : BitVec 32, s.inGroup = false → s.groupSize = 1 →
        s.fits (100 * ((((linksOf mask.toNat).filter fun k => s.linkState k != lkUp && s.linkState k != lkTraining).map (· / 2)).eraseDups.filter
          fun p => AMap.get 0 s.power.grants (ledgerKey actLink p) == 0).length) = true →
        ∃ t, exec (.linkEnable sid mask) s = .next t ∧ t.reg 0x9020 = mask.toNat ∧
          (∀ k ∈ linksOf mask.toNat, s.linkState k ≠ lkUp → t.linkState k = lkTraining) ∧
          (∀ k < 32, bit mask.toNat k = false → t.linkState k = lkOff)))

/-- Formation of a group (R277). -/
def Obligations.GroupCommands : Prop :=
  ∀ (s : State) (sid id size m : Nat),
    (OwnerServed s sid → Featured s sid 5 → id ≠ 0 → size ∈ [2, 4, 8] → m < size → id < 2 ^ regWidth (regKey 0x9002 0) → slotTaken s = false → s.inGroup = false →
      s.reg 0x3000 = 1 → s.mcore 5 = 0 → s.mcore 1 = 0 →
      s.fits (100 * ((((List.range 32).filter (linkAssigned size)).map (· / 2)).eraseDups.filter
        fun p => AMap.get 0 s.power.grants (ledgerKey actLink p) == 0).length) = true →
      ∃ t, exec (.groupForm sid id size m) s = .next t ∧ t.reg 0x9002 = id ∧ t.groupSize = size ∧ t.groupMember = m ∧ t.reg 0x9005 = 1 ∧
        t.group.formBy = some (s.now + 10000000000) ∧ t.reg 0x9000 = 0 ∧ (∀ l < 32, linkAssigned size l = true → t.linkState l = lkTraining) ∧
        (∀ l < 32, linkAssigned size l = false → t.linkState l = lkOff)) ∧
    (OwnerServed s sid → Featured s sid 5 → slotTaken s = false → s.mcore 5 ≠ 0 → ∃ t, exec (.groupLeave sid) s = .next t ∧ t.power.waiting = s.power.waiting ++ [.leave] ∧
      State.sameBut [.power, .cmds] s t) ∧
    (OwnerServed s sid → Featured s sid 5 → slotTaken s = false → s.mcore 5 = 0 → s.mcore 1 = 0 →
      ∃ t, exec (.groupLeave sid) s = .next t ∧ t.reg 0x9002 = 0 ∧ t.groupSize = 1 ∧ t.groupMember = 0 ∧ t.reg 0x9005 = 0 ∧ t.group = Group.reset ∧
        t.reg 0x9001 = 0 ∧ (∀ l < 32, t.linkState l = lkOff)) ∧
    (∀ by_ j, s.group.formBy = some by_ → missingPeer s = some j → s.reg 0x9005 = 1 → s.mcore 5 = 0 →
      ∃ t, exec .groupFormTimeout s = .next t ∧ reachedTime s t by_ ∧ t.reg 0x9005 = 5 ∧ t.group.formBy = none ∧ State.sameBut [.now, .dict, .group] s t)

/-- Common edges, starts and time of a group (R273 to R276). -/
def Obligations.GroupBeats : Prop :=
  ∀ (s : State) (edge : Nat) (d : Sampled), s.inGroup = true → s.beat.sampled = some d → d.edge = edge → s.beat.decided = edge → s.beat.group = none →
    ((∀ j ∈ otherMembers s, AMap.get (0, false, false) s.group.sync j = (edge, true, false)) → d.take = true →
      exec (.groupEdgeDecision edge) s = .next ((s.apply (.time (edgeTime s edge - 50))).apply (.beat { s.beat with group := some (edge, true) }))) ∧
    ((∃ j ∈ otherMembers s, (AMap.get (0, false, false) s.group.sync j).1 ≠ edge) → s.beat.hold = .none →
      ∃ t, exec (.groupEdgeDecision edge) s = .next t ∧ t.beat.group = some (edge, false) ∧ t.beat.hold = .requested ∧
        t.reg 0x9019 = (s.reg 0x9019 + 1) % 2 ^ regWidth (regKey 0x9019 0)) ∧
    ((∀ j ∈ otherMembers s, (AMap.get (0, false, false) s.group.sync j).1 = edge ∧ (AMap.get (0, false, false) s.group.sync j).2.2 = false) →
      (∃ j ∈ otherMembers s, (AMap.get (0, false, false) s.group.sync j).2.1 = false) → d.take = true →
      ∃ t, exec (.groupEdgeDecision edge) s = .next t ∧ t.beat.group = some (edge, false) ∧ t.beat.hold = s.beat.hold ∧
        t.reg 0x3047 = (s.reg 0x3047 + 1) % 2 ^ regWidth (regKey 0x3047 0)) ∧
    (∀ (m : Nat) (main lead man : BitVec 256) (beat cad : Nat), s.groupMember = 0 → m ≠ 0 → m < s.groupSize → m < 8 → s.mcore 5 = 0 →
      s.load.op = 1 ∨ s.load.op = 3 → s.reg 0xA003 ≠ 5 →
      exec (.memberReadyReport m main lead man beat cad) s =
        .next (s.apply (.load { s.load with ready := (s.load.ready.filter fun r => r.1 != m) ++ [(m, man.toNat, beat, cad)] }))) ∧
    (∀ at_, s.group.align = false →
      ∃ t, exec (.ppsEdge at_) s = .next t ∧ reachedTime s t (s.epoch + at_) ∧
        t.reg 0x3004 = twos 32 (if 500000000 ≤ at_ % 1000000000 then (at_ % 1000000000 : Int) - 1000000000 else (at_ % 1000000000 : Int)) ∧ t.epoch = s.epoch) ∧
    (∀ at_, s.group.align = true → ∃ t, exec (.ppsEdge at_) s = .next t ∧ t.waferTime = at_ ∧ t.group.align = false ∧ t.beat.last = at_ / s.period)

namespace Sys2Proof.Machine

/-- Every dictionary element outside some entries is unchanged. -/
def regsBut (s t : State) (idxs : List Nat) : Prop := ∀ idx sub, sub < 65536 → idx ∉ idxs → t.reg idx sub = s.reg idx sub


/-- One tick of a periodic task. -/
def tickTime (s : State) (kind period : Nat) : Nat := max s.now (AMap.get 0 s.ticks kind + period)

end Sys2Proof.Machine

namespace Sys2Proof.Machine

/-- Units of a priced action, and its price in hundredths of A(L), by R354's table. -/
def ledgerUnits (action : Nat) : Nat := if action = actTumbler then 1 else if action = actLink then 16 else if action = actHbm then 24 else if action = actPort then 2 else 88
def ledgerPrice (s : State) (action unit arg : Nat) : Nat :=
  if action = actTumbler then 600 else if action = actBist then fieldPeak arg - 80 else if action = actLink then 100 else if action = actPort then portPrice arg
  else if action = actStep then fieldPeak arg - fieldPeak (s.fieldStep unit) else hbmPrice arg - s.granted actHbm unit

end Sys2Proof.Machine

/-- Readings, ramps, steps and the ledger (R352 to R359, R381, R411, R413). -/
def Obligations.PowerReadings : Prop :=
  (∀ (s : State) (r : PowerReading), s.mcore 1 = 0 → s.boot.todo = none →
    ∃ t, exec (.currentPublish r) s = .next t ∧ t.now = tickTime s tkPower 1000000 ∧ AMap.get 0 t.ticks tkPower = t.now ∧
      t.reg 0x2005 = elt 0x2005 0 (f32Rat r.inputMv 1000) ∧ t.reg 0x2006 = elt 0x2006 0 (f32Rat r.inputMa 1000) ∧
      (∀ d < 220, ∀ c : Int, r.codes[d]? = some c → t.reg (0x2100 + d) = elt (0x2100 + d) 0 (domainAmps s d c r.source)) ∧
      (∀ (d k : Nat) (c : Int) (ma : Nat) (g o : Int), f32Scaled (s.calValue gCurrent d).1 = some g → f32Scaled (s.calValue gCurrent d).2 = some o →
        domainAmps s d c none = f32Rat ((c * 2 ^ 149 - 1000 * o) * g) (1000 * 2 ^ 298) ∧ (k ≠ d → domainAmps s d c (some (k, ma)) = domainAmps s d c none) ∧
        (bit s.calib.mask gCurrent = true → domainAmps s d c (some (d, ma)) = f32Rat ((c * 2 ^ 149 - 1000 * o) * g - ma * 2 ^ 298) (1000 * 2 ^ 298))) ∧
      (∀ g < 23, ∀ ma : Nat, r.segmentMa[g]? = some ma → t.reg 0x2009 (g + 1) = elt 0x2009 (g + 1) (f32Rat ma 1000)) ∧
      t.power.overMs = (if s.reg 0x2000 * 1000 < r.inputMa then s.power.overMs + 1 else 0) ∧
      (s.reg 0x2000 * 1000 < r.inputMa → 2 ≤ s.power.overMs → s.power.overdraw = false → t.power.overdraw = true ∧ t.reg 0x2007 = elt 0x2007 0 (s.reg 0x2007 + 1)) ∧
      (r.inputMa ≤ s.reg 0x2000 * 1000 → t.power.overdraw = false) ∧
      (∀ p q a, p < 88 → s.power.powerups = [(p, q, a, true, false)] → t.now < a + 2000000000 → AMap.get 0 s.power.reserved (ledgerKey actField p) ≠ 0 →
        segmentReady { s with power := { s.power with domainMa := (readingAmps s r).map f32Ma, segmentMa := r.segmentMa } } p = true →
        t.power.powerups = [] ∧ t.domain p = domRamp ∧ t.domain (88 + p) = domRamp ∧ t.fieldStep p = 6 ∧ t.granted actField p = s.granted actField p + 130)) ∧
  (∀ (s : State) (p : Nat), p < 88 →
    (s.domain p = domRamp → s.domain (88 + p) = domRamp → s.boot.todo = none → s.boot.bist = none → ∃ t, exec (.fieldRampDone p) s = .next t ∧ t.domain p = domOn ∧ t.domain (88 + p) = domOn ∧
      (s.mcore 1 = 0 → t.granted actField p = s.granted actField p - 50) ∧ (s.mcore 1 ≠ 0 → t.power.grants = s.power.grants ∧ t.dict = s.dict) ∧ State.sameBut [.dict, .power] s t) ∧
    (∀ at_ k, s.mcore 1 = 0 → s.mcore 2 = 0 → AMap.get none s.thermal.raises p = some (at_, k) → s.effective p = k →
      ∃ t, exec (.stepRaiseWrite p) s = .next t ∧ t.now = max s.now (at_ + 20000) ∧ AMap.get 0 t.thermal.stepReq p = k + 1 ∧
        AMap.get none t.thermal.raises p = none ∧ State.sameBut [.now, .thermal] s t) ∧
    (∀ sid v, OwnerServed s sid → v ≤ 6 → ∃ t, exec (.stepMax sid p v) s = .next t ∧ t.reg 0x3007 (p + 1) = v ∧
      (s.mcore 2 = 0 → t.limit p srcOwner = v ∧ v ≤ t.effective p) ∧ State.sameBut [.dict, .thermal] s t) ∧
    (∀ sid v, OwnerServed s sid → 6 < v → exec (.stepMax sid p v) s = .next s)) ∧
  (∀ (s : State) (sid : Nat) (v : BitVec 16), OwnerServed s sid → 100 ≤ v.toNat → v.toNat ≤ 560 → s.grantedTotal * 54000 ≤ s.capacityFor v.toNat →
    f32BelowMilli (s.reg 0x3883) (flowMin v.toNat) = false →
    ∃ t, exec (.ledgerLimit sid v) s = .next t ∧ t.reg 0x2000 = v.toNat ∧ (s.mcore 1 = 0 → t.reg 0x2001 = elt 0x2001 0 (f32Rat (s.capacityFor v.toNat) 5400000)) ∧
      State.sameBut [.dict] s t ∧ regsBut s t [0x2000, 0x2001, 0x2002, 0x2003]) ∧
  (∀ (s : State) (q unit arg : Nat), q ≤ 5 →
    (s.mcore 1 = 0 →
      (∀ action ∈ [actTumbler, actBist, actStep, actHbm, actLink, actPort], unit < ledgerUnits action →
        (action = actStep → arg ≤ 6 ∧ arg < s.fieldStep unit ∧ (s.logicalField unit).bind s.fieldSlot = none) → (action = actHbm → arg ≤ 2 ∧ s.granted actHbm unit < hbmPrice arg) →
        (s.fits (ledgerPrice s action unit arg) = true → ∃ t, exec (.ledgerRequest q action unit arg) s = .next t ∧
          t.granted action unit = s.granted action unit + ledgerPrice s action unit arg ∧ (action = actTumbler → t.domain 218 = domOn) ∧
          (action = actLink → t.domain (176 + unit) = domOn) ∧ (action = actHbm → t.reg 0x200E (unit + 1) = arg) ∧ (action = actStep → t.limit unit srcRamp = arg) ∧
          State.sameBut [.dict, .power, .thermal] s t) ∧
        (s.fits (ledgerPrice s action unit arg) = false → ∃ t, exec (.ledgerRequest q action unit arg) s = .next t ∧ t.power = s.power ∧
          t.reg 0x2004 = elt 0x2004 0 (s.reg 0x2004 + 1) ∧ State.sameBut logParts s t)) ∧
      (unit < 88 → s.domain unit = domOff → s.rampAwaited unit = false →
        (s.overGranted = false → s.fits 130 = true → ∃ t, exec (.ledgerRequest q actField unit arg) s = .next t ∧
          t.power.powerups = s.power.powerups ++ [(unit, q, s.now, true, false)] ∧
          AMap.get 0 t.power.reserved (ledgerKey actField unit) = AMap.get 0 s.power.reserved (ledgerKey actField unit) + 130 ∧ State.sameBut [.dict, .power] s t) ∧
        (s.overGranted = true → exec (.ledgerRequest q actField unit arg) s =
          .next (s.apply (.power { s.power with powerups := s.power.powerups ++ [(unit, q, s.now, false, false)] })))) ∧
      (unit < 3 → s.fits (100 * arg) = true → ∃ t, exec (.ledgerRequest q actModel unit arg) s = .next t ∧
        AMap.get 0 t.power.reserved (ledgerKey actModel unit) = AMap.get 0 s.power.reserved (ledgerKey actModel unit) + 100 * arg ∧ State.sameBut [.dict, .power] s t) ∧
      (unit < 88 → arg ≤ 6 → ((s.logicalField unit).bind s.fieldSlot).isSome = true → exec (.ledgerRequest q actStep unit arg) s = .next s) ∧
      (unit < 88 → s.fieldStep unit ≤ arg → arg ≤ 6 → (s.logicalField unit).bind s.fieldSlot = none → ∃ t, exec (.ledgerRequest q actStep unit arg) s = .next t ∧
        t.granted actStep unit = min (s.granted actStep unit) (fieldPeak arg - fieldPeak 6) ∧ t.limit unit srcRamp = arg ∧ State.sameBut [.dict, .power, .thermal] s t) ∧
      (unit < 24 → arg ≤ 2 → hbmPrice arg ≤ s.granted actHbm unit → ∃ t, exec (.ledgerRequest q actHbm unit arg) s = .next t ∧ t.granted actHbm unit = hbmPrice arg ∧
        t.reg 0x200E (unit + 1) = arg ∧ State.sameBut [.dict, .power] s t)) ∧
    (s.mcore 1 ≠ 0 → ∀ action, exec (.ledgerRequest q action unit arg) s =
      .next (s.apply (.power { s.power with waiting := s.power.waiting ++ [.request q action unit arg] }))))

/-- Power failures (R342 to R350, R360). -/
def Obligations.PowerFaults : Prop :=
  ∀ s : State,
    (∀ c ∈ [Instr.inputFail 0, .inputFail 1, .inputFail 2, .inputOvervoltage], ∃ t, exec c s = .next t ∧
      (∀ d < 219, t.domain d = domOff) ∧ (∀ m < 6, t.mcore m = 2) ∧ t.reg 0x4002 = 0 ∧ t.reg 0x4000 = 0 ∧ t.portUp 0 = false ∧ t.portUp 1 = false ∧
      (∀ l < 32, t.linkState l = lkOff) ∧ t.beat = Beat.reset ∧ t.net = [] ∧ t.serving = Serving.reset ∧ t.owner = Owner.none ∧ t.hbm = s.hbm) ∧
    (∀ mv, 46000 ≤ mv → mv < 51000 → ∃ t, exec (.inputLow mv) s = .next t ∧ t.power = { s.power with volts := s.power.volts ++ [(s.now, mv)], lowLogged := true } ∧
      State.sameBut (.power :: logParts) s t) ∧
    (∀ mv, 57000 ≤ mv → mv ≤ 61000 → ∃ t, exec (.inputHigh mv) s = .next t ∧ t.power = { s.power with highLogged := true } ∧
      State.sameBut (.power :: logParts) s t) ∧
    (∀ ma, 580000 < ma → ∃ t, exec (.inputOvercurrent ma) s = .next t ∧ t.power.overcurrent = true ∧ (∀ p < 88, t.limit p srcOvercurrent = 6 ∧ 6 ≤ t.effective p)) ∧
    (∀ bc < 24, s.reg 0x2008 (bc + 1) = 1 → s.power.deadBc.contains bc = false → ∃ t, exec (.converterFail bc) s = .next t ∧
      t.workingConverters + 1 = s.workingConverters ∧ (s.mcore 1 = 0 → t.reg 0x2008 (bc + 1) = 2) ∧ (s.mcore 1 ≠ 0 → t.dict = s.dict) ∧
      (∀ k < 24, k ≠ bc → t.reg 0x2008 (k + 1) = s.reg 0x2008 (k + 1)) ∧ State.sameBut (.power :: logParts) s t) ∧
    (∀ d ph, d < 176 → ph < (if d < 88 then 12 else 6) → bit (AMap.get 0 s.power.phases d) ph = false →
      ∃ t, exec (.phaseFail d ph) s = .next t ∧ AMap.get 0 t.power.phases d = AMap.get 0 s.power.phases d + 2 ^ ph ∧
        t.phasesLeft d + 1 = s.phasesLeft d ∧ (s.mcore 1 = 0 → t.reg 0x200B (d + 1) = t.phasesLeft d ∧ t.reg 0x200C (d % 88 + 1) = fieldCap t (d % 88)) ∧
        (fieldCap t (d % 88) ≠ fieldCap s (d % 88) →
          (fieldCap t (d % 88) ≠ 7 → t.limit (d % 88) srcCap = fieldCap t (d % 88)) ∧
          (fieldCap t (d % 88) = 7 → t.domain (d % 88) = domIsolated))) ∧
    (∀ p rail pair, p < 88 → rail ≤ 1 → pair ≤ 3 → bit (AMap.get 0 s.power.pairs (2 * p + rail)) pair = false →
      ∃ t, exec (.senseFault p rail pair) s = .next t ∧ AMap.get 0 t.power.pairs (2 * p + rail) = AMap.get 0 s.power.pairs (2 * p + rail) + 2 ^ pair ∧
        AMap.get 0 t.thermal.setPoint (88 * rail + p) = AMap.get 0 s.thermal.setPoint (88 * rail + p) +
          (if ((List.range 4).countP fun i => !bit (AMap.get 0 s.power.pairs (2 * p + rail)) i && i != pair) = 1 ∧
              AMap.get 0 s.thermal.setPoint (88 * rail + p) ≠ 0 then 30 else 0)) ∧
    (∀ p rail, p < 88 → rail ≤ 1 →
      (∃ t, exec (.catchFire p rail) s = .next t ∧ AMap.get 0 t.power.lastFire p = s.now + 1 ∧
        t.reg 0x200D (p + 1) = min (s.reg 0x200D (p + 1) + 1) (2 ^ regWidth (regKey 0x200D (p + 1)) - 1) ∧ State.sameBut [.dict, .power] s t) ∧
      (s.fieldStep p < 6 → ∃ t, exec (.catchExhaust p rail) s = .next t ∧ t.limit p srcCatch = min 6 (max (s.limit p srcCatch) (s.fieldStep p + 1))) ∧
      (s.mcore 1 = 0 → 0 < s.limit p srcCatch → 0 < AMap.get 0 s.power.lastFire p → ∃ t, exec (.catchRelease p) s = .next t ∧ t.limit p srcCatch = 0 ∧
        t.now = max s.now (AMap.get 0 s.power.lastFire p - 1 + 100000000) ∧ State.sameBut [.now, .dict, .thermal] s t)) ∧
    (∀ p cause, p < 88 → s.domain p ≠ domIsolated → ∃ t, exec (.railIsolated p cause) s = .next t ∧ t.domain p = domIsolated ∧ t.domain (88 + p) = domIsolated ∧
      (s.mcore 1 = 0 → t.granted actField p = 0) ∧ (s.mcore 1 ≠ 0 → t.power.grants = s.power.grants ∧ t.reg 0x200A (p + 1) = s.reg 0x200A (p + 1)) ∧
      AMap.get false t.repair.dark p = true ∧ p ∈ t.repair.lost ∧ t.beat.hold ≠ .none)

/-- Temperature, margin and coolant (R368 to R378). -/
def Obligations.HeatReadings : Prop :=
  ∀ s : State,
    (∀ (xs : List (Nat × Int)) (p : Nat) (x : Nat → Int), s.mcore 2 = 0 → p < 88 → xs = [(4 * p, x 0), (4 * p + 1, x 1), (4 * p + 2, x 2), (4 * p + 3, x 3)] →
      ∃ t, exec (.diodeScan xs) s = .next t ∧ t.now = tickTime s tkDiode 100000 ∧ (∀ d < 4, sensorTemp t (4 * p + d) = x d - f32Scale (s.calValue gDiode (4 * p + d)).1 1000) ∧
        (∀ d < 396, d / 4 ≠ p → sensorTemp t d = sensorTemp s d) ∧ t.reg 0x3800 (p + 1) = elt 0x3800 (p + 1) (f32Rat (fieldTemp t p) 1000) ∧
        ((∀ d < 4, 110000 ≤ sensorTemp t (4 * p + d)) → (∀ d < 4, sensorState s (4 * p + d) = 0) → t.limit p srcThermal = 6)) ∧
    (∀ s' : State, s.mcore 2 = 0 → s' = { s with now := tickTime s tkThrottle 10000000 } →
      let lowered (q : Nat) : Nat := if coolingFloor s < s.limit q srcThermal ∧ AMap.get 0 s.thermal.coolSince q ≠ 0 ∧ AMap.get 0 s.thermal.coolSince q + 100000000 ≤ s'.now + 1
        then s.limit q srcThermal - 1 else s.limit q srcThermal
      (∀ p < 88, mayRise s' p = true → (∀ q < 88, mayRise s' q = true → q ≠ p → fieldTemp s q < fieldTemp s p ∨ (fieldTemp s q = fieldTemp s p ∧ p < q)) →
        ∃ t, exec .throttleEval s = .next t ∧ t.limit p srcThermal = s.limit p srcThermal + 1 ∧ t.reg 0x3805 = elt 0x3805 0 (s.reg 0x3805 + 1) ∧
          ∀ q < 88, q ≠ p → t.limit q srcThermal = lowered q) ∧
      ((∀ q < 88, mayRise s' q = false) → ∃ t, exec .throttleEval s = .next t ∧ t.reg 0x3805 = s.reg 0x3805 ∧
          ∀ q < 88, t.limit q srcThermal = lowered q)) ∧
    (∀ (p mon code : Nat), p < 88 → mon < 12 → code ≤ 63 →
      ((code : Int) ≤ s.warnCode p mon → ∃ t, exec (.marginWarn p mon code) s = .next t ∧ t.limit p srcMargin = min 6 (s.effective p + 1) ∧ t.reg 0x3008 (p + 1) = elt 0x3008 (p + 1) (s.reg 0x3008 (p + 1) + 1) ∧
        (AMap.get [] t.thermal.warns p).headD 0 = s.now) ∧
      ((code : Int) ≤ s.critCode p mon →
        ∃ t, exec (.marginCrit p mon code) s = .next t ∧ t.limit p srcMargin = min 6 (s.effective p + 1) ∧ State.sameBut [.dict, .thermal] s t) ∧
      (s.warnCode p mon < code → exec (.marginWarn p mon code) s = .next s) ∧
      (s.critCode p mon < code → exec (.marginCrit p mon code) s = .next s)) ∧
    (∀ p, p < 88 → s.mcore 2 = 0 → AMap.get false s.thermal.sticky p = false → AMap.get 0 s.thermal.unsafeStep p < s.limit p srcMargin → s.limit p srcMargin ≤ 6 →
      ∃ t, exec (.marginRelease p) s = .next t ∧ t.limit p srcMargin = s.limit p srcMargin - 1 ∧
        t.now = max s.now (max ((AMap.get [] s.thermal.warns p).headD 0) (AMap.get 0 s.ticks (tkMargin p)) + 10000000000)) ∧
    (∀ (inlet outlet : Int) (dp : Nat), s.mcore 2 = 0 → ∃ t, exec (.coolantRead inlet outlet dp) s = .next t ∧ t.now = tickTime s tkCoolant 100000000 ∧
      t.thermal.inlet = inlet ∧ t.thermal.outlet = outlet ∧ t.thermal.dp = dp ∧ t.reg 0x3880 = elt 0x3880 0 (f32Rat inlet 1000) ∧
      t.reg 0x3881 = elt 0x3881 0 (f32Rat outlet 1000) ∧ t.reg 0x3883 = elt 0x3883 0 (flowF32 (s.reg 0x3884) dp) ∧ State.sameBut [.now, .ticks, .dict, .thermal] s t) ∧
    (s.mcore 2 = 0 → ∃ t, exec .coolingCheck s = .next t ∧ t.now = tickTime s tkCooling 1000000000 ∧ (∀ p < 88, coolingFloor t ≤ t.limit p srcThermal)) ∧
    (∀ sid, OwnerServed s sid → ∃ t, exec (.coolingBaseline sid) s = .next t ∧ t.thermal = { s.thermal with baseline := 0 } ∧ AMap.get [] t.cmds 0x3893 = AMap.get [] s.cmds 0x3893 ++ [sid] ∧
      State.sameBut [.thermal, .cmds] s t) ∧
    (∀ p, s.mcore 2 = 0 → p < 88 → AMap.get [] s.thermal.residue p = [] →
      ∃ t, exec .rainflowSample s = .next t ∧ AMap.get [] t.thermal.residue p = [fieldTemp s p] ∧ t.now = tickTime s tkRain 100000000) ∧
    (∀ sid counts, OwnerServed s sid → s.thermal.rainUsed = false → counts.length = 1408 →
      ∃ t, exec (.rainflowLoad sid counts) s = .next t ∧ t.thermal.rainUsed = true ∧ t.reg 0x3811 = 0 ∧
        (∀ (b : Nat) (n : Nat), counts[b]? = some n → t.reg 0x3810 (b + 1) =
          min (s.reg 0x3810 (b + 1) + n % 2 ^ 32) (2 ^ regWidth (regKey 0x3810 (b + 1)) - 1))) ∧
    (∀ d, d < 352 → sensorState s d ≠ 2 → s.domain (d / 4) ≠ domIsolated → ∃ t, exec (.thermalTrip d false) s = .next t ∧ t.domain (d / 4) = domOff ∧
      t.reg 0x3804 = elt 0x3804 0 (s.reg 0x3804 + 1) ∧ (s.mcore 1 = 0 → t.granted actField (d / 4) = 0) ∧ AMap.get false t.repair.dark (d / 4) = true ∧ t.beat.hold ≠ .none) ∧
    (∀ d, d < 352 → sensorState s d ≠ 2 → s.domain (d / 4) = domIsolated → ∃ t, exec (.thermalTrip d false) s = .next t ∧ t.domain (d / 4) = domIsolated ∧
      t.reg 0x3804 = elt 0x3804 0 (s.reg 0x3804 + 1) ∧ State.sameBut logParts s t) ∧
    (∀ d, 16 ≤ d → d < 40 → ∃ t, exec (.thermalTrip d true) s = .next t ∧ t.domain (176 + d) = domOff ∧ (s.mcore 1 = 0 → t.granted actHbm (d - 16) = 0) ∧ t.reg 0x4012 (d - 16 + 1) = 1)

/-- Time references and calibration (R329, R371, R408 to R417). -/
def Obligations.ClocksAndCalibration : Prop :=
  ∀ s : State,
    (∀ k ≤ 1, bit (s.reg 0x1020) k = true →
      (s.inGroup = false → s.reg 0x9005 ≠ 1 → bit s.calib.mask gTimebase = false → ∃ t, exec (.refLost k) s = .next t ∧ bit (t.reg 0x1020) k = false ∧
        bit (t.reg 0x1020) (1 - k) = bit (s.reg 0x1020) (1 - k) ∧ t.reg 0x300A = elt 0x300A 0 (s.reg 0x300A + 1) ∧
        (k = 0 → s.reg 0x3000 = 1 → t.reg 0x3000 = 2) ∧ State.sameBut logParts s t) ∧
      (k = 0 → s.inGroup = true → ∃ t, exec (.refLost 0) s = .next t ∧ t.reg 0x9005 = 4) ∧
      (k = 0 → s.reg 0x9005 = 1 → ∃ t, exec (.refLost 0) s = .next t ∧ t.reg 0x9005 = 5 ∧ t.group.formBy = none) ∧
      (k = 0 → s.inGroup = false → s.reg 0x9005 ≠ 1 → bit s.calib.mask gTimebase = true → ∃ t, exec (.refLost 0) s = .next t ∧
        t.calib = { s.calib with lost := s.calib.lost ||| 2 ^ gTimebase } ∧ State.sameBut (.calib :: logParts) s t)) ∧
    (∀ k ≤ 1, ∃ t, exec (.refDetected k) s = .next t ∧ bit (t.reg 0x1020) k = true ∧ bit (t.reg 0x1020) (1 - k) = bit (s.reg 0x1020) (1 - k) ∧
      (k = 0 → t.reg 0x3000 = 1) ∧ (k = 1 → t.reg 0x3000 = s.reg 0x3000) ∧ State.sameBut logParts s t) ∧
    (∀ l < 32, ∀ b : Bool, ∃ t, exec (.cablePresentChange l b) s = .next t ∧ bit (t.reg 0x1021) l = b ∧
      (∀ k < 32, k ≠ l → bit (t.reg 0x1021) k = bit (s.reg 0x1021) k) ∧ State.sameBut [.dict] s t ∧ regsBut s t [0x1021]) ∧
    (∀ mv, mv < 2490 ∨ 2510 < mv →
      ∃ t, exec (.calvLost mv) s = .next t ∧ bit (t.reg 0x1020) 2 = false ∧ t.reg 0x700A = elt 0x700A 0 (f32Rat mv 1000) ∧
        t.calib = { s.calib with lost := s.calib.lost ||| s.calib.mask % 4 } ∧ State.sameBut [.dict, .calib] s t ∧ regsBut s t [0x1020, 0x700A]) ∧
    (∀ mv, 2490 ≤ mv → mv ≤ 2510 →
      ∃ t, exec (.calvLost mv) s = .next t ∧ bit (t.reg 0x1020) 2 = true ∧ t.reg 0x700A = elt 0x700A 0 (f32Rat mv 1000) ∧ State.sameBut [.dict] s t ∧
        regsBut s t [0x1020, 0x700A]) ∧
    (∀ sid mask force, OwnerServed s sid → mask ≠ 0 → mask < 32 → force ≤ 1 → calBusy s = false → (∀ g < 5, bit mask g = true → hasRef s g = true) →
      ((bit mask gMargin = false ∨ naming s allFields = []) → (bit mask gCurrent = true → s.fits 100 = true ∧ s.mcore 1 = 0) →
        ∃ t, exec (.calRun sid mask force) s = .next t ∧ t.calib = { s.calib with mask := mask, mode := 1, waiting := 0, lost := 0 } ∧ t.reg 0x7000 = 1 ∧
          t.granted actCal 0 = s.granted actCal 0 + (if bit mask gCurrent then 100 else 0) ∧ AMap.get [] t.cmds 0x7001 = AMap.get [] s.cmds 0x7001 ++ [sid] ∧ State.sameBut [.dict, .power, .calib, .cmds] s t) ∧
      ((bit mask gMargin = false ∨ naming s allFields = []) → bit mask gCurrent = true → s.mcore 1 = 0 → s.fits 100 = false →
        ∃ t, exec (.calRun sid mask force) s = .next t ∧ t.calib = s.calib ∧ t.reg 0x7001 = 0x45 ∧ t.reg 0x7000 = s.reg 0x7000) ∧
      (bit mask gMargin = true → naming s allFields = [1] → force = 1 → s.load.op = 0 →
        ∃ t, exec (.calRun sid mask force) s = .next t ∧ t.calib = { s.calib with waiting := mask } ∧ t.reg 0x7000 = 2 ∧ t.load.op = 4 ∧ (t.model 1).draining = true)) ∧
    (∀ sid b, OwnerServed s sid → calBlobGood s b = true → s.boot.assist = none → calBusy s = false → groupsOf (field b 7 1) ≠ [] → bit (field b 7 1) gMargin = false →
      (∀ g ∈ groupsOf (field b 7 1), hasRef s g = true) → (bit (field b 7 1) gCurrent = true → s.fits 100 = true ∧ s.mcore 1 = 0) →
      ∃ t, exec (.calRestore sid b) s = .next t ∧ t.calib.restoring = b ∧ t.calib.mask = maskOf (groupsOf (field b 7 1)) ∧ t.calib.mode = 2 ∧ t.reg 0x7000 = 1 ∧
        AMap.get [] t.cmds 0x7004 = AMap.get [] s.cmds 0x7004 ++ [sid]) ∧
    (s.reg 0x7008 ≠ 0 → calBusy s = false → s.mcore 1 = 0 → s.mcore 2 = 0 → s.reg 0x4002 = 0xFF → s.fits 100 = true →
      ∃ t, exec .calIntervalExpiry s = .next t ∧ t.now = max s.now (s.calib.lastRun + s.reg 0x7008 * 1000000000) ∧ t.calib.mode = 3 ∧ t.reg 0x7000 = 1 ∧
        t.calib.mask = maskOf ([gCurrent, gVsense, gDiode, gTimebase].filter (hasRef s))) ∧
    (∀ (items trims : List CalItem) (it : CalItem) (v : Nat × Nat), items ++ trims = [it] → s.calib.mode = 1 → it.group < 5 → bit s.calib.mask it.group = true → it.item < calItems it.group →
      (∀ g ∈ groupsOf s.calib.mask, s.mcore (calCore g) = 0) → holdInForce s = false → pairReady s it = true → s.calib.lost = 0 → judgeItem s it = .ok v →
      (it.group = gMargin → s.domain (marginField it.item) ≠ domIsolated) →
      ∃ t, exec (.calDone items trims) s = .next t ∧ AMap.get 0 t.calib.values (calKey it.group it.item) = v.1 + v.2 * 2 ^ 32 + 1 ∧ t.calib.mask = 0 ∧ t.calib.mode = 0 ∧
        (offsetKept s it = false → t.calAgreed it.group it.item = true) ∧
        t.calib.lastRun = s.now ∧ t.reg 0x7000 = 0 ∧ t.reg 0x7002 = 0 ∧ t.reg 0x7009 = elt 0x7009 0 (s.reg 0x7009) ∧ t.granted actCal 0 = 0) ∧
    (s.calib.mode = 1 → s.calib.mask ≠ 0 → s.calib.lost ≠ 0 → (∀ g ∈ groupsOf s.calib.mask, s.mcore (calCore g) = 0) → holdInForce s = false →
      ∃ t, exec (.calDone [] []) s = .next t ∧ t.calib.values = s.calib.values ∧ t.calib.mask = 0 ∧ t.reg 0x7000 = 0 ∧ t.reg 0x7002 / 2 ^ 56 = 0x46 ∧
        ∀ g ∈ groupsOf s.calib.lost, AMap.get 0 t.calib.agreed g = AMap.get 0 s.calib.agreed g)

/-- Performance counters and samples (R423 to R431). -/
def Obligations.CountersAndSamples : Prop :=
  ∀ (s : State) (sid : Nat),
    (OwnerServed s sid → perfBusy s = false → tgKind (s.reg 0x6000) = 0 → tgGood (s.reg 0x6000) = true →
      (selectGood ((List.range 8).map fun i => s.reg 0x6001 (i + 1)) 0x15 = true →
        exec (.perfApply sid) s = .next ((s.apply (.core (tgKey (s.reg 0x6000)) { s.core (tgKey (s.reg 0x6000)) with
          perf := { (s.core (tgKey (s.reg 0x6000))).perf with next := some ((List.range 8).map fun i => s.reg 0x6001 (i + 1)), ctr := [], sticky := 0 } })).apply
            (.reg (regKey 0x6003 0) 0))) ∧
      (exec (.perfSnapshot sid 0) s = .next ((s.apply (.core (tgKey (s.reg 0x6000)) { s.countedCore (tgKey (s.reg 0x6000)) with
        perf := (s.countedCore (tgKey (s.reg 0x6000))).perf.latchNow s.waferTime s.beat.last })).apply (.reg (regKey 0x6004 0) 0)))) ∧
    (OwnerServed s sid → ∀ v, (v ≤ 1 → exec (.perfFigureRead sid v) s = .next (s.apply (.reg (regKey 0x6007 0) v))) ∧
      (1 < v → exec (.perfFigureRead sid v) s = .next s)) ∧
    (OwnerServed s sid → AMap.wf Core.fresh s.cores = true → ∀ v : BitVec 32, 8 ≤ v.toNat % 32 → v.toNat % 32 ≤ 20 → v.toNat = v.toNat % 32 + v.toNat / 256 % 2 * 256 →
      ∃ t, exec (.sampleConfig sid v) s = .next t ∧ t.reg 0x6008 = v.toNat ∧ t.sampler.head = s.sampler.head ∧
        (bit v.toNat 8 = true → ∀ k ∈ sampleTargets s, AMap.get 0 t.sampler.draws k = 1 ∧ (t.core k).tag = none ∧
          (t.core k).tagAt = some (s.corePosition k + sampleInterval t k 0)) ∧
        State.sameBut [.dict, .sampler, .cores] s t) ∧
    (∀ (c : CoreId) (r : BitVec 256) (g : SampleTag), c.valid = true → sampling s = true → c.key ∈ sampleTargets s → (s.core c.key).tag = some g → g.issued = true →
      ∃ t, exec (.sampleTag c r) s = .next t ∧ AMap.get 0 t.sampler.draws c.key = AMap.get 0 s.sampler.draws c.key + 1 ∧ (t.core c.key).tag = none ∧
        (t.core c.key).tagAt = some (s.corePosition c.key + sampleInterval s c.key (AMap.get 0 s.sampler.draws c.key)) ∧
        ((s.core c.key).samples.length < 16 → (t.core c.key).samples = (s.core c.key).samples ++ [BitVec.ofNat 256 (leNat (sampleBytes c.key g (leBytes 32 r.toNat)))] ∧ t.dict = s.dict) ∧
        (16 ≤ (s.core c.key).samples.length → (t.core c.key).samples = (s.core c.key).samples ∧ t.reg 0x600D = elt 0x600D 0 (s.reg 0x600D + 1))) ∧
    (s.mcore 4 = 0 → ∃ t, exec .sampleDrain s = .next t ∧ t.now = tickTime s tkSample 10000000 ∧ (∀ k, (t.core k).samples = []) ∧
      (∀ k c r, s.cores = [(k, c)] → c.samples = [r] → t.sampler.head = s.sampler.head + 1 ∧ Mem.read t.sm (sampleAddr s.sampler.head) 32 = leBytes 32 r.toNat) ∧
      State.sameBut [.now, .ticks, .cores, .sampler, .sm, .smBad] s t)

/-- Starts (R383 to R391, R404). -/
def Obligations.Starts : Prop :=
  ∀ s : State,
    (∀ (r : BistReport) (b : BootRecord) (copy held : Nat), r.testEn = false → 0 < held → chosenRecord s = some (b, copy) → b.trial = false → b.active ≤ 1 →
      r.edgeFailed = false → r.badConverters = [] → s.flash.commit = none →
      slotGood { s with boot := { s.boot with report := r }, flash := { s.flash with record := b } } b.active = true →
      ∃ t, exec (.coldStart ⟨.power, held, r⟩) s = .next t ∧ t.now = s.now + (100 - held) * 1000000 + 12000000000 ∧
        t.epoch = s.now + (100 - held) * 1000000 + (if bit (s.reg 0x1020) 1 then (1000000000 - r.ppsAgo % 1000000000) % 1000000000 else 0) ∧
        t.reg 0x4001 = 0 ∧ t.reg 0x4002 = 4 ∧ t.boot.assist = some t.now ∧ t.boot.waiting = none ∧
        t.flash.running = b.active ∧ t.flash.record = b ∧ t.reg 0x8000 = b.active ∧
        t.granted actTumbler 0 = 600 ∧ t.domain 218 = domOn ∧ t.domain 219 = domOn ∧ t.hbm = [] ∧ t.owner = Owner.none ∧
        (∀ k, t.core k = Core.fresh) ∧ (∀ k, t.spad k = []) ∧ (∀ b i, (t.session b i).live = false) ∧ t.reg 0x1300 = boolNat r.enroll ∧ bit (t.reg 0x1020) 2 = decide (2490 ≤ r.calvMv ∧ r.calvMv ≤ 2510) ∧
        t.reg 0x700A = elt 0x700A 0 (f32Rat r.calvMv 1000)) ∧
    (∀ (r : BistReport) (held : Nat), 0 < held → r.testEn = false → r.imageOk = (false, false) →
      ∃ t, exec (.coldStart ⟨.power, held, r⟩) s = .next t ∧ t.reg 0x4002 = 0xFE ∧ t.reg 0x4000 = 3 ∧ t.boot.assist = none ∧ (∀ m, 1 ≤ m → m < 6 → t.mcore m = 2)) ∧
    (∀ (r : BistReport) (held : Nat), 0 < held → r.testEn = true → ∃ t, exec (.coldStart ⟨.power, held, r⟩) s = .next t ∧ t.testMode = true ∧ (∀ d < 219, t.domain d = domOff) ∧
      t.domain 219 = domOn ∧ (∀ m < 6, t.mcore m = 2) ∧ t.reg 0x4002 = 1) ∧
    (∀ (r : BistReport) (held ms at_ : Nat),
      exec (.coldStart ⟨.power, 0, r⟩) s = .next (s.apply (.boot { s.boot with waiting := some (2, s.now) })) ∧
      (s.startWaits 2 = false → exec (.coldStart ⟨.start, held, r⟩) s = .next s) ∧
      (s.boot.waiting = some (2, at_) → s.testMode = false → exec (.coldStart ⟨.start, held, r⟩) s = exec (.coldStart ⟨.power, held, r⟩) (s.apply (.time at_))) ∧
      (∃ t, exec (.coldStart ⟨.enrollHeld, held, r⟩) s = .next t ∧ bit (t.reg 0x1020) 3 = true ∧ State.sameBut [.dict] s t ∧ regsBut s t [0x1020]) ∧
      (s.boot.lowSince = none → ∃ t, exec (.coldStart ⟨.resetLow, held, r⟩) s = .next t ∧ t.boot = { s.boot with lowSince := some s.now } ∧
        bit (t.reg 0x1020) 5 = true ∧ State.sameBut [.boot, .dict] s t ∧ regsBut s t [0x1020]) ∧
      (s.boot.lowSince = some at_ → ∃ t, t.now = max s.now (at_ + ms * 1000000) ∧ t.boot = { s.boot with lowSince := none } ∧ bit (t.reg 0x1020) 5 = false ∧
        State.sameBut [.now, .boot, .dict] s t ∧ regsBut s t [0x1020] ∧
        (t.now < at_ + 10000000 → exec (.coldStart ⟨.resetHigh ms, held, r⟩) s = .next t) ∧
        (at_ + 1000000000 ≤ t.now → (s.testMode = false → exec (.coldStart ⟨.resetHigh ms, held, r⟩) s = exec (.coldStart ⟨.power, held, r⟩) t) ∧
          (s.testMode = true → exec (.coldStart ⟨.resetHigh ms, held, r⟩) s = .next t))) ∧
      (s.testMode = true → exec (.coldStart ⟨.start, held, r⟩) s = .next s)) ∧
    (∀ a, s.boot.assist = some a → s.calib.restoring = [] → s.mcore 1 = 0 → s.mcore 2 = 0 → s.mcore 3 = 0 → s.overGranted = false →
      (∀ p < 88, segmentReady s p = true ∧ (s.domain p = domOff ∨ s.domain p = domOn)) →
      ∃ t, exec .assistWindowTimeout s = .next t ∧ t.now = max s.now (a + 5000000000) + 52000000000 ∧ t.boot.assist = none ∧ t.reg 0x4001 = 0 ∧ t.reg 0x4002 = 7 ∧
        t.calib.mode = 4 ∧ t.reg 0x7000 = 1 ∧ (∀ f < 80, t.reg 0x4007 (f + 1) =
          (if fieldUsable t.repair (mapField t.repair f) && mapAvoids t.repair f (deadOf t.repair (mapField t.repair f)) then mapField t.repair f else 255))) ∧
    (∀ a, s.boot.assist = some a → s.mcore 3 ≠ 0 → ∃ t, exec .assistWindowTimeout s = .next t ∧ t.now = max s.now (a + 5000000000) ∧ t.boot.assist = none ∧ t.reg 0x4002 = 5 ∧
      t.boot.todo = some (false, testedFields t false) ∧ t.power = s.power) ∧
    (∀ sid a b, OwnerServed s sid → s.boot.assist = some a →
      (mapBlobGood s b = true → ∃ t, exec (.startAssist sid b) s = .next t ∧ t.boot.assist = none ∧ t.boot.map = b ∧ t.reg 0x4001 = 1) ∧
      (mapBlobGood s b = false → ∃ t, exec (.startAssist sid b) s = .next t ∧ t.boot = s.boot ∧ t.reg 0x4005 = 0x43 ∧ State.sameBut logParts s t)) ∧
    (∀ at_, s.boot.waiting = some (1, at_) ∨ (s.startWaits 1 = false ∧ ∃ low, s.boot.lowSince = some low ∧ at_ = low + 10000000 ∧ s.now < low + 1000000000) →
      s.reg 0x4002 ≠ 0 → s.reg 0x4000 ≠ 3 → s.testMode = false → ∃ t, exec .warmStart s = .next t ∧ t.beat.hold = .none ∧ t.now = max s.now at_ + 8000000000 ∧ t.reg 0x4001 = 2 ∧
      t.reg 0x4002 = 0xFF ∧ t.hbm = s.hbm ∧ t.epoch = s.epoch ∧ t.boot.doneAt = t.now + 1 ∧ (∀ b i, (t.session b i).live = false) ∧ t.net = [] ∧ t.owner = Owner.none ∧ t.boot.waiting = none) ∧
    (∀ at_, s.boot.waiting = some (1, at_) → s.reg 0x4002 ≠ 0 → s.reg 0x4000 = 3 → s.testMode = false →
      exec .warmStart s = .next ((s.apply (.time at_)).apply (.boot { s.boot with waiting := none }))) ∧
    (s.startWaits 1 = false → (∀ low, s.boot.lowSince = some low → low + 1000000000 ≤ s.now) → exec .warmStart s = .next s) ∧
    (∀ sid kind, Served s sid → s.owns sid = true → kind ≤ 1 → ∃ t, exec (.start sid kind) s = .next t ∧
      t.boot = { s.boot with waiting := some (kind + 1, s.now + 100000000) } ∧ t.reg 0x4004 = 0 ∧ State.sameBut [.boot, .dict] s t ∧ regsBut s t [0x4004]) ∧
    (∀ sid p force, OwnerServed s sid → p < 88 → force ≤ 1 → s.domain p = domOn → AMap.get false s.repair.dark p = false → s.boot.bist = none →
      (∀ f, s.logicalField p = some f → naming s [f] = []) → s.mcore 1 = 0 → s.fits bistPrice = true →
      ∃ t, exec (.fieldBist sid p force) s = .next t ∧ t.boot.bist = some (p, 0) ∧ t.granted actBist p = s.granted actBist p + bistPrice ∧
        AMap.get [] t.cmds (cmdKey 0x4010 p) = AMap.get [] s.cmds (cmdKey 0x4010 p) ++ [sid] ∧ State.sameBut [.boot, .dict, .power, .cmds] s t) ∧
    (∀ sid p force, OwnerServed s sid → p < 88 → force ≤ 1 → s.domain p = domOff → s.rampAwaited p = false → AMap.get false s.repair.dark p = false → s.boot.bist = none →
      (∀ f, s.logicalField p = some f → naming s [f] = []) → s.mcore 1 = 0 → s.overGranted = false → s.fits 130 = true →
      ∃ t, exec (.fieldBist sid p force) s = .next t ∧ t.boot.bist = some (p, 2) ∧ t.power.powerups = s.power.powerups ++ [(p, 3, s.now, true, false)] ∧
        AMap.get [] t.cmds (cmdKey 0x4010 p) = AMap.get [] s.cmds (cmdKey 0x4010 p) ++ [sid] ∧ State.sameBut [.boot, .dict, .power, .cmds] s t) ∧
    (∀ p, p < 88 → s.boot.bist = some (p, 2) → s.boot.todo = none → s.domain p = domRamp → s.domain (88 + p) = domRamp → s.rampAwaited p = false → s.mcore 1 = 0 →
      s.fits bistPrice = true → ∃ t, exec (.fieldRampDone p) s = .next t ∧ t.boot.bist = some (p, 0) ∧ t.granted actBist p = s.granted actBist p + bistPrice ∧ t.domain p = domOn) ∧
    (∀ p, p < 88 → s.boot.bist = some (p, 0) → s.mcore 3 = 0 →
      (∃ t, exec (.bistDone [] true) s = .next t ∧ t.boot.bist = none ∧ t.reg 0x4011 = p * 2 ^ 49 ∧ t.reg 0x4010 = 0 ∧ t.granted actBist p = 0 ∧ t.beat = s.beat ∧ t.repair = s.repair) ∧
      (∀ row col, row < 25 → col < 25 → AMap.get false s.repair.dead (posKey p row col) = false →
        ∃ t, exec (.bistDone [(row, col)] true) s = .next t ∧ AMap.get false t.repair.dead (posKey p row col) = true ∧ t.repair.todo = s.repair.todo ++ [posKey p row col] ∧
          t.beat.hold ≠ .none ∧ t.reg 0x4011 = p * 2 ^ 49 + 2 ^ 39)) ∧
    (∀ b : Bool, ∃ t, exec (.testEnChange b) s = .next t ∧ bit (t.reg 0x1020) 4 = b ∧ t.testMode = s.testMode ∧ State.sameBut logParts s t)

/-- Ethernet (R282 to R285, R308, R326). -/
def Obligations.EthernetPorts : Prop :=
  ∀ (s : State) (e : Nat), e ≤ 1 →
    (s.portUp e = true → ∃ t, exec (.portDown e) s = .next t ∧ t.portUp e = false ∧ t.portUp (1 - e) = s.portUp (1 - e) ∧
      State.sameBut (.csp :: logParts) s t) ∧
    (s.portUp e = false → exec (.portDown e) s = .next s) ∧
    (∀ rate, s.mcore 5 = 0 → s.cagePowered e = true → s.boot.report.badPorts.contains e = false → 1 ≤ rate → rate ≤ 3 → s.reg 0x1401 (e + 1) ≤ 3 →
      ∃ t, exec (.portUp e rate) s = .next t ∧ t.portLink e = (if s.reg 0x1401 (e + 1) = 0 then rate else 4 - s.reg 0x1401 (e + 1)) ∧
        AMap.get 0 t.ports.best e = rate ∧ State.sameBut [.dict, .ports] s t ∧ regsBut s t [0x1400]) ∧
    (∀ klass w, s.mcore 5 = 0 → klass < 255 → ∃ t, exec (.cageModuleChange e klass w) s = .next t ∧ t.reg 0x1022 (e + 1) = klass ∧ t.portUp e = false ∧
      AMap.get 0 t.ports.module e = w + 1 ∧ (140 < w ∨ s.domain (216 + e) ≠ domOn → t.cagePowered e = false) ∧
      (w ≤ 140 → s.domain (216 + e) = domOn → s.mcore 1 = 0 → s.fits (portPrice w) = true → t.cagePowered e = true ∧ t.granted actPort e = portPrice w)) ∧
    (∀ w, s.mcore 5 = 0 → ∃ t, exec (.cageModuleChange e 255 w) s = .next t ∧ t.reg 0x1022 (e + 1) = 255 ∧ t.portUp e = false ∧ AMap.get 0 t.ports.module e = 0 ∧
      t.granted actPort e = 0) ∧
    (s.portUp e = true → s.reg 0x1410 (e + 1) = 0 → s.reg 0x1404 (e + 1) = 0 → s.ports.sakDue = [] → 20 ≤ s.lenMax (0xFF02 * 2 ^ 112 + 1) →
      ∃ t, exec (.announce e) s = .next t ∧ t.now = tickTime s (tkAnnounce + 100 * e) 1000000000 ∧
        t.wire = ⟨e, 0xFF02 * 2 ^ 112 + 1, 47810, 0xC0, (Config.free s.free).toNat % 256, 0, 0, 0, 0, announceBody s e⟩ :: s.wire ∧ State.sameBut [.now, .ticks, .free, .wire] s t) ∧
    (s.portUp e = false → ∀ (v6 : Bool) (a b : BitVec 32) (c d : BitVec 128) (bs : List Byte),
      ∀ i ∈ [Instr.arpRequest e a b, .neighborSolicitation e c d, .echoRequest e v6 c d bs, .announce e], exec i s = .next s) ∧
    (∀ target sender : BitVec 32, Admits s e → Quiet s → exec (.arpRequest e target sender) s = .next (if s.ownsV4 e target.toNat = true then
      s.apply (.sent ⟨e, sender.toNat, 0, 0, 1, 0, 0, 0, 0, leBytes 6 (s.reg 0x1402 (e + 1))⟩) else s)) ∧
    (∀ target sender : BitVec 128, Admits s e → Quiet s → exec (.neighborSolicitation e target sender) s = .next (if s.ownsV6 e target.toNat = true then
      s.apply (.sent ⟨e, sender.toNat, 0, 0, 2, 0, 0, 0, 0, leBytes 6 (s.reg 0x1402 (e + 1))⟩) else s)) ∧
    (∀ (v6 : Bool) (dst src : BitVec 128) (bs : List Byte), Admits s e → Quiet s → exec (.echoRequest e v6 dst src bs) s =
      .next (if (if v6 then s.ownsV6 e dst.toNat else s.ownsV4 e dst.toNat) = true then
        s.apply (.sent ⟨e, src.toNat, 0, 0, if v6 then 4 else 3, 0, 0, 0, 0, bs⟩) else s)) ∧
    (∀ (v6 : Bool) (a b : BitVec 32) (c d : BitVec 128) (bs : List Byte), s.portUp e = true → s.reg 0x1410 (e + 1) ≠ 0 →
      (∀ an < 2, (AMap.get MacAssoc.none s.ports.assoc (4 * e + 2 + an)).valid = false) →
      ∀ i ∈ [Instr.arpRequest e a b, .neighborSolicitation e c d, .echoRequest e v6 c d bs],
        exec i s = .next (s.apply (.reg (regKey 0x1420 (e + 1)) (s.reg 0x1420 (e + 1) + 1)))) ∧
    (∀ d : Datagram, d.port = e → s.portUp e = true → s.reg 0x1410 (e + 1) = 0 → d.proto = 0 ∨ d.payload.length ≤ s.lenMax d.addr → s.apply (.sent d) = { s with wire := d :: s.wire }) ∧
    (∀ sid v, OwnerServed s sid →
      (v ≤ 3 → s.portUp e = false ∨ s.mcore 5 ≠ 0 → exec (.portRate sid e v) s = .next (s.apply (.reg (regKey 0x1401 (e + 1)) v))) ∧
      (v ≤ 3 → s.portUp e = true → s.mcore 5 = 0 → exec (.portRate sid e v) s = .next ((s.apply (.reg (regKey 0x1401 (e + 1)) v)).apply
        (.reg (regKey 0x1400 (e + 1)) (if v = 0 then AMap.get 0 s.ports.best e else 4 - v)))) ∧
      (Featured s sid 8 → v ≤ 2 → exec (.macsecMode sid e v) s = .next (s.apply (.reg (regKey 0x1410 (e + 1)) v)))) ∧
    (∀ (sid dir an : Nat) (key : BitVec 256) (ssci : BitVec 32) (salt : BitVec 96), OwnerServed s sid → Featured s sid 8 → dir ≤ 1 → an ≤ 1 → s.reg 0x1410 (e + 1) ≠ 0 → s.ports.sakDue = [] →
      ∃ t, exec (.macsecSak sid e dir an key ssci salt) s = .next t ∧ t.reg 0x1411 = 0 ∧ State.sameBut [.dict, .ports] s t ∧
        (let a := AMap.get MacAssoc.none t.ports.assoc (4 * e + 2 * dir + an); a.valid = true ∧ a.key = key.toNat ∧ a.pn = 1 ∧
          (s.reg 0x1410 (e + 1) = 2 → a.ssci = ssci.toNat ∧ a.salt = salt.toNat)) ∧
        (dir = 0 → AMap.get 0 t.ports.tx e = an + 1) ∧ (dir = 1 → t.ports.tx = s.ports.tx)) ∧
    (exec (.droppedFrame e) s = .next (s.apply (.reg (regKey 0x1420 (e + 1)) (s.reg 0x1420 (e + 1) + 1))))

/-- Owner keys and firmware (R305, R306, R314 to R317). -/
def Obligations.FirmwareAndKeys : Prop :=
  ∀ (s : State) (sid : Nat),
    (OwnerServed s sid → s.windowOpen = true → s.flash.enroll = none → s.mcore 0 = 0 → ∀ (slot us heldUp : Nat), slot ≤ 3 → heldUp = (Config.free s.free).toNat % 2 ^ 32 →
      (∀ key : BitVec 544, (leBytes 68 key.toNat).take 4 = xmssOid → s.enrolled slot = [] →
        (15000 ≤ us → us < 2 ^ 32 → ∃ t, exec (.keyEnroll sid slot key us) s = .next t ∧
          (15000 ≤ heldUp → t.flash = { s.flash with keys := AMap.put [] (AMap.put [] s.flash.keys slot (leBytes 68 key.toNat)) (4 + slot) (leBytes 68 key.toNat), enroll := none } ∧
            t.reg 0x1301 = 0 ∧ State.sameBut [.dict, .flash, .free] s t) ∧
          (heldUp < 15000 → t.flash = { s.flash with keys := AMap.put [] s.flash.keys slot (leBytes 68 key.toNat), enroll := none } ∧ t.reg 0x1301 = 0x47) ∧
          (∀ i < 4, t.reg 0x1304 (4 * slot + i + 1) = field (shake256 32 (leBytes 68 key.toNat)) (8 * i) 8) ∧ t.reg 0x8008 = heldUp) ∧
        (us < 15000 → ∃ t, exec (.keyEnroll sid slot key us) s = .next t ∧ t.flash = { s.flash with enroll := none } ∧ t.reg 0x1301 = 0x47)) ∧
      (15000 ≤ us → us < 2 ^ 32 → 15000 ≤ heldUp → ∃ t, exec (.keyRevoke sid slot us) s = .next t ∧ t.enrolled slot = [] ∧
        (∀ i < 4, t.reg 0x1304 (4 * slot + i + 1) = 0) ∧ (∀ k < 4, k ≠ slot → t.enrolled k = s.enrolled k) ∧ State.sameBut [.dict, .flash, .free] s t) ∧
      (15000 ≤ us → us < 2 ^ 32 → heldUp < 15000 → ∃ t, exec (.keyRevoke sid slot us) s = .next t ∧ t.flash = { s.flash with keys := AMap.put [] s.flash.keys slot [], enroll := none } ∧
        t.reg 0x1302 = 0x47)) ∧
    (OwnerServed s sid → s.windowOpen = false → ∀ slot key us, exec (.keyEnroll sid slot key us) s = .next s ∧ exec (.keyRevoke sid slot us) s = .next s) ∧
    (OwnerServed s sid → exec (.enrollClose sid) s = .next ((s.apply (.reg (regKey 0x1300 0) 0)).apply (.reg (regKey 0x1303 0) 0))) ∧
    (s.mcore 0 = 0 → ∃ t, exec .enrollRelease s = .next t ∧ t.windowOpen = false ∧ bit (t.reg 0x1020) 3 = false ∧ State.sameBut [.dict] s t) ∧
    (s.mcore 0 = 0 → s.boot.doneAt ≠ 0 → s.windowOpen = true → ∃ t, exec .enrollWindowTimeout s = .next t ∧ t.windowOpen = false ∧
      t.now = max s.now (s.boot.doneAt - 1 + 600000000000) ∧ State.sameBut [.now, .dict] s t) ∧
    (OwnerServed s sid → s.flash.commit = none → ∀ (off : Nat) (bs : List Byte), bs.length ≤ 8192 → off + bs.length ≤ 48 * 2 ^ 20 →
      ∃ t, exec (.fwStage sid off bs) s = .next t ∧ Mem.read t.hbm (stageAddr off) bs.length = bs ∧
        (∀ a, a < stageAddr off ∨ stageAddr off + bs.length ≤ a → Mem.byte t.hbm a = Mem.byte s.hbm a) ∧ t.reg 0x8007 = 1 ∧ t.reg 0x8004 = 0 ∧ State.sameBut [.dict, .hbm] s t) ∧
    (OwnerServed s sid → s.flash.commit = none → s.mcore 0 = 0 → ∀ d : BitVec 256,
      (shake256 32 (stagedImage s) = leBytes 32 d.toNat → imageGood s (stagedImage s) = true →
        ∃ t, exec (.fwCommit sid d) s = .next t ∧ t.flash.commit = some (leBytes 32 d.toNat) ∧ AMap.get none t.flash.image (1 - s.flash.running) = some [] ∧
          t.flash.record = s.flash.record ∧ t.reg 0x8007 = 3 ∧ AMap.get [] t.cmds 0x8005 = AMap.get [] s.cmds 0x8005 ++ [sid]) ∧
      (shake256 32 (stagedImage s) ≠ leBytes 32 d.toNat ∨ imageGood s (stagedImage s) = false →
        ∃ t, exec (.fwCommit sid d) s = .next t ∧ t.flash = { s.flash with commit := none } ∧ t.reg 0x8005 = 0x43)) ∧
    (∀ d, s.flash.commit = some d → s.mcore 0 = 0 → s.reg 0x8007 = 3 → ∃ t, exec (.fwCommitDone .erased) s = .next t ∧ t.reg 0x8007 = 4 ∧ State.sameBut [.dict] s t) ∧
    (∀ d n us us', s.flash.commit = some d → s.mcore 0 = 0 → s.reg 0x8007 = 4 →
      (15000 ≤ us → 15000 ≤ us' → s.flash.running ≤ 1 → shake256 32 (stagedImage s) = d →
        ∃ t, exec (.fwCommitDone (.programmed n us us')) s = .next t ∧ AMap.get none t.flash.image (1 - s.flash.running) = some (stagedImage s) ∧
          t.flash.record = { s.flash.record with seq := (s.flash.record.seq + 1) % 2 ^ 32, active := 1 - s.flash.running, trial := true, tries := 0 } ∧
          t.flash.copy = 1 - s.flash.copy ∧ AMap.get none t.flash.boot t.flash.copy = some (recordBytes t.flash.record) ∧
          t.flash.commit = none ∧ t.reg 0x8007 = 5 ∧ t.reg 0x8005 = 0 ∧ t.reg 0x8000 = 1 - s.flash.running ∧ t.reg 0x8002 = 1) ∧
      (us < 15000 → ∃ t, exec (.fwCommitDone (.programmed n us us')) s = .next t ∧ t.reg 0x8007 = 0 ∧ t.reg 0x8005 = 0x47 ∧
        t.flash = { s.flash with commit := none, image := AMap.put none s.flash.image (1 - s.flash.running) (some ((stagedImage s).take (256 * n))) }) ∧
      (15000 ≤ us → shake256 32 (stagedImage s) = d → us' < 15000 → ∃ t, exec (.fwCommitDone (.programmed n us us')) s = .next t ∧ t.reg 0x8007 = 0 ∧ t.reg 0x8005 = 0x47 ∧
        t.flash = { s.flash with commit := none, image := AMap.put none s.flash.image (1 - s.flash.running) (some (stagedImage s)) }) ∧
      (15000 ≤ us → shake256 32 (stagedImage s) ≠ d → ∃ t, exec (.fwCommitDone (.programmed n us us')) s = .next t ∧ t.reg 0x8007 = 0 ∧
        t.flash = { s.flash with commit := none, image := AMap.put none s.flash.image (1 - s.flash.running) (some (stagedImage s)) })) ∧
    (OwnerServed s sid → s.mcore 0 = 0 →
      (15000 ≤ (Config.free s.free).toNat % 2 ^ 32 → ∃ t, exec (.fwConfirm sid) s = .next t ∧ t.flash.record.trial = false ∧
        t.flash.record.minVersion = max s.flash.record.minVersion (slotMinimum s s.flash.running) ∧ t.reg 0x8002 = 0 ∧ t.reg 0x8006 = 0) ∧
      ((Config.free s.free).toNat % 2 ^ 32 < 15000 → ∃ t, exec (.fwConfirm sid) s = .next t ∧ t.flash = s.flash ∧ t.reg 0x8006 = 0x47)) ∧
    (OwnerServed s sid → s.mcore 0 ≠ 0 → ∃ t, exec (.fwConfirm sid) s = .next t ∧ t.flash = { s.flash with confirm := true } ∧ AMap.get [] t.cmds 0x8006 = AMap.get [] s.cmds 0x8006 ++ [sid] ∧
      State.sameBut [.flash, .cmds] s t)

/-- The marionette complex and its log (R309 to R321). -/
def Obligations.MarionetteCores : Prop :=
  ∀ s : State,
    (∀ a b req, a ≤ 5 → b ≤ 5 → s.mcore a = 0 →
      (s.mcore b = 0 → ∃ t, exec (.mailboxRequest a b req) s = .next t ∧ AMap.get none t.mcores.taken b = some (a, req) ∧ AMap.get [] t.mcores.mail b = [] ∧ State.sameBut [.mcores] s t) ∧
      (s.mcore b ≠ 0 → ∃ t, exec (.mailboxRequest a b req) s = .next t ∧ AMap.get [] t.mcores.mail b = AMap.get [] s.mcores.mail b ++ [(a, req)] ∧
        t.mcores.taken = s.mcores.taken ∧ State.sameBut [.mcores] s t)) ∧
    (∀ m ≤ 5, s.mcore m = 0 → ∀ c ∈ [(Instr.watchdogTimeout m, 0), (.mcoreTrap m, 1)],
      (((AMap.get [] s.mcores.history m).filter fun u => u + 60000000000 > s.now).length < 3 → ∃ t, exec c.1 s = .next t ∧ t.mcore m = 1 ∧
        t.reg 0x8011 (m + 1) = elt 0x8011 (m + 1) (s.reg 0x8011 (m + 1) + 1) ∧ AMap.get 0 t.mcores.cause m = c.2 ∧ AMap.get 0 t.mcores.stopAt m = s.waferTime ∧
        State.sameBut (.mcores :: logParts) s t) ∧
      (3 ≤ ((AMap.get [] s.mcores.history m).filter fun u => u + 60000000000 > s.now).length → ∃ t, exec c.1 s = .next t ∧ t.mcore m = 2 ∧
        t.reg 0x8011 (m + 1) = s.reg 0x8011 (m + 1))) ∧
    (∀ m ≤ 5, s.mcore m ≠ 0 → exec (.watchdogTimeout m) s = .next s ∧ exec (.mcoreTrap m) s = .next s) ∧
    (∀ sid m, OwnerServed s sid → m ≤ 5 →
      (s.mcore m = 2 → ∃ t, exec (.mcoreRestart sid m) s = .next t ∧ t.mcore m = 1 ∧ AMap.get [] t.mcores.history m = [] ∧
        t.reg 0x8011 (m + 1) = elt 0x8011 (m + 1) (s.reg 0x8011 (m + 1) + 1) ∧ t.reg 0x8012 = 0 ∧ State.sameBut [.dict, .mcores] s t) ∧
      (s.mcore m = 0 → AMap.get [] s.mcores.history m = [] → ∃ t, exec (.mcoreRestart sid m) s = .next t ∧ t.mcore m = 1 ∧ AMap.get 0 t.mcores.cause m = 2)) ∧
    (∀ m ≤ 5, s.mcore m = 1 → segmentGood s m = true → s.flash.commit = none → s.flash.enroll = none → s.flash.confirm = false → s.load = Load.none → s.power.waiting = [] →
      ∃ t, exec (.mcoreServiceResume m) s = .next t ∧ t.mcore m = 0 ∧ AMap.get [] t.deferred m = [] ∧ AMap.get [] t.mcores.mail m = [] ∧
        (∀ r, (AMap.get [] s.mcores.mail m).getLast? = some r → AMap.get none t.mcores.taken m = some r)) ∧
    (∀ m ≤ 5, s.mcore m = 1 → segmentGood s m = false → exec (.mcoreServiceResume m) s = .next s) ∧
    (∀ (src code sev : Nat) (bs : List Byte), validSrc src = true → (src ≤ 5 → s.mcore src = 0) → code ≠ 0xF0 →
      (s.reg 0x8020 ≤ sev → s.reg 0x8023 + 1 < 2 ^ 64 → ∃ t, exec (.logAppend src code sev bs) s = .next t ∧ t.reg 0x8023 = s.reg 0x8023 + 1 ∧
        Mem.read t.sm (logAddr (s.reg 0x8023 + 1)) 64 = logEntry (s.reg 0x8023 + 1) s.waferTime code sev src bs ∧
        (∀ a, a < logAddr (s.reg 0x8023 + 1) ∨ logAddr (s.reg 0x8023 + 1) + 64 ≤ a → Mem.byte t.sm a = Mem.byte s.sm a) ∧
        (2 ≤ sev → s.testMode = false → t.console = s.console.put s.now (logLine (s.reg 0x8023 + 1) s.waferTime code sev src bs)) ∧ State.sameBut logParts s t) ∧
      (sev < s.reg 0x8020 → exec (.logAppend src code sev bs) s = .next s)) ∧
    (∀ (src code sev : Nat) (bs : List Byte), src ≤ 5 → s.mcore src ≠ 0 → exec (.logAppend src code sev bs) s = .next s)

namespace Sys2Proof.Machine

/-- A datagram of session i reaches its protocol: the port takes it in, the protocol is served, the session is live; nothing waits in its backlog. -/
def Reaches (csp : Bool) (s : State) (rx : Rx) (i : Nat) : Prop :=
  rx.path.port ≤ 1 ∧ s.served csp = true ∧ Admits s rx.path.port ∧ Quiet s ∧ (if csp then s.cspSid rx.sid else s.colSid rx.sid) = some i ∧ (s.session csp i).backlog = []

/-- Its sequenced message is the next in order (R290). -/
def InOrder (csp : Bool) (s : State) (rx : Rx) (i : Nat) : Prop := Reaches csp s rx i ∧ rx.seq = ((s.session csp i).rxSeq + 1) % 2 ^ 32

/-- The session after a datagram: its path, and the window without what was acknowledged (R289 to R291). -/
def Session.touched (x : Session) (rx : Rx) (now : Nat) : Session :=
  { x with paths := AMap.put none x.paths rx.path.port (some (rx.path.addr, rx.path.udp)), cur := rx.path.port, lastRx := now,
           inflight := x.inflight.filter fun m => !serialLe m.seq rx.ack }

/-- The session after a message in order: an acknowledgement is due within 200 us (R290). -/
def Session.accepted (x : Session) (rx : Rx) (now : Nat) : Session := { x.touched rx now with rxSeq := rx.seq, ackDue := x.ackDue.or (some (now + 200000)) }

/-- The session after it has sent one more message while its window had room (R290). -/
def Session.sends (x : Session) (now typ flags : Nat) (payload : List Byte) : Session :=
  { x with txSeq := (x.txSeq + 1) % 2 ^ 32, ackDue := none, inflight := x.inflight ++ [⟨(x.txSeq + 1) % 2 ^ 32, typ, flags, payload, 0, 0, now⟩] }

/-- The session after a response that is kept for a duplicate of its request (R290). -/
def Session.responds (x : Session) (now reqSeq typ flags : Nat) (payload : List Byte) : Session :=
  { x with responses := ((reqSeq, typ * 2 ^ 40 + flags * 2 ^ 32 + (x.txSeq + 1 + x.backlog.length) % 2 ^ 32, payload) :: x.responses).take 256 }.sends now typ flags payload

/-- A session just opened at an index: the next generation, the path OPEN came on, OPEN being the client's message 1 (R286, R288). -/
def Session.opened (x : Session) (path : Path) (features level now : Nat) : Session :=
  { Session.closed with live := true, gen := x.gen % 65535 + 1, features := features, level := level, paths := [(path.port, some (path.addr, path.udp))], cur := path.port, lastRx := now, rxSeq := 1 }

/-- The state when a message in order has been accepted. -/
def State.hears (s : State) (csp : Bool) (i : Nat) (rx : Rx) : State :=
  let put (s : State) (x : Session) : State := s.apply (if csp then .csp i x else .col i x)
  put (put s ((s.session csp i).touched rx s.now)) ((s.session csp i).accepted rx s.now)

/-- The window has room for one more message once the acknowledged ones have left it. -/
def Room (csp : Bool) (s : State) (rx : Rx) (i : Nat) : Prop := ((s.session csp i).touched rx s.now).inflight.length < 256

/-- The parts a sent message touches. -/
def sendParts : List Part := [.col, .csp, .wire, .ports]

end Sys2Proof.Machine

/-- Sessions (R286 to R291, R297, R307). -/
def Obligations.ColSessions : Prop :=
  ∀ s : State,
    (∀ (path : Path) (version : BitVec 16) (features : BitVec 64) (level : Nat), path.port ≤ 1 → s.served false = true → Admits s path.port → Quiet s → reopened s false path = none →
      (∀ i, version.toNat / 256 = 1 → ((List.range 16).find? fun i => !(s.session false i).live) = some i →
        ∃ t, exec (.colOpen path version features level) s = .next t ∧
          t.session false i = ((s.session false i).opened path (features.toNat &&& deviceFeatures) level s.now).sends s.now 2 0 (openOk (features.toNat &&& deviceFeatures)) ∧
          (∀ j, j ≠ i → t.session false j = s.session false j) ∧ State.sameBut [.dict, .col, .wire, .ports] s t ∧ regsBut s t [0x1421]) ∧
      (version.toNat / 256 ≠ 1 → exec (.colOpen path version features level) s =
        .next (s.apply (.sent ⟨path.port, path.addr, path.udp, 0xC0, 5, 0, 0, 0, 0, [1]⟩)))) ∧
    (∀ (rx : Rx) (i : Nat), InOrder false s rx i → rx.sid ≠ 0 → ∃ t, exec (.colClose rx) s = .next t ∧ (t.session false i).live = false ∧
      (t.session false i).gen = (s.session false i).gen ∧ t.owner.sid ≠ rx.sid ∧ (∀ c ∈ t.owner.claims, c.1 ≠ rx.sid) ∧ (s.owner.sid ≠ rx.sid → t.owner.sid = s.owner.sid)) ∧
    (∀ (rx : Rx) (i : Nat), Reaches false s rx i → exec (.colAck rx) s = .next (s.apply (.col i ((s.session false i).touched rx s.now)))) ∧
    (∀ (rx : Rx) (i : Nat) (nonce : BitVec 256), InOrder false s rx i → Room false s rx i → ∃ t, exec (.measure rx nonce) s = .next t ∧
      t.session false i = ((s.session false i).accepted rx s.now).responds s.now rx.seq 0x32 0 (report s (leBytes 32 nonce.toNat)) ∧ State.sameBut sendParts s t) ∧
    (∀ (csp : Bool) (e i : Nat) (m : SentMsg), e ≤ 1 → Quiet s → s.portUp e = true → s.portUp (1 - e) = true → s.served csp = true → i < sessionsMax csp →
      (let x := s.session csp i
       x.usable = true → x.cur = e → (AMap.get none x.paths (1 - e)).isSome = true → x.inflight = [m] →
        ∃ t, exec (.portDown e) s = .next t ∧ t.session csp i = { x with cur := 1 - e, inflight := [{ m with retx := m.retx + 1, onPath := 1, sent := s.now }] })) ∧
    (∀ (csp : Bool) (sid i : Nat), (if csp then s.cspSid sid else s.colSid sid) = some i → s.served csp = true → Quiet s →
      (∀ m : SentMsg, ((s.session csp i).inflight.find? fun y => y.seq == m.seq) = some m → m.onPath = 0 →
        ∃ t, exec (.retransmitTimeout csp sid m.seq) s = .next t ∧ t.now = max s.now (m.sent + min (2000000 * 2 ^ m.retx) 64000000) ∧
          t.session csp i = { s.session csp i with inflight := (s.session csp i).inflight.map fun y =>
            if y.seq == m.seq then { y with retx := y.retx + 1, onPath := y.onPath + 1, sent := t.now } else y } ∧ State.sameBut (.now :: sendParts) s t) ∧
      (∀ due, (s.session csp i).ackDue = some due → ∃ t, exec (.ackTimer csp sid) s = .next t ∧ t.now = max s.now due ∧
        t.session csp i = { s.session csp i with ackDue := none } ∧ State.sameBut (.now :: sendParts) s t) ∧
      (s.damaged = [] → ∃ t, exec (.sessionTimeout csp sid) s = .next t ∧ (t.session csp i).live = false ∧ (t.session csp i).gen = (s.session csp i).gen ∧
        t.now = max s.now ((s.session csp i).lastRx + s.reg 0x1408 * 1000000)))

/-- The dictionary on COL (R12, R14, R292 to R294). -/
def Obligations.DictionaryAccess : Prop :=
  ∀ (s : State) (rx : Rx) (i tag : Nat), InOrder false s rx i → Room false s rx i →
    (∀ e : ReadEntry, e.idx ≠ 0x8022 → e.idx ≠ 0x600C → (e.idx = 0x5011 → s.damaged = []) → 12 ≤ respRoom (s.hears false i rx) i →
      ∃ t, exec (.colRead rx tag [e]) s = .next t ∧ State.sameBut sendParts s t ∧
        t.session false i = ((s.session false i).accepted rx s.now).responds s.now rx.seq 0x12 0 (respBody tag 1 (respEntry e.idx e.sub (readAnswer (s.hears false i rx) i e).1
          (readAnswer (s.hears false i rx) i e).2.1 (cutTo (respRoom (s.hears false i rx) i - 12) (readAnswer (s.hears false i rx) i e).2.2)))) ∧
    (∀ es : List ReadEntry, 1 ≤ es.length → es.length ≤ 32 → ∃ t w p, exec (.colRead rx tag es) s = .next t ∧ (t.session false i).responses.head? = some (rx.seq, w, p)) ∧
    (∀ (idx n : Nat) (r : RegRow), dictRow? idx = some r → r.kind = .num → entryFeature idx = none → idx ∉ [0x1101, 0x1202, 0x3001, 0x3002, 0x6005, 0x600B, 0x8021] →
      readAnswer s i ⟨idx, 0, 0, n⟩ = (.ok, r.bytes, (leBytes r.bytes (s.reg idx)).take n)) ∧
    (∀ (e : WriteEntry) (r : RegRow), 4 ≤ s.reg 0x4002 → s.reg 0x4000 ≠ 3 → s.owns rx.sid = false →
      visibleRow (s.session false i).features e.idx e.sub = some r → (r.access = .ro ∨ r.access = .rwo ∨ r.access = .cmd) →
      ∃ t, exec (.colWrite rx tag [e]) s = .next t ∧ t.dict = s.dict ∧ State.sameBut sendParts s t ∧
        t.session false i = ((s.session false i).accepted rx s.now).responds s.now rx.seq 0x12 0 (respBody tag 1 (respEntry e.idx e.sub .notOwner 0 []))) ∧
    (∀ (e : WriteEntry) (r : RegRow), 4 ≤ s.reg 0x4002 → s.reg 0x4000 ≠ 3 → s.owns rx.sid = false →
      visibleRow (s.session false i).features e.idx e.sub = some r → (r.access = .ro ∨ r.access = .rwo ∨ r.access = .cmd) →
      exec (.dictWrite rx.sid e.idx e.sub e.value) s = .next s) ∧
    (∀ (idx : Nat) (v : List Byte) (r : RegRow), 4 ≤ s.reg 0x4002 → s.reg 0x4000 ≠ 3 → s.owns rx.sid = true → visibleRow (s.session false i).features idx 0 = some r →
      r.access = .rwo → r.kind = .num → idx ∉ [0x1401, 0x1402, 0x1407, 0x1408, 0x1410, 0x2000, 0x3007, 0x3802, 0x3884, 0x6000, 0x6001, 0x6002, 0x6007, 0x6008, 0x600A, 0x7008, 0x9020] →
      (v.length = r.bytes → exec (.dictWrite rx.sid idx 0 v) s = .next (s.apply (.reg (regKey idx 0) (leNat v)))) ∧
      (v.length ≠ r.bytes → exec (.dictWrite rx.sid idx 0 v) s = .next s) ∧
      (v.length = r.bytes → ∃ t, exec (.colWrite rx tag [⟨idx, 0, v⟩]) s = .next t ∧ t.reg idx = elt idx 0 (leNat v) ∧ regsBut s t [idx] ∧ State.sameBut (.dict :: sendParts) s t ∧
        t.session false i = ((s.session false i).accepted rx s.now).responds s.now rx.seq 0x12 0 (respBody tag 1 (respEntry idx 0 .ok 0 [])))) ∧
    (4 ≤ s.reg 0x4002 → s.reg 0x4000 ≠ 3 → s.owns rx.sid = true →
      ∃ t, exec (.colWrite rx tag [⟨0x3893, 0, []⟩]) s = .next t ∧ t.thermal = { s.thermal with baseline := 0 } ∧
        AMap.get [] t.cmds 0x3893 = AMap.get [] s.cmds 0x3893 ++ [rx.sid] ∧
        t.session false i = ((s.session false i).accepted rx s.now).responds s.now rx.seq 0x12 2 (respBody tag 1 (respEntry 0x3893 0 .later 0 [])))

/-- Ownership (R295, R296). -/
def Obligations.Ownership : Prop :=
  ∀ (s : State) (rx : Rx) (i : Nat), InOrder false s rx i → rx.sid ≠ 0 →
    (∀ rank ≤ 254,
      (s.owner.sid = 0 → ∃ t w, exec (.claim rx rank) s = .next t ∧ t.owner = ⟨rx.sid, rank, s.now + 2000000000, s.owner.claims.filter fun c => c.1 != rx.sid⟩ ∧
        t.reg 0x1200 = rx.sid ∧ t.reg 0x1201 = rank ∧ t.reg 0x1204 = elt 0x1204 0 (s.reg 0x1204 + 1) ∧ (t.session false i).responses.head? = some (rx.seq, w, [0, 0])) ∧
      (s.owner.sid = rx.sid → ∃ t w, exec (.claim rx rank) s = .next t ∧ t.owner = { s.owner with rank := rank } ∧ t.reg 0x1201 = rank ∧
        (t.session false i).responses.head? = some (rx.seq, w, [0, 0])) ∧
      (s.owner.sid ≠ 0 → s.owner.sid ≠ rx.sid → ∃ t w, exec (.claim rx rank) s = .next t ∧
        t.owner = { s.owner with claims := (s.owner.claims.filter fun c => c.1 != rx.sid) ++ [(rx.sid, rank)] } ∧
        (t.session false i).responses.head? = some (rx.seq, w, [1, BitVec.ofNat 8 (t.owner.claims.countP fun c => c.2 ≤ rank)]))) ∧
    (s.owner.sid = rx.sid → s.now ≤ s.owner.leaseEnd → ∃ t, exec (.heartbeat rx) s = .next t ∧ t.owner = { s.owner with leaseEnd := s.now + 2000000000 } ∧
      State.sameBut [.owner, .col] s t) ∧
    (s.owner.sid ≠ rx.sid → ∃ t, exec (.heartbeat rx) s = .next t ∧ State.sameBut [.col] s t) ∧
    (∀ target : Nat, s.owner.sid = rx.sid →
      (∀ c, (s.owner.claims.find? fun c => c.1 == target) = some c → target ≠ 0 → ∃ t, exec (.handover rx target) s = .next t ∧
        t.owner = ⟨target, c.2, s.now + 2000000000, s.owner.claims.filter fun c => c.1 != target⟩) ∧
      ((∀ c ∈ s.owner.claims, c.1 ≠ target) → ∃ t w, exec (.handover rx target) s = .next t ∧ t.owner = s.owner ∧
        (t.session false i).responses.head? = some (rx.seq, w, respBody 0 1 (respEntry 0x1200 0 (.refuse 3) 0 [])))) ∧
    (∀ target : Nat, s.owner.sid ≠ rx.sid → ∃ t w, exec (.handover rx target) s = .next t ∧ t.owner = s.owner ∧ t.dict = s.dict ∧
      (t.session false i).responses.head? = some (rx.seq, w, respBody 0 1 (respEntry 0x1200 0 .notOwner 0 []))) ∧
    (∀ (cs : List (Nat × Nat)) (c : Nat × Nat), bestClaim cs = some c ↔ ∃ before after, cs = before ++ c :: after ∧ (∀ d ∈ before, c.2 < d.2) ∧ ∀ d ∈ after, c.2 ≤ d.2) ∧
    (∀ c ∈ [Instr.release rx, .unclaim rx], s.owner.sid = rx.sid → ∃ t, exec c s = .next t ∧
      (∀ d, bestClaim s.owner.claims = some d → d.1 ≠ 0 → t.owner = ⟨d.1, d.2, s.now + 2000000000, s.owner.claims.filter fun c => c.1 != d.1⟩) ∧
      (s.owner.claims = [] → t.owner = Owner.none)) ∧
    (s.owner.sid ≠ rx.sid → ∃ t, exec (.unclaim rx) s = .next t ∧ t.owner = { s.owner with claims := s.owner.claims.filter fun c => c.1 != rx.sid }) ∧
    (s.mcore 4 = 0 → s.owner.sid ≠ 0 → ∃ t, exec .leaseExpiry s = .next t ∧ t.now = max s.now s.owner.leaseEnd ∧
      (∀ d, bestClaim s.owner.claims = some d → d.1 ≠ 0 → t.owner = ⟨d.1, d.2, t.now + 2000000000, s.owner.claims.filter fun c => c.1 != d.1⟩) ∧
      (s.owner.claims = [] → t.owner = Owner.none))

/-- Requests of clients (R298 to R301, R231). -/
def Obligations.CspSessions : Prop :=
  ∀ s : State,
    (∀ (path : Path) (version : BitVec 16) (features : BitVec 64) (i : Nat), path.port ≤ 1 → s.served true = true → Admits s path.port → Quiet s → reopened s true path = none →
      version.toNat / 256 = 1 → ((List.range 1024).find? fun i => !(s.session true i).live) = some i →
      ∃ t, exec (.cspOpen path version features) s = .next t ∧
        t.session true i = ((s.session true i).opened path (features.toNat &&& deviceFeatures) 0 s.now).sends s.now 2 0 (openOk (features.toNat &&& deviceFeatures)) ∧
        State.sameBut [.dict, .csp, .wire, .ports] s t) ∧
    (∀ (rx : Rx) (i : Nat), InOrder true s rx i → (∀ m ∈ (s.session true i).inflight, serialLe m.seq rx.ack = false) →
      (s.entries = [] → s.damaged = [] → ∃ t, exec (.cspClose rx) s = .next t ∧ (t.session true i).live = false ∧ (t.session true i).gen = (s.session true i).gen ∧ (∀ p ∈ t.serving.parts, p.session ≠ i) ∧ (∀ r ∈ t.serving.outbox, field r 0 2 ≠ i)) ∧
      (∀ (m : ReqMsg) (a n : Nat), s.inGroup = false → s.part i (m.tag % 2 ^ 32) = none → s.entryOf i (m.tag % 2 ^ 32) = none → s.ringTag i (m.tag % 2 ^ 32) = false →
        1 ≤ m.prompt → m.prompt < 2 ^ 32 → m.offset = 0 → m.ids.length = m.prompt → s.poolFit poolPrompt (promptRun m.prompt) promptUnits = some a →
        findFrom (fun n => AMap.get 0 s.serving.ring (n % 16384) == 0) 16384 (ringProd s 0) = some n →
        s.damaged = [] → ∃ t, exec (.request rx m) s = .next t ∧ AMap.get 0 t.serving.ring (n % 16384) = 1 ∧ t.serving.parts = s.serving.parts ∧
          Mem.read t.sm (requestAddr n) 64 = reqHead m ++ leBytes 2 i ++ leBytes 1 rx.path.port ++ leBytes 1 0 ++ leBytes 4 a ++ leBytes 24 0 ∧
          Mem.read t.sm (promptAddr a) (4 * m.prompt) = m.ids.flatMap (leBytes 4) ∧ ringProd t 0 = (n + 1) % 2 ^ 32) ∧
      (∀ m : ReqMsg, s.inGroup = false → s.part i (m.tag % 2 ^ 32) = none → (s.entryOf i (m.tag % 2 ^ 32)).isSome = true → Room true s rx i →
        s.damaged = [] → ∃ t, exec (.request rx m) s = .next t ∧ t.serving = s.serving ∧
          t.session true i = ((s.session true i).accepted rx s.now).sends s.now 0x20 0 (statusBody (m.tag % 2 ^ 32) 0x10 6 0 0)) ∧
      (∀ tag, s.entryOf i (tag % 2 ^ 32) = none → s.damaged = [] → ∃ t, exec (.cancel rx tag) s = .next t ∧ t.reg 0x5016 = elt 0x5016 0 (s.reg 0x5016 + 1)) ∧
      (∀ tag e, s.entryOf i (tag % 2 ^ 32) = some e → e < 16384 → s.est e = stQueued → cDone (s.ctrl e) = false → cDiscard (s.ctrl e) = false → s.plist e = 0 → (s.req e).leadPages = [] →
        s.damaged = [] → ∃ t, exec (.cancel rx tag) s = .next t ∧ t.est e = stRetired ∧ cTerm (t.ctrl e) = 0x20 ∧ cDiscard (t.ctrl e) = true ∧ t.reg 0x5013 7 = elt 0x5013 7 (s.reg 0x5013 7 + 1))) ∧
    (∀ (rx : Rx) (i : Nat) (m : SentMsg) (e : Nat), Reaches true s rx i → (s.session true i).inflight = [m] → serialLe m.seq rx.ack = true → m.typ = 0x20 →
      terminalCode (field m.payload 4 1) = true → s.entryOf i (field m.payload 0 4) = some e → e < 16384 → s.est e = stRetired → (s.session true i).backlog = [] →
      (field m.payload 4 1 = cTerm (s.ctrl e) → field m.payload 5 1 = (s.req e).detail → s.serving.outbox = [] → ringUsed s 1 = 0 →
        s.damaged = [] → ∃ t, exec (.cspAck rx) s = .next t ∧ t.est e = stFree ∧ t.req e = Req.none ∧ (t.session true i).inflight = []) ∧
      (field m.payload 4 1 ≠ cTerm (s.ctrl e) ∨ field m.payload 5 1 ≠ (s.req e).detail →
        s.damaged = [] → ∃ t, exec (.cspAck rx) s = .next t ∧ t.est e = stRetired ∧ t.serving = s.serving ∧ (t.session true i).inflight = [])) ∧
    (∀ (sid i tag : Nat) (p : Partial), s.cspSid sid = some i → s.part i tag = some p → (s.session true i).inflight.length < 256 →
      ∃ t, exec (.requestAssemblyTimeout sid tag) s = .next t ∧ t.now = max s.now (p.first + 1000000000) ∧ t.part i tag = none ∧
        t.session true i = (s.session true i).sends t.now 0x20 0 (statusBody tag 0x10 4 0 0))

/-- Loading and the image channel (R206 to R215, R254, R303). -/
def Obligations.Loading : Prop :=
  ∀ (s : State) (sid : Nat),
    (OwnerServed s sid → ∀ (slot : Nat) (d : BitVec 256) (sources : Nat) (links : BitVec 32), slot ≤ 2 →
      (s.load.op = 0 → (slot < 2 → (s.model slot).held = false) → (∀ i ≤ 2, (s.model i).held = true → (s.model i).digest ≠ leBytes 32 d.toNat) →
        s.mcore 0 = 0 → s.xfer ((s.image.xid + 1) % 2 ^ 32) = none →
        ∃ t, exec (.load sid slot d sources links) s = .next t ∧ t.load.op = 1 ∧ t.load.slot = slot ∧ t.load.sources = sources ∧ t.load.links = links.toNat ∧
          t.load.cand.digest = leBytes 32 d.toNat ∧ t.reg 0xA003 = 1 ∧ t.reg 0xA005 = 0 ∧ AMap.get [] t.cmds 0xA000 = AMap.get [] s.cmds 0xA000 ++ [sid] ∧
          (∃ x, t.xfer ((s.image.xid + 1) % 2 ^ 32) = some x ∧ x.kind = 0 ∧ x.digest = leBytes 32 d.toNat ∧ x.first = s.now)) ∧
      (s.load.op ≠ 0 → exec (.load sid slot d sources links) s = .next (s.apply (.reg (regKey 0xA000 0) 0x41)))) ∧
    (OwnerServed s sid → s.load.op = 0 → ∀ slot ≤ 1,
      ((s.model slot).held = true → s.damaged = [] → ∃ t, exec (.unload sid slot) s = .next t ∧ t.load.op = 2 ∧ t.load.slot = slot ∧ t.model slot = { s.model slot with draining := true } ∧
        t.reg 0xA003 = 6 ∧ AMap.get [] t.cmds 0xA001 = AMap.get [] s.cmds 0xA001 ++ [sid]) ∧
      ((s.model slot).held = false → s.damaged = [] → exec (.unload sid slot) s = .next (s.apply (.reg (regKey 0xA001 0) 0)))) ∧
    (OwnerServed s sid → s.load.op = 0 → (s.model 2).held = true → (s.model 0).held = true →
      s.damaged = [] → ∃ t, exec (.swap sid) s = .next t ∧ t.load.op = 3 ∧ (t.model 0).draining = true ∧ t.model 2 = s.model 2 ∧ AMap.get [] t.cmds 0xA002 = AMap.get [] s.cmds 0xA002 ++ [sid]) ∧
    (∀ slot ≤ 1, s.mcore 0 = 0 → s.load.op = 2 → s.load.slot = slot → (s.model slot).held = true → (s.model slot).draining = true → drained s slot = true → ∀ e, stopEdge s = some e →
      s.damaged = [] → ∃ t, exec (.drainEnd slot) s = .next t ∧ t.now = max s.now (edgeTime s e) ∧ t.model slot = Model.none ∧ (slot = 0 → t.model 1 = Model.none ∨ t.model 1 = s.model 1) ∧ t.load = Load.none ∧ t.reg 0xA003 = 0 ∧ t.reg 0xA001 = 0) ∧
    (∀ slot ≤ 1, ∀ e, s.load.op = 1 → s.load.slot = slot → s.reg 0xA003 = 5 → startEdge s = some e →
      ∃ t, exec (.modelStart slot) s = .next t ∧ t.now = max s.now (edgeTime s e) ∧ t.model slot = { s.load.cand with startBeat := e, running := true, draining := false } ∧
        t.reg (0xA013 + slot) = elt (0xA013 + slot) 0 e ∧ t.load = Load.none ∧ t.reg 0xA003 = 0 ∧ t.reg 0xA000 = 0) ∧
    (∀ x : Xfer, oldestXfer s = some x → s.mcore 0 = 0 → x.kind = 2 → s.load.op = 1 →
      ∃ t, exec .shardTimeout s = .next t ∧ t.now = max s.now (x.first + 2000000000) ∧ t.load = Load.none ∧ t.reg 0xA004 = 0x44 * 2 ^ 56 + x.num % 2 ^ 32 ∧ t.reg 0xA000 = 0x44) ∧
    (OwnerServed s sid → ∀ (kind id len : Nat) (d : BitVec 256), kind ≤ 2 → id < tableIds kind → s.tables.loading = none → s.tableNamed kind id = false → 0 < len → len ≤ tableSize kind →
      ∃ t, exec (.tableLoad sid kind id len d) s = .next t ∧ t.tables = { s.tables with loading := some (kind, id, len, leBytes 32 d.toNat, s.now) } ∧
        AMap.get [] t.cmds 0x5500 = AMap.get [] s.cmds 0x5500 ++ [sid]) ∧
    (∀ kind id len d at_, s.tables.loading = some (kind, id, len, d, at_) → kind ≤ 2 → id < tableIds kind →
      ∃ t, exec .tableBodyTimeout s = .next t ∧ t.now = max s.now (at_ + 2000000000) ∧ t.tables = { s.tables with loading := none } ∧
        t.reg 0x5501 = 0x44 * 2 ^ 56 + kind * 2 ^ 48 + id * 2 ^ 32 ∧ t.reg 0x5500 = 0x44) ∧
    (∀ kind id at_, (s.tables.refetch.find? fun r => r.1 == kind && r.2.1 == id) = some (kind, id, at_) →
      s.damaged = [] → ∃ t, exec (.tableRefetchTimeout kind id) s = .next t ∧ t.now = max s.now (at_ + 2000000000) ∧ t.tableLoaded kind id = false ∧
        (∀ r ∈ t.tables.refetch, ¬ (r.1 = kind ∧ r.2.1 = id))) ∧
    (∀ (xid : Nat) (x : Xfer), s.xfer xid = some x → (2 < x.kind ∨ s.mcore 0 = 0) →
      ∃ t y, exec (.fetchRangeTimeout xid) s = .next t ∧ t.now = max s.now (x.last + 20000000) ∧ t.xfer xid = some y ∧ y.last = t.now ∧ y.runs = x.runs) ∧
    (∀ (p : Path) (xid off : Nat) (bs : List Byte) (x : Xfer), ImageIn s p → s.xfer xid = some x → s.fromSource x p = true → (2 < x.kind ∨ s.mcore 0 = 0) → bs.length ≤ 8192 →
      x.len ≠ 0 → off + bs.length ≤ x.len → off < x.len →
      (covers (addRange x.runs off (off + bs.length)) 0 x.len = false → s.damaged = [] → ∃ t y, exec (.data p xid off bs) s = .next t ∧ t.xfer xid = some y ∧
        y.runs = addRange x.runs off (off + bs.length) ∧ y.last = s.now ∧
        (x.kind = 2 → s.keepsShard x.num = true →
          Mem.read t.hbm (hbmAddr (shPort (shardEntry s.load.cand.manifest x.num)) (regionBase s.load.cand.region + shOff (shardEntry s.load.cand.manifest x.num) + off)) bs.length = bs)) ∧
      (∀ kind id len d at_, s.tables.loading = some (kind, id, len, d, at_) → kind ≤ 2 → id < tableIds kind → x.kind = 3 → x.num < 2 ^ 20 → x.runs = [] → off = 0 → bs.length = x.len →
        judgeTable s kind id d bs = (0, 0) → (shake256 32 bs).length = 32 →
        s.damaged = [] → ∃ t, exec (.data p xid off bs) s = .next t ∧ Mem.read t.sm (tableAddr kind id) bs.length = bs ∧ t.tableLoaded kind id = true ∧ t.tables.loading = none ∧ t.reg 0x5500 = 0)) ∧
    (∀ (p : Path) (xid : Nat), p.port ≤ 1 → s.portUp p.port = true → s.reg 0x1410 (p.port + 1) ≠ 0 →
      (∀ an < 2, (AMap.get MacAssoc.none s.ports.assoc (4 * p.port + 2 + an)).valid = false) → ∀ off bs, ∀ i ∈ [Instr.data p xid off bs, .notfound p xid],
      exec i s = .next (s.apply (.reg (regKey 0x1420 (p.port + 1)) (s.reg 0x1420 (p.port + 1) + 1)))) ∧
    (∀ (p : Path) (xid : Nat) (x : Xfer), ImageIn s p → s.xfer xid = some x → s.fromSource x p = true → (2 < x.kind ∨ s.mcore 0 = 0) → x.failed < 3 →
      s.xfer ((s.image.xid + 1) % 2 ^ 32) = none →
      s.damaged = [] → ∃ t y, exec (.notfound p xid) s = .next t ∧ t.xfer ((s.image.xid + 1) % 2 ^ 32) = some y ∧ y.kind = x.kind ∧ y.digest = x.digest ∧ y.failed = x.failed + 1 ∧
        y.tried = x.tried + 1 ∧ y.runs = [])

/-- Pausing, images and tenants (R173, R178, R234 to R238, R241, R304). -/
def Obligations.Pausing : Prop :=
  ∀ s : State,
    (∀ e < 16384, s.est e = stPaused → (s.req e).resuming = false → s.imgFlags e = 0 → s.inGroup = false ∨ s.groupMember = 0 →
      ∀ (pages : List (Nat × Nat)) (b : List Byte), pages = ((s.privatePages e).filter fun p => (s.dir false p.2).state == pgCold) → b = imageBytes s (Mem.read s.sm (cardA e) 64) (imageWords s e) pages →
      (pauseFit s (b.length / 64) = none → s.damaged = [] → exec (.pauseImageDone e) s = .next s) ∧
      (∀ st a, pauseFit s (b.length / 64) = some (st, a) → framesOld s pages = true → s.damaged = [] → ∃ t, exec (.pauseImageDone e) s = .next t ∧
        AMap.get [] t.serving.runs (poolPause st) = insertRun (a, b.length / 64) (AMap.get [] s.serving.runs (poolPause st)) ∧
        (pages = [] → Mem.read t.sm (listAddr s e) 64 = imageHeader (64 * a) st 1 (b.length / 64) (shake256 32 b) (s.req e).pausedAt ∧
          ((∀ i < b.length, ∀ j < 64, hbmAddr st (64 * a) + i ≠ historyAddr (256 * (s.hist e + s.epages e)) + j) → Mem.read t.hbm (hbmAddr st (64 * a)) b.length = b)))) ∧
    (∀ (e : Nat) (told : List Nat), e < 16384 → s.inGroup = true → s.groupMember ≠ 0 → AMap.get [] s.serving.memberPaused e = told → told ≠ [] →
      AMap.get none s.serving.memberImages e = none → (∀ w ∈ told.drop 16, bit w 7 = false) →
      ∀ b st a, b = imageBytes s ((told.take 16).flatMap (leBytes 4)) (told.drop 16) [] → pauseFit s (b.length / 64) = some (st, a) →
      s.damaged = [] → ∃ t, exec (.pauseImageDone e) s = .next t ∧ Mem.read t.hbm (hbmAddr st (64 * a)) b.length = b ∧
        AMap.get none t.serving.memberImages e = some ⟨st, 64 * a, b.length, 128 + 4 * (told.drop 16).length, []⟩ ∧ State.sameBut [.hbm, .serving] s t) ∧
    (∀ (lead : Bool) (f : Nat), s.smBad = [] →
      (AMap.get 0 s.serving.loading (pageKey lead f) ≠ 0 → AMap.get 0 s.serving.loading (pageKey lead f) ≤ s.takenOf lead + 1 →
        (∀ kv ∈ s.serving.fetchQ, ∀ d ∈ kv.2, d.1 ≠ pageKey lead f) → (s.dir lead f).refs ≠ 0 →
        ∃ t, exec (.pageReloadDone lead f) s = .next t ∧ AMap.get 0 t.serving.loading (pageKey lead f) = 0 ∧
          t.dir lead f = { s.dir lead f with state := if (s.dir lead f).state = pgLoading then pgFull else (s.dir lead f).state } ∧ State.sameBut [.sm, .serving] s t) ∧
      (AMap.get 0 s.serving.loading (pageKey lead f) = 0 ∨ s.takenOf lead + 1 < AMap.get 0 s.serving.loading (pageKey lead f) ∨
        (∃ kv ∈ s.serving.fetchQ, ∃ d ∈ kv.2, d.1 = pageKey lead f) → exec (.pageReloadDone lead f) s = .next s)) ∧
    (∀ sid, OwnerServed s sid → Featured s sid 4 → ∀ e < 16384, s.est e = stPaused → s.imageMoving e = false →
      ((s.req e).resuming = false → bit (s.imgFlags e) 0 = true → s.damaged = [] → ∃ t q, exec (.pauseExport sid e) s = .next t ∧
        t.image.pushes = s.image.pushes ++ [⟨(s.image.xid + 1) % 2 ^ 32, e, hbmAddr (s.imgStack e) (s.imgAddr e), 64 * s.imgRows e, 0, s.now, s.now, q⟩] ∧
        AMap.get [] t.cmds (cmdKey 0x5020 e) = AMap.get [] s.cmds (cmdKey 0x5020 e) ++ [sid] ∧ t.sm = s.sm ∧ t.hbm = s.hbm) ∧
      (bit (s.imgFlags e) 1 = true → s.xfer ((s.image.xid + 1) % 2 ^ 32) = none → s.damaged = [] → ∃ t x, exec (.pauseImport sid e) s = .next t ∧
        t.xfer ((s.image.xid + 1) % 2 ^ 32) = some x ∧ x.kind = 4 ∧ x.num = e ∧ x.digest = s.imgDigest e ∧ x.len = 64 * s.imgRows e ∧ x.runs = [] ∧
        AMap.get [] t.cmds (cmdKey 0x5021 e) = AMap.get [] s.cmds (cmdKey 0x5021 e) ++ [sid])) ∧
    (∀ (xid : Nat) (p : Push), s.push xid = some p →
      (∀ got, got = p.len → Admits s (p.port % 2) → Quiet s → p.entry < 16384 → 0x20000 ≤ s.plist p.entry → s.damaged = [] → ∃ t, exec (.pushAck xid got) s = .next t ∧ t.push xid = none ∧ t.reg 0x5020 = 0 ∧ t.imgFlags p.entry = 2 ∧
        AMap.get [] t.serving.runs (poolPause (s.imgStack p.entry)) = (AMap.get [] s.serving.runs (poolPause (s.imgStack p.entry))).filter fun r => r.1 != s.imgAddr p.entry / 64) ∧
      (∀ got, p.acked < got → got < p.len → Admits s (p.port % 2) → Quiet s → s.damaged = [] → ∃ t, exec (.pushAck xid got) s = .next t ∧ t.push xid = some { p with acked := got, sent := s.now, progress := s.now } ∧ State.sameBut [.image] s t) ∧
      (Quiet s → s.damaged = [] → ∃ t q, exec (.pushRetry xid) s = .next t ∧ t.now = max s.now (p.sent + 20000000) ∧ t.push xid = some { p with sent := t.now, port := q } ∧ State.sameBut [.now, .image, .wire, .ports] s t) ∧
      (s.damaged = [] → ∃ t, exec (.pushTimeout xid) s = .next t ∧ t.now = max s.now (p.progress + 2000000000) ∧ t.push xid = none ∧ t.reg 0x5020 = 0x44 ∧ t.sm = s.sm ∧ t.hbm = s.hbm ∧ t.serving = s.serving)) ∧
    (∀ sid, OwnerServed s sid → Featured s sid 3 → ∀ tenant : BitVec 16,
      (∀ salt : BitVec 128, (salt ≠ 0 → s.damaged = [] → ∃ t, exec (.tenantSaltSet sid tenant salt) s = .next t ∧ t.salt tenant.toNat = leBytes 16 salt.toNat ∧
          (∀ u < 65536, u ≠ tenant.toNat → t.salt u = s.salt u) ∧ t.reg 0x5420 = 0 ∧ State.sameBut [.sm, .dict] s t) ∧
        (salt = 0 → s.damaged = [] → exec (.tenantSaltSet sid tenant salt) s = .next s)) ∧
      (∀ ns, ns = (s.nodesWhere fun n => tenant.toNat == 0xFFFF || s.node n ndTenant 2 == tenant.toNat) →
        (ns = [] → s.damaged = [] → exec (.prefixFlush sid tenant) s = .next (s.apply (.reg (regKey 0x5422 0) 0))) ∧
        ((∀ n ∈ ns, (s.dir false (s.node n ndPage 4)).refs ≠ 0 ∨ AMap.get 0 s.serving.loading (pageKey false (s.node n ndPage 4)) ≠ 0) → s.damaged = [] → ∃ t, exec (.prefixFlush sid tenant) s = .next t ∧ (∀ n ∈ ns, n ∈ t.serving.flushing) ∧ State.sameBut [.dict, .serving] s t) ∧
        (∀ n, ns = [n] → (s.dir false (s.node n ndPage 4)).refs = 0 → AMap.get 0 s.serving.loading (pageKey false (s.node n ndPage 4)) = 0 → s.smBad = [] → ∃ t, exec (.prefixFlush sid tenant) s = .next t ∧ t.nodeLive n = false ∧ t.reg 0x5410 = elt 0x5410 0 (s.reg 0x5410 - 1) ∧
          n ∉ t.serving.flushing))) ∧
    (∀ sid, OwnerServed s sid → ∀ (tenant limit : BitVec 16) (new : List (Nat × Nat)),
      new = (s.tenantLimits.filter fun p => p.1 != tenant.toNat) ++ (if limit.toNat = 0xFFFF then [] else [(tenant.toNat, limit.toNat)]) →
      (new.length ≤ 256 → s.damaged = [] → ∃ t, exec (.tenantLimitSet sid tenant limit) s = .next t ∧ t.tenantLimit tenant.toNat = (if limit.toNat = 0xFFFF then s.reg 0x5002 else limit.toNat) ∧
        (∀ u, u ≠ tenant.toNat → t.tenantLimit u = s.tenantLimit u) ∧ t.reg 0x5003 = 0 ∧ State.sameBut [.sm, .dict] s t) ∧
      (256 < new.length → s.damaged = [] → exec (.tenantLimitSet sid tenant limit) s = .next s))

namespace Sys2Proof.Machine

/-- The one-flit writes of rows at consecutive indexes of a core's handle: one packet for each row that the handle has. -/
def State.rowWrites (s : State) (key handle i ctr lanes : Nat) (rows : List Row) : List Packet :=
  rows.zipIdx.filterMap fun x => match storedRow ((s.core key).handle handle) (i + x.2) with
    | .ok row => some (writeFlit (srcEndpoint (0x180 + dutyCore dutyServing)) key row ctr lanes x.1)
    | .error _ => none

/-- The choreography in a place runs, no hold is in force, and the write comes 2 taken beats before its slot or period (R202). -/
def MayWrite (s : State) (lead : Bool) (beat : Nat) : Prop := (s.srv lead).running = true ∧ inTime s lead beat = true ∧ holdInForce s = false

end Sys2Proof.Machine

/-- Issue (R142, R144, R202, R227, R278). -/
def Obligations.Issue : Prop :=
  ∀ s : State,
    (∀ (lead : Bool) (n : Nat), holdInForce s = false → (s.srv lead).running = true → (s.inGroup = true → s.groupMember = 0) → nextIssue s lead = some n →
      (s.damaged = [] → ∃ t, exec (.issueSlot lead) s = .next t ∧ AMap.get none t.serving.decided (2 * n + boolNat lead) ≠ none ∧ AMap.get 0 t.serving.nextSlot (boolNat lead) = n + 1) ∧
      (s.entries = [] → s.serving.reissue = [] → s.serving.wide = [] → s.damaged = [] → ∃ t, exec (.issueSlot lead) s = .next t ∧
        AMap.get none t.serving.decided (2 * n + boolNat lead) = some (idleEntry s lead) ∧ t.serving.passes = s.serving.passes ∧ (s.inGroup = false → State.sameBut [.serving] s t)) ∧
      (lead = false → wideSlot n = false → ∀ e, s.entries = [e] → s.serving.reissue = [] → s.endDl e = 0 → (s.req e).recompute = [] → s.est e ∈ [stPrefill, stDecode] → readyMain s e = true →
        s.damaged = [] → ∃ t q d, exec (.issueSlot lead) s = .next t ∧ t.serving.passes = s.serving.passes ++ [q] ∧ q.pseq = (s.serving.pseq + 1) % 2 ^ 32 ∧ q.entry = e ∧ q.lead = false ∧ q.slot = n ∧
          q.first = (s.req e).issued ∧ q.count = nextCount s e ∧ AMap.get none t.serving.decided (2 * n) = some d ∧ d.pseq = q.pseq ∧ d.entry = e ∧ d.first = q.first ∧ d.count = q.count)) ∧
    (∀ (lead : Bool) (n : Nat) (c : CoreId) (r : CoreRec) (d : SlotEntry), c.valid = true → (s.entryRecs lead).find? (fun r => r.key == c.key) = some r →
      AMap.get none s.serving.decided (2 * n + boolNat lead) = some d → MayWrite s lead (slotBeat s (s.srv lead) n) →
      s.damaged = [] → exec (.issueEntryWrite lead n c) s = .next (s.apply (.net (s.net ++ s.rowWrites c.key (svIssue s (s.srv lead) r)
        (n % max 1 (svIssueDepth s (s.srv lead) r) * svIssueRows s (s.srv lead) r) (svIctr s (s.srv lead) r) 0xFF (entryRows s r n lead d)))) ∧
      (entryRows s r n lead d).length = svIssueRows s (s.srv lead) r ∧
      (∀ row, (entryRows s r n lead d)[0]? = some row → rowField row 0 8 = n % 2 ^ 64 ∧ rowField row 8 4 = d.first % 2 ^ 32 ∧ rowField row 12 1 = d.count % 256 ∧
        rowField row 16 4 = d.pseq % 2 ^ 32 ∧ rowField row 20 2 = d.entry % 2 ^ 16)) ∧
    (∀ (lead : Bool) (m : Nat) (c : CoreId) (r : CoreRec), c.valid = true → ((s.coreRecs (s.srv lead)).find? fun r => r.key == c.key && r.flags % 2 == 1) = some r →
      svFetch s (s.srv lead) r ≠ 0xFF → MayWrite s lead (m * s.hCadence (s.srv lead)) → AMap.get 0 s.serving.nextSlot (2 ^ 20 + c.key) ≤ m →
      ∀ q, q = ((AMap.get [] s.serving.fetchQ c.key).takeWhile fun d => frameOld s lead c.key (sourcePage s lead c.key d.2)).take (svFetchPer s (s.srv lead) r) →
      s.damaged = [] → ∃ t, exec (.fetchRingWrite lead m c) s = .next t ∧ State.sameBut [.net, .serving] s t ∧
        AMap.get [] t.serving.fetchQ c.key = (AMap.get [] s.serving.fetchQ c.key).drop q.length ∧
        t.net = s.net ++ (List.range (svFetchPer s (s.srv lead) r)).flatMap fun j => s.rowWrites c.key (svFetch s (s.srv lead) r)
          ((m * svFetchPer s (s.srv lead) r + j) % max 1 (svFetchDepth s (s.srv lead) r)) (Config.firmwareCtr 1 c.key).toNat 0
          [(q.map (·.2)).getD j (idleDesc c.key)]) ∧
    (∀ (c : CoreId) (w i : Nat) (r : CoreRec) (d : SlotEntry), c.valid = true → s.fieldSlot (c.key / 1024) = some i → ((s.coreRecs (s.model i)).find? fun r => r.key == c.key) = some r →
      AMap.get none s.serving.decided (2 * (16 * w + 15) + i) = some d → MayWrite s (i == 1) (slotBeat s (s.model i) (16 * w + 15)) → rungsTold s d = true →
      s.damaged = [] → ∃ t, exec (.selectEntryWrite c w) s = .next t ∧ State.sameBut [.net] s t ∧
        t.net = s.net ++ (List.range (s.servingOf (s.model i) r 0 2)).flatMap fun u =>
          let e := w % max 1 (s.hWideDepth (s.model i)) * s.servingOf (s.model i) r 0 2 + u
          let row : Row := BitVec.ofNat 512 (packLanes 32 (selectWords s (s.model i) (slotRungs s d) c.key u) * 2 ^ (128 * (e % 4)))
          s.rowWrites c.key (s.hSelect (s.model i)) (e / 4) (Config.firmwareCtr 2 c.key).toNat (2 ^ (2 * (e % 4))) [row] ++
            s.rowWrites c.key (s.hSelect (s.model i)) (e / 4) (Config.firmwareCtr 2 c.key).toNat (2 ^ (2 * (e % 4) + 1)) [row]) ∧
    (∀ (lead : Bool) (src : PktSource) (q : Packet) (i : Nat) (r : Row), Takes s src (fun q => toTumbler (recordTumbler lead) q && !isCandidate q) q i →
      r = q.flits.getD 0 0 → isRecord q = true → s.inGroup = true → s.groupMember ≠ 0 → rowField r 14 1 ≠ 0 →
      s.damaged = [] → ∃ t d, exec (.issueRecord (recordTumbler lead) src) s = .next t ∧ Left s t src i ∧ AMap.get none t.serving.decided (2 * rowField r 0 8 + boolNat lead) = some d ∧
        d.entry = rowField r 8 2 ∧ d.first = rowField r 10 4 ∧ d.count = rowField r 14 1 ∧ d.pseq = rowField r 15 4 ∧
        d.tokens = ((List.range (rowField r 14 1)).map fun i => field ((q.flits.drop 1).flatMap rowBytes) (4 * i) 4) ∧
        (∀ ch, recordChanges q (rowField r 14 1) = [ch] → field ch 6 1 ≠ pgLoading → s.smBad = [] → t.dir lead (field ch 0 4) =
          { s.dir lead (field ch 0 4) with hot := field ch 4 2, state := field ch 6 1, count := field ch 7 1, gen := field ch 8 4 })) ∧
    (∀ (lead : Bool) (src : PktSource) (q : Packet) (i : Nat) (r : Row), Takes s src (fun q => toTumbler (recordTumbler lead) q && !isCandidate q) q i →
      r = q.flits.getD 0 0 → isRecord q = true → s.inGroup = true → s.groupMember ≠ 0 → rowField r 14 1 = 0 → recordChanges q 0 = [] →
      s.damaged = [] → ∃ t, exec (.issueRecord (recordTumbler lead) src) s = .next t ∧ Left s t src i ∧ AMap.get none t.serving.decided (2 * rowField r 0 8 + boolNat lead) = some (idleEntry s lead))

/-- Candidate rows (R243, R244). -/
def Obligations.CandidateRows : Prop :=
  ∀ (s : State) (c : Nat), c < 24 →
    (∀ (src : PktSource) (q : Packet) (i : Nat), Takes s src (fun q => toTumbler c q && !isRecord q) q i → isCandidate q = true →
      (∀ (x : SortSlot) (p : Pass) (ok : List (Nat × Nat)), AMap.get none s.serving.sorter (sorterKey c (hdrSpad q.h / 2048)) = some x → x.complete = none → s.pass x.pseq = some p →
        ok = ((rowPairs (q.flits.getD 0 0)).filter fun y => y.1 ≤ 63 && 64 * (hdrSpad q.h % 2048) + y.1 < s.hVocab (s.srv p.lead)).map (fun y => (64 * (hdrSpad q.h % 2048) + y.1, y.2)) →
        (x.rows + 1 < ceilDiv (s.hVocab (s.srv p.lead)) 64 → s.damaged = [] → ∃ t, exec (.candidateRow c src) s = .next t ∧ Left s t src i ∧
          AMap.get none t.serving.sorter (sorterKey c (hdrSpad q.h / 2048)) = some { x with rows := x.rows + 1, entries := ok.foldl keepBest x.entries } ∧ t.serving.passes = s.serving.passes) ∧
        (ceilDiv (s.hVocab (s.srv p.lead)) 64 ≤ x.rows + 1 → ok.foldl keepBest x.entries ≠ [] → s.damaged = [] → ∃ t p', exec (.candidateRow c src) s = .next t ∧
          t.pass x.pseq = some p' ∧ AMap.get [] p'.lists x.idx = ok.foldl keepBest x.entries)) ∧
      (AMap.get none s.serving.sorter (sorterKey c (hdrSpad q.h / 2048)) = none → s.damaged = [] → ∃ t, exec (.candidateRow c src) s = .next t ∧ Left s t src i ∧ coresBut s t src [] ∧ State.sameBut (.net :: .cores :: logParts) s t ∧
        (s.reg 0x8020 ≤ 3 → t.reg 0x8023 = elt 0x8023 0 (s.reg 0x8023 + 1)))) ∧
    (∀ slot < 32, ∀ (x : SortSlot) (p : Pass), AMap.get none s.serving.sorter (sorterKey c slot) = some x → s.pass x.pseq = some p → slotMissing s x p = true →
      (∀ v ∈ s.serving.voids, ¬ (v.1 = 127 * 1024 + 31 * 32 + c ∧ v.2.2 = (p.pseq + 1, p.first + p.count - p.drafts.length + x.idx))) →
      s.damaged = [] → ∃ t, exec (.candidateMissing c slot) s = .next t ∧ t.reg 0x400C = elt 0x400C 0 (s.reg 0x400C + 1) ∧ t.beat.hold ≠ .none ∧ (∀ r, t.beat.hold ≠ .released r) ∧
        t.serving.passes = s.serving.passes ∧ t.serving.voids = s.serving.voids ++ [(127 * 1024 + 31 * 32 + c, 0x0B, p.pseq + 1, p.first + p.count - p.drafts.length + x.idx)])

/-- Delivery and the end of a pass (R48, R166, R228 to R230, R300). -/
def Obligations.Delivery : Prop :=
  ∀ s : State,
    (∀ (pseq : Nat) (p : Pass) (toks : List Nat), s.pass pseq = some p → p.tokens = some toks → p.lead = false → p.dropped = false → p.delivered = false → s.attemptOf pseq = false →
      (cDiscard (s.ctrl p.entry) = true ∨ cDone (s.ctrl p.entry) = true → s.damaged = [] → ∃ t, exec (.batchDeliver pseq) s = .next t ∧ t.pass pseq = some { p with delivered := true } ∧ State.sameBut [.serving] s t) ∧
      (cDiscard (s.ctrl p.entry) = false → cDone (s.ctrl p.entry) = false → p.entry < 16384 → s.serving.outbox = [] → ringUsed s 1 < 16384 →
        ∀ (c : Cut) (kept : List Nat), c = cutOf s p.entry toks → kept = toks.take (c.kept - c.withheld) →
        s.damaged = [] → ∃ t, exec (.batchDeliver pseq) s = .next t ∧ t.pass pseq = some { p with delivered := true } ∧ t.generated p.entry = (s.generated p.entry + kept.length) % 2 ^ 19 ∧
          (kept ≠ [] → (s.req p.entry).silent = false → ringProd t 1 = (ringProd s 1 + 1) % 2 ^ 32 ∧ Mem.nat t.sm (txAddr (ringProd s 1)) 2 = s.esession p.entry ∧
            Mem.nat t.sm (txAddr (ringProd s 1) + 2) 1 = 0x21 ∧ Mem.nat t.sm (txAddr (ringProd s 1) + 4) 4 = s.tag p.entry) ∧
          (∀ x, kept = [x] → t.token p.entry (s.ePrompt p.entry + s.generated p.entry) = x % 2 ^ 32) ∧
          (∀ r, c.reason = some r → t.est p.entry = stDraining ∧ cDone (t.ctrl p.entry) = true ∧ cTerm (t.ctrl p.entry) = 0 ∧ (t.req p.entry).detail = r) ∧
          (c.reason = none → s.deadline p.entry = none → s.endDl p.entry = 0 → s.est p.entry ∈ [stPrefill, stDecode] →
            t.est p.entry = stDecode ∧ (t.req p.entry).upto = (t.req p.entry).issued + 1 ∧ (t.req p.entry).drafts = []))) ∧
    (∀ port ≤ 1, ∀ (a i : Nat), a = txAddr (ringCons s 1) → i = Mem.nat s.sm a 2 →
      (0 < ringUsed s 1 → s.damaged = [] → ∃ t, exec (.transmitRecord port) s = .next t ∧ ringCons t 1 = (ringCons s 1 + 1) % 2 ^ 32 ∧
        (s.serving.outbox = [] → s.badWords a 128 = [] → Quiet s → (s.session true i).usable = true → (s.session true i).inflight.length < 256 →
          t.session true i = (s.session true i).sends s.now (Mem.nat s.sm (a + 2) 1) 0 (Mem.read s.sm (a + 4) (Mem.nat s.sm (a + 3) 1)) ∧ State.sameBut [.sm, .csp, .wire, .ports] s t) ∧
        (∀ r rs, s.serving.outbox = r :: rs → s.badWords a 128 = [] → Quiet s → t.serving.outbox = rs ∧ ringProd t 1 = (ringProd s 1 + 1) % 2 ^ 32 ∧ Mem.read t.sm (txAddr (ringProd s 1)) r.length = r)) ∧
      (ringUsed s 1 = 0 → s.damaged = [] → exec (.transmitRecord port) s = .next s)) ∧
    (∀ (pseq : Nat) (p : Pass), s.pass pseq = some p → (p.dropped = true ∨ (p.delivered = true ∧ s.attemptOf pseq = false) ∨ cDiscard (s.ctrl p.entry) = true ∨ cDone (s.ctrl p.entry) = true ∨ (p.yields = false ∧ s.attemptOf pseq = false)) →
      s.damaged = [] → ∃ t, exec (.passRetire pseq) s = .next t ∧ t.pass pseq = none ∧ (∀ q ∈ s.serving.passes, q.pseq ≠ pseq → q ∈ t.serving.passes) ∧
        (∀ k x, AMap.get none t.serving.sorter k = some x → x.pseq ≠ pseq) ∧
        (∀ f, p.entry < 16384 → 0x20000 ≤ s.plist p.entry → p.dropped = false → p.delivered = true → s.smBad = [] → p.lead = false → p.recompute = false → p.drafts = [] → p.count = 1 → p.first % 64 = 63 → pseq < 2 ^ 32 →
          s.pageAt p.entry (p.first / 64) = some f → s.dirAddr false f + 0x8000 + 32 ≤ listAddr s p.entry → 0x208000 ≤ s.dirAddr false f →
          (s.dir false f).shared = false → (s.dir false f).state = pgOpen → cPmode (s.ctrl p.entry) = 0 → s.est p.entry = stDecode → cPause (s.ctrl p.entry) = false →
          t.dir false f = { s.dir false f with count := 64, state := pgFull, fill := pseq }))

/-- Arrival and admission (R222 to R226). -/
def Obligations.Admission : Prop :=
  ∀ s : State,
    (∀ (n : Nat) (a : Arrival), findFrom (fun n => AMap.get 0 s.serving.ring (n % 16384) == 1) (ringUsed s 0) (ringCons s 0) = some n → a = arrivalOf s n →
      (∀ r, arrivalRefusal s a = some r → s.damaged = [] → ∃ t, exec .requestTake s = .next t ∧ ringCons t 0 = (n + 1) % 2 ^ 32 ∧ AMap.get 0 t.serving.ring (n % 16384) = 0 ∧ t.entries = s.entries) ∧
      (s.badWords (requestAddr a.rec_) 64 = [] → s.badWords (promptAddr a.place) (4 * a.prompt) = [] → (s.model 0).running = false → arrivalRefusal s a = some (0x13, 1)) ∧
      (∀ e, arrivalRefusal s a = none → s.freeEntry = some e → s.damaged = [] → ∃ t, exec .requestTake s = .next t ∧ ringCons t 0 = (n + 1) % 2 ^ 32 ∧ AMap.get 0 t.serving.ring (n % 16384) = 2 ∧
        t.est e = stQueued ∧ t.esession e = a.session ∧ t.tag e = a.tag ∧ cPrio (t.ctrl e) = a.prio ∧ cTenant (t.ctrl e) = a.tenant ∧ t.generated e = 0 ∧ (t.req e).live = true)) ∧
    (∀ (n : Nat) (u : State), n = max s.now (AMap.get 0 s.ticks tkAdmission + 16 * s.period) → u = (s.apply (.time n)).apply (.tick tkAdmission n) →
      (s.damaged = [] → ∃ t, exec .admissionScan s = .next t ∧ t.now = n ∧ AMap.get 0 t.ticks tkAdmission = n) ∧
      (∀ e < 16384, s.entries = [e] → s.est e = stQueued →
        (s.plist e = 0 → (s.req e).leadPages = [] → s.ttftDl e ≠ 0 → s.arrival e + s.ttftDl e < u.us + s.prefillUs (s.ePrompt e) → s.damaged = [] → ∃ t, exec .admissionScan s = .next t ∧ t.est e = stRetired ∧
          t.reg 0x5013 4 = elt 0x5013 4 (s.reg 0x5013 4 + 1)) ∧
        ((s.req e).resuming = false → s.ttftDl e = 0 → s.endDl e = 0 → (s.model 0).running = true → cPmode (s.ctrl e) = 0 → reserves u e (planOf u e) = true →
          (∀ w < u.ways false, resvTotal u false w + inWay (u.ways false) w (planOf u e).need ≤ (u.wayPages false w fun d => d.state == pgFree).length ∧
            resvTotal u false w + inWay (u.ways false) w (planOf u e).need ≤ (u.freeSlots false w).length) →
          s.damaged = [] → ∃ t, exec .admissionScan s = .next t ∧ t.est e = stPrefill ∧ 0x20000 ≤ t.plist e ∧ (t.req e).issued = 0 ∧ (t.req e).upto = s.ePrompt e))) ∧
    (∀ e < 16384, (s.req e).live = true →
      (s.est e = stQueued →
        (s.queuePlace e ≠ (s.req e).qpos → s.damaged = [] → ∃ t, exec (.queuedResend e) s = .next t ∧ t.now = max s.now ((s.req e).qsent + 250000000) ∧ (t.req e).qpos = s.queuePlace e ∧ (t.req e).qsent = t.now ∧
          ((s.req e).silent = false → s.serving.outbox = [] → ringUsed s 1 < 16384 → ringProd t 1 = (ringProd s 1 + 1) % 2 ^ 32)) ∧
        (s.queuePlace e = (s.req e).qpos → s.damaged = [] → exec (.queuedResend e) s = .next (s.apply (.time ((s.req e).qsent + 250000000))))) ∧
      (s.est e = stRetired → s.damaged = [] → ∃ t, exec (.entryReclaimTimeout e) s = .next t ∧ t.now = max s.now ((s.req e).retiredAt + 2000000000) ∧ t.est e = stFree ∧ t.req e = Req.none))

/-- Escalation and the clamp scan (R139 to R147). -/
def Obligations.Escalations : Prop :=
  ∀ s : State,
    (0 < ringUsed s 2 → ∀ a, a = interleaved escalationRing (16 * (ringCons s 2 % 32768)) →
      (s.damaged = [] → ∃ t, exec .escalationReport s = .next t ∧ ringCons t 2 = (ringCons s 2 + 1) % 2 ^ 32) ∧
      (recordBad s a = true → recordBad s (a + 0x8000) = true → s.damaged = [] → ∃ t, exec .escalationReport s = .next t ∧ t.beat.hold ≠ .none ∧ (∀ r, t.beat.hold ≠ .released r)) ∧
      (∀ (taken key tile i : Nat) (r : EscRec) (p : Pass), recordBad s a = false → taken = Mem.nat s.sm (a + 8) 4 →
        key = Mem.nat s.sm (a + 12) 1 * 1024 + Mem.nat s.sm (a + 13) 1 * 32 + Mem.nat s.sm (a + 14) 1 → tile = Mem.nat s.sm (a + 15) 1 % 4 →
        s.fieldSlot (key / 1024) = some i → escRec s (s.model i) (taken % max 1 (s.hCadence (s.model i))) key tile = some r → r.offset ≤ taken →
        attemptPass s (i == 1) (taken - r.offset) = some p → p.entry < 16384 → s.passSent p = false → ranRung s (s.model i) p key r.unit = r.rung → cDiscard (s.ctrl p.entry) = false → cDone (s.ctrl p.entry) = false →
        s.damaged = [] → ∃ t, exec .escalationReport s = .next t ∧ t.serving = { s.serving with attempts := addReport s p r (key * 1024 + r.unit) s.serving.attempts } ∧ State.sameBut [.sm, .serving] s t)) ∧
    (∀ (pseq layer close : Nat) (raised : List Nat) (p : Pass), (s.serving.attempts.find? fun a => a.1 == pseq) = some (pseq, layer, close, raised) →
      ((s.serving.passes ++ s.serving.reissue).find? fun p => p.pseq == pseq) = some p → close < s.takenOf p.lead →
      (s.passSent p = true → s.damaged = [] → exec (.escalationClose pseq) s =
        .next (s.apply (.serving { s.serving with attempts := s.serving.attempts.filter fun b => b.1 != pseq }))) ∧
      (s.passSent p = false → s.damaged = [] → ∃ t, exec (.escalationClose pseq) s = .next t ∧ (∀ b ∈ t.serving.attempts, b.1 ≠ pseq) ∧ t.reg 0x5302 = elt 0x5302 0 (s.reg 0x5302 + 1) ∧
        t.serving.wide = s.serving.wide ++ [({ p with wide := true, rungs := raiseRungs p.rungs raised }, close)] ∧
        t.reg 0x5303 = elt 0x5303 0 (max (s.reg 0x5303) (s.serving.wide.length + 1)) ∧
        ((∀ r ∈ s.serving.reissue, r.pseq ≠ pseq) → t.pass pseq = some { p with dropped := true } ∧
          t.serving.reissue = s.serving.reissue ++ ((followers s p).filter fun q => !q.lead).map Pass.again) ∧
        ((∃ r ∈ s.serving.reissue, r.pseq = pseq) → t.serving.reissue = (s.serving.reissue.filter fun r => r.pseq != pseq) ∧ t.serving.passes = s.serving.passes))) ∧
    (s.Canonical → s.mcore 3 = 0 → ∃ t, exec .clampScan s = .next t ∧ t.now = max s.now (AMap.get 0 s.ticks tkClamp + 1000000) ∧
      (∀ k, (t.core k).corrected = 0 ∧ (t.core k).inlineVerdicts = 0 ∧ (t.core k).reportCount = 0 ∧ (t.core k).clamps = 0) ∧ (∀ f, AMap.get 0 t.fieldClamps f = 0) ∧
      t.reg 0x4020 = elt 0x4020 0 (s.reg 0x4020 + (s.cores.map fun kc => kc.2.corrected).sum) ∧
      t.reg 0x5300 = elt 0x5300 0 (s.reg 0x5300 + (s.cores.map fun kc => kc.2.inlineVerdicts).sum) ∧
      t.reg 0x5301 = elt 0x5301 0 (s.reg 0x5301 + (s.cores.map fun kc => kc.2.reportCount).sum) ∧
      t.reg 0x5304 = elt 0x5304 0 (s.reg 0x5304 + (s.cores.map fun kc => kc.2.clamps).sum + (s.fieldClamps.map fun kv => kv.2).sum))
end

