-- ==== Sys2Proof/Laws/Digest.lean ====
section
/-! SUPPORT. A SHAKE256 digest of 32 bytes has 32 bytes. -/

namespace Sys2Proof.Machine

/-- Five planes of five lanes. -/
def FiveByFive (a : List (List Nat)) : Prop := a.length = 5 ∧ ∀ p ∈ a, p.length = 5

theorem turnAndMove_shape (a : List (List Nat)) : FiveByFive (turnAndMove a) := by
  constructor
  · simp [turnAndMove]
  · intro p hp; simp only [turnAndMove, List.mem_map] at hp; obtain ⟨y, _, rfl⟩ := hp; simp

theorem keccakRound_shape (a : List (List Nat)) (r : Nat) : FiveByFive (keccakRound a r) := by
  obtain ⟨h5, hp⟩ := turnAndMove_shape (theta a)
  have hc : FiveByFive ((turnAndMove (theta a)).map chi) := by
    refine ⟨by simpa using h5, ?_⟩
    intro p hp'
    obtain ⟨q, hq, rfl⟩ := List.mem_map.1 hp'
    have := hp q hq
    simp [chi]; omega
  unfold keccakRound
  split
  · rename_i h t ps he
    rw [he] at hc
    refine ⟨by simpa using hc.1, ?_⟩
    intro p hp'
    rcases List.mem_cons.1 hp' with rfl | h'
    · simpa using hc.2 (h :: t) (by simp)
    · exact hc.2 p (List.mem_cons_of_mem _ h')
  · exact hc

theorem keccakF_shape (a : List (List Nat)) : FiveByFive (keccakF a) := by
  have : keccakF a = keccakRound ((List.range 23).foldl keccakRound a) 23 := by
    unfold keccakF; rw [show (24 : Nat) = 23 + 1 from rfl, List.range_succ, List.foldl_append]; rfl
  rw [this]; exact keccakRound_shape _ _

theorem absorb_shape : ∀ (n : Nat) (a : List (List Nat)) (m : List Byte), 0 < n → FiveByFive (absorb n a m)
  | 1, a, m, _ => by unfold absorb; unfold absorb; exact keccakF_shape _
  | n + 2, a, m, _ => by unfold absorb; exact absorb_shape (n + 1) _ _ (by omega)

theorem leBytes_length (n v : Nat) : (leBytes n v).length = n := by
  induction n generalizing v with
  | zero => rfl
  | succ n ih => simp [leBytes, ih]

/-- A digest of 32 bytes has 32 bytes. -/
theorem shake256_length (m : List Byte) : (shake256 32 m).length = 32 := by
  have hpad : 0 < (shakePad m).length / 136 := by
    unfold shakePad; dsimp only; split <;> rename_i h <;> simp at h ⊢ <;> omega
  have hf : ∀ a : List (List Nat), FiveByFive a → a.flatten.length = 25 := by
    intro a ⟨h5, hp⟩
    match a, h5, hp with
    | [p, q, r, s, t], _, hp => simp [hp p (by simp), hp q (by simp), hp r (by simp), hp s (by simp), hp t (by simp)]
  have hs : ∀ l : List Nat, (l.flatMap (leBytes 8)).length = 8 * l.length := by
    intro l; induction l with
    | nil => rfl
    | cons x l ih => simp only [List.flatMap_cons, List.length_append, ih, leBytes_length, List.length_cons]; omega
  have h2 := hf _ (absorb_shape _ (List.replicate 5 (List.replicate 5 0)) (shakePad m) hpad)
  unfold shake256
  simp only [Nat.reduceDiv, squeeze, List.append_nil, List.length_take, hs, h2]
  rfl

end Sys2Proof.Machine
end

