-- ==== Sys2Proof/Laws/Maps.lean ====
section
/-! SUPPORT. Ordered maps and byte memories: read after write, other places left alone, and the canonical form kept. -/

namespace Sys2Proof

theorem AMap.get_nil {α : Type} (d : α) (k : Nat) : AMap.get d [] k = d := rfl

theorem AMap.get_insert {α : Type} (d : α) (m : AMap α) (k j : Nat) (v : α) :
    AMap.get d (AMap.insert m k v) j = if j = k then v else AMap.get d m j := by
  induction m with
  | nil => rfl
  | cons a m ih =>
    obtain ⟨i, w⟩ := a
    simp only [AMap.insert]
    split
    · simp [AMap.get]
    · split
      · subst_vars; simp only [AMap.get]; split <;> simp_all
      · simp only [AMap.get, ih]
        split
        · split
          · omega
          · rfl
        · rfl

theorem AMap.get_erase {α : Type} (d : α) (m : AMap α) (k j : Nat) :
    AMap.get d (AMap.erase m k) j = if j = k then d else AMap.get d m j := by
  induction m with
  | nil => simp [AMap.erase, AMap.get]
  | cons a m ih =>
    obtain ⟨i, w⟩ := a
    simp only [AMap.erase, List.filter_cons] at ih ⊢
    by_cases hik : i = k
    · subst hik
      simp only [bne_self_eq_false, Bool.false_eq_true, if_false, ih, AMap.get]
      split <;> simp_all
    · simp only [bne_iff_ne, ne_eq, hik, not_false_eq_true, if_true, AMap.get, ih]
      split
      · split
        · omega
        · rfl
      · rfl

/-- Read after write. -/
theorem AMap.get_put {α : Type} [DecidableEq α] (d : α) (m : AMap α) (k j : Nat) (v : α) :
    AMap.get d (AMap.put d m k v) j = if j = k then v else AMap.get d m j := by
  unfold AMap.put
  split
  · rename_i h; subst h; exact AMap.get_erase _ m k j
  · exact AMap.get_insert d m k j v

@[simp] theorem AMap.get_put_self {α : Type} [DecidableEq α] (d : α) (m : AMap α) (k : Nat) (v : α) :
    AMap.get d (AMap.put d m k v) k = v := by simp [AMap.get_put]

theorem AMap.get_put_ne {α : Type} [DecidableEq α] (d : α) (m : AMap α) (k j : Nat) (v : α) (h : j ≠ k) :
    AMap.get d (AMap.put d m k v) j = AMap.get d m j := by simp [AMap.get_put, h]

/-! ### The canonical form -/

/-- The canonical form, said with List.Pairwise. -/
theorem AMap.wf_iff {α : Type} [DecidableEq α] (d : α) (m : AMap α) :
    AMap.wf d m = true ↔ (∀ kv ∈ m, kv.2 ≠ d) ∧ m.Pairwise (fun a b => a.1 < b.1) := by
  induction m with
  | nil => simp [AMap.wf]
  | cons a m ih =>
    obtain ⟨k, v⟩ := a
    cases m with
    | nil => simp [AMap.wf]
    | cons b m =>
      obtain ⟨k', v'⟩ := b
      simp only [AMap.wf, Bool.and_eq_true, decide_eq_true_eq, ih]
      constructor
      · rintro ⟨⟨hv, hk⟩, hall, hp⟩
        refine ⟨?_, ?_⟩
        · intro kv hkv
          rcases List.mem_cons.1 hkv with rfl | h
          · exact hv
          · exact hall kv h
        · refine List.pairwise_cons.2 ⟨?_, hp⟩
          intro b hb
          rcases List.mem_cons.1 hb with rfl | h
          · exact hk
          · exact Nat.lt_trans hk ((List.pairwise_cons.1 hp).1 b h)
      · rintro ⟨hall, hp⟩
        obtain ⟨h1, h2⟩ := List.pairwise_cons.1 hp
        exact ⟨⟨hall (k, v) (List.mem_cons_self ..), h1 (k', v') (List.mem_cons_self ..)⟩, fun kv h => hall kv (List.mem_cons_of_mem _ h), h2⟩

theorem AMap.wf_filter {α : Type} [DecidableEq α] (d : α) (m : AMap α) (p : Nat × α → Bool) (h : AMap.wf d m = true) :
    AMap.wf d (m.filter p) = true := by
  rw [AMap.wf_iff] at h ⊢
  exact ⟨fun kv hkv => h.1 kv (List.mem_filter.1 hkv).1, h.2.filter p⟩

theorem AMap.mem_insert {α : Type} (m : AMap α) (k : Nat) (v : α) (kv : Nat × α) (h : kv ∈ AMap.insert m k v) :
    kv = (k, v) ∨ kv ∈ m := by
  induction m with
  | nil => simpa [AMap.insert] using h
  | cons a m ih =>
    simp only [AMap.insert] at h
    split at h
    · simpa using h
    · split at h
      · rcases List.mem_cons.1 h with h | h
        · exact .inl h
        · exact .inr (List.mem_cons_of_mem _ h)
      · rcases List.mem_cons.1 h with h | h
        · exact .inr (h ▸ List.mem_cons_self ..)
        · rcases ih h with h | h
          · exact .inl h
          · exact .inr (List.mem_cons_of_mem _ h)

theorem AMap.wf_insert {α : Type} [DecidableEq α] (d : α) (m : AMap α) (k : Nat) (v : α) (hv : v ≠ d) (h : AMap.wf d m = true) :
    AMap.wf d (AMap.insert m k v) = true := by
  rw [AMap.wf_iff] at h ⊢
  refine ⟨fun kv hkv => ?_, ?_⟩
  · rcases AMap.mem_insert m k v kv hkv with rfl | h'
    · exact hv
    · exact h.1 kv h'
  · replace h := h.2
    induction m with
    | nil => simp [AMap.insert]
    | cons a m ih =>
      obtain ⟨i, w⟩ := a
      obtain ⟨h1, h2⟩ := List.pairwise_cons.1 h
      simp only [AMap.insert]
      split
      · rename_i hlt
        refine List.pairwise_cons.2 ⟨fun b hb => ?_, h⟩
        rcases List.mem_cons.1 hb with rfl | hb
        · exact hlt
        · exact Nat.lt_trans hlt (h1 b hb)
      · split
        · rename_i heq
          exact List.pairwise_cons.2 ⟨fun b hb => heq ▸ h1 b hb, h2⟩
        · rename_i h3 h4
          refine List.pairwise_cons.2 ⟨fun b hb => ?_, ih h2⟩
          rcases AMap.mem_insert m k v b hb with rfl | hb
          · simp only; omega
          · exact h1 b hb

/-- A write keeps the canonical form. -/
theorem AMap.wf_put {α : Type} [DecidableEq α] (d : α) (m : AMap α) (k : Nat) (v : α) (h : AMap.wf d m = true) :
    AMap.wf d (AMap.put d m k v) = true := by
  unfold AMap.put
  split
  · exact AMap.wf_filter d m _ h
  · rename_i hv; exact AMap.wf_insert d m k v hv h

/-- Writes in order keep the canonical form. -/
theorem AMap.wf_foldl_put {α : Type} [DecidableEq α] (d : α) (l : List (Nat × α)) (m : AMap α) (h : AMap.wf d m = true) :
    AMap.wf d (l.foldl (fun m kv => AMap.put d m kv.1 kv.2) m) = true := by
  induction l generalizing m with
  | nil => exact h
  | cons a l ih => exact ih _ (AMap.wf_put d m _ _ h)

/-- What a write leaves or adds. -/
theorem AMap.mem_put {α : Type} [DecidableEq α] (d : α) (m : AMap α) (k : Nat) (v : α) (kv : Nat × α) (h : kv ∈ AMap.put d m k v) :
    kv = (k, v) ∨ kv ∈ m := by
  unfold AMap.put at h
  split at h
  · exact .inr (List.mem_filter.1 h).1
  · exact AMap.mem_insert m k v kv h

theorem AMap.get_of_mem {α : Type} [DecidableEq α] (d : α) (m : AMap α) (h : AMap.wf d m = true) (k : Nat) (v : α) (hm : (k, v) ∈ m) :
    AMap.get d m k = v := by
  rw [AMap.wf_iff] at h
  replace h := h.2
  induction m with
  | nil => cases hm
  | cons a m ih =>
    obtain ⟨i, w⟩ := a
    obtain ⟨h1, h2⟩ := List.pairwise_cons.1 h
    rcases List.mem_cons.1 hm with heq | hm
    · cases heq; simp [AMap.get]
    · have := h1 _ hm
      simp only [AMap.get]
      split
      · simp only at this; omega
      · exact ih hm h2

/-- A property of every entry is one of every value read, where the default has it. -/
theorem AMap.get_all {α : Type} (d : α) (m : AMap α) (p : Nat → α → Prop) (hd : ∀ k, p k d) (h : ∀ kv ∈ m, p kv.1 kv.2) (k : Nat) :
    p k (AMap.get d m k) := by
  induction m with
  | nil => exact hd k
  | cons a m ih =>
    obtain ⟨i, w⟩ := a
    simp only [AMap.get]
    split
    · rename_i heq; subst heq; exact h _ (List.mem_cons_self ..)
    · exact ih fun kv hkv => h kv (List.mem_cons_of_mem _ hkv)

/-! ### Byte memories -/

@[simp] theorem Mem.byte_put_self (m : Mem) (a : Nat) (b : Byte) : Mem.byte (Mem.put m a b) a = b := AMap.get_put_self _ m a b

theorem Mem.byte_put_ne (m : Mem) (a c : Nat) (b : Byte) (h : c ≠ a) : Mem.byte (Mem.put m a b) c = Mem.byte m c :=
  AMap.get_put_ne _ m a c b h

/-- A store leaves every byte outside it alone. -/
theorem Mem.byte_write_out (m : Mem) (a : Nat) (bs : List Byte) (c : Nat) (h : c < a ∨ a + bs.length ≤ c) :
    Mem.byte (Mem.write m a bs) c = Mem.byte m c := by
  induction bs generalizing m a with
  | nil => rfl
  | cons b bs ih =>
    simp only [Mem.write, List.length_cons] at *
    rw [ih _ _ (by omega), Mem.byte_put_ne _ _ _ _ (by omega)]

/-- A byte that a store wrote reads as stored. -/
theorem Mem.byte_write_in (m : Mem) (a : Nat) (bs : List Byte) (i : Nat) (h : i < bs.length) :
    Mem.byte (Mem.write m a bs) (a + i) = bs[i] := by
  induction bs generalizing m a i with
  | nil => simp at h
  | cons b bs ih =>
    simp only [Mem.write]
    cases i with
    | zero =>
      rw [Mem.byte_write_out _ _ _ _ (by omega)]
      exact Mem.byte_put_self m a b
    | succ i =>
      have := ih (Mem.put m a b) (a + 1) i (by simpa using h)
      simpa [Nat.add_assoc, Nat.add_comm 1 i] using this

/-- What a store wrote is read back whole. -/
theorem Mem.read_write_self (m : Mem) (a : Nat) (bs : List Byte) : Mem.read (Mem.write m a bs) a bs.length = bs := by
  induction bs generalizing m a with
  | nil => rfl
  | cons b bs ih =>
    simp only [Mem.write, List.length_cons, Mem.read, ih]
    rw [Mem.byte_write_out _ _ _ _ (by omega), Mem.byte_put_self]

theorem Mem.read_write_out (m : Mem) (a : Nat) (bs : List Byte) (c n : Nat) (h : c + n ≤ a ∨ a + bs.length ≤ c) :
    Mem.read (Mem.write m a bs) c n = Mem.read m c n := by
  induction n generalizing c with
  | zero => rfl
  | succ n ih =>
    simp only [Mem.read]
    rw [Mem.byte_write_out _ _ _ _ (by omega), ih _ (by omega)]

theorem Mem.wf_put (m : Mem) (a : Nat) (b : Byte) (h : Mem.wf m = true) : Mem.wf (Mem.put m a b) = true := AMap.wf_put _ m a b h

/-- A store keeps the canonical form. -/
theorem Mem.wf_write (m : Mem) (a : Nat) (bs : List Byte) (h : Mem.wf m = true) : Mem.wf (Mem.write m a bs) = true := by
  induction bs generalizing m a with
  | nil => exact h
  | cons b bs ih => exact ih _ _ (Mem.wf_put m a b h)

theorem Mem.wf_filter (m : Mem) (p : Host.Cell → Bool) (h : Mem.wf m = true) : Mem.wf (m.filter p) = true := AMap.wf_filter _ m p h

theorem Mem.wf_nil : Mem.wf [] = true := rfl

end Sys2Proof
end

