-- ==== Sys2Proof/Laws/State.lean ====
section
/-! SUPPORT. Updates of the state: what each writes, and the parts it leaves alone. -/

namespace Sys2Proof.Machine

/-- A frame that is sent is on the wire; it may use up a packet number; or it is not sent at all. -/
theorem State.sendFrame_eq (s : State) (d : Datagram) :
    s.sendFrame d = s ∨ s.sendFrame d = { s with wire := d :: s.wire } ∨ ∃ x, s.sendFrame d = { s with wire := d :: s.wire, ports := x } := by
  unfold State.sendFrame
  dsimp only
  (repeat' split) <;> first
    | exact .inl rfl
    | exact .inr (.inl rfl)
    | exact .inr (.inr ⟨_, rfl⟩)

/-- An update leaves every part it does not name alone. -/
theorem State.apply_same (s : State) (u : Update) (p : Part) (h : p ∉ u.parts) : State.same p s (s.apply u) := by
  cases u
  case sent d =>
    rcases State.sendFrame_eq s d with e | e | ⟨x, e⟩ <;> cases p <;> simp_all [State.same, State.apply, Update.parts]
  all_goals cases p <;> first
    | rfl
    | (exfalso; apply h; simp [Update.parts])

/-- No update touches the queue of waiting commands. -/
@[simp] theorem State.apply_pending (s : State) (u : Update) : (s.apply u).pending = s.pending := by
  cases u
  case sent d => rcases State.sendFrame_eq s d with e | e | ⟨x, e⟩ <;> simp [State.apply, e]
  all_goals rfl

theorem State.apply_now (s : State) (u : Update) (h : Part.now ∉ u.parts) : (s.apply u).now = s.now := State.apply_same s u .now h
theorem State.apply_epoch (s : State) (u : Update) (h : Part.epoch ∉ u.parts) : (s.apply u).epoch = s.epoch := State.apply_same s u .epoch h
theorem State.apply_free (s : State) (u : Update) (h : Part.free ∉ u.parts) : (s.apply u).free = s.free := State.apply_same s u .free h
theorem State.apply_dict (s : State) (u : Update) (h : Part.dict ∉ u.parts) : (s.apply u).dict = s.dict := State.apply_same s u .dict h
theorem State.apply_blobs (s : State) (u : Update) (h : Part.blobs ∉ u.parts) : (s.apply u).blobs = s.blobs := State.apply_same s u .blobs h
theorem State.apply_cores (s : State) (u : Update) (h : Part.cores ∉ u.parts) : (s.apply u).cores = s.cores := State.apply_same s u .cores h
theorem State.apply_spads (s : State) (u : Update) (h : Part.spads ∉ u.parts) : (s.apply u).spads = s.spads := State.apply_same s u .spads h
theorem State.apply_net (s : State) (u : Update) (h : Part.net ∉ u.parts) : (s.apply u).net = s.net := State.apply_same s u .net h
theorem State.apply_sm (s : State) (u : Update) (h : Part.sm ∉ u.parts) : (s.apply u).sm = s.sm := State.apply_same s u .sm h
theorem State.apply_smBad (s : State) (u : Update) (h : Part.smBad ∉ u.parts) : (s.apply u).smBad = s.smBad := State.apply_same s u .smBad h
theorem State.apply_smReply (s : State) (u : Update) (h : Part.smReply ∉ u.parts) : (s.apply u).smReply = s.smReply := State.apply_same s u .smReply h
theorem State.apply_hbm (s : State) (u : Update) (h : Part.hbm ∉ u.parts) : (s.apply u).hbm = s.hbm := State.apply_same s u .hbm h
theorem State.apply_hbmBad (s : State) (u : Update) (h : Part.hbmBad ∉ u.parts) : (s.apply u).hbmBad = s.hbmBad := State.apply_same s u .hbmBad h
theorem State.apply_qps (s : State) (u : Update) (h : Part.qps ∉ u.parts) : (s.apply u).qps = s.qps := State.apply_same s u .qps h
theorem State.apply_ctlReply (s : State) (u : Update) (h : Part.ctlReply ∉ u.parts) : (s.apply u).ctlReply = s.ctlReply := State.apply_same s u .ctlReply h
theorem State.apply_objects (s : State) (u : Update) (h : Part.objects ∉ u.parts) : (s.apply u).objects = s.objects := State.apply_same s u .objects h
theorem State.apply_beat (s : State) (u : Update) (h : Part.beat ∉ u.parts) : (s.apply u).beat = s.beat := State.apply_same s u .beat h
theorem State.apply_repair (s : State) (u : Update) (h : Part.repair ∉ u.parts) : (s.apply u).repair = s.repair := State.apply_same s u .repair h
theorem State.apply_hubs (s : State) (u : Update) (h : Part.hubs ∉ u.parts) : (s.apply u).hubs = s.hubs := State.apply_same s u .hubs h
theorem State.apply_fieldClamps (s : State) (u : Update) (h : Part.fieldClamps ∉ u.parts) : (s.apply u).fieldClamps = s.fieldClamps := State.apply_same s u .fieldClamps h
theorem State.apply_exitBase (s : State) (u : Update) (h : Part.exitBase ∉ u.parts) : (s.apply u).exitBase = s.exitBase := State.apply_same s u .exitBase h
theorem State.apply_exits (s : State) (u : Update) (h : Part.exits ∉ u.parts) : (s.apply u).exits = s.exits := State.apply_same s u .exits h
theorem State.apply_arb (s : State) (u : Update) (h : Part.arb ∉ u.parts) : (s.apply u).arb = s.arb := State.apply_same s u .arb h
theorem State.apply_testMode (s : State) (u : Update) (h : Part.testMode ∉ u.parts) : (s.apply u).testMode = s.testMode := State.apply_same s u .testMode h
theorem State.apply_models (s : State) (u : Update) (h : Part.models ∉ u.parts) : (s.apply u).models = s.models := State.apply_same s u .models h
theorem State.apply_thermal (s : State) (u : Update) (h : Part.thermal ∉ u.parts) : (s.apply u).thermal = s.thermal := State.apply_same s u .thermal h
theorem State.apply_power (s : State) (u : Update) (h : Part.power ∉ u.parts) : (s.apply u).power = s.power := State.apply_same s u .power h
theorem State.apply_sampler (s : State) (u : Update) (h : Part.sampler ∉ u.parts) : (s.apply u).sampler = s.sampler := State.apply_same s u .sampler h
theorem State.apply_calib (s : State) (u : Update) (h : Part.calib ∉ u.parts) : (s.apply u).calib = s.calib := State.apply_same s u .calib h
theorem State.apply_mcores (s : State) (u : Update) (h : Part.mcores ∉ u.parts) : (s.apply u).mcores = s.mcores := State.apply_same s u .mcores h
theorem State.apply_flash (s : State) (u : Update) (h : Part.flash ∉ u.parts) : (s.apply u).flash = s.flash := State.apply_same s u .flash h
theorem State.apply_ticks (s : State) (u : Update) (h : Part.ticks ∉ u.parts) : (s.apply u).ticks = s.ticks := State.apply_same s u .ticks h
theorem State.apply_deferred (s : State) (u : Update) (h : Part.deferred ∉ u.parts) : (s.apply u).deferred = s.deferred := State.apply_same s u .deferred h
theorem State.apply_cmds (s : State) (u : Update) (h : Part.cmds ∉ u.parts) : (s.apply u).cmds = s.cmds := State.apply_same s u .cmds h
theorem State.apply_col (s : State) (u : Update) (h : Part.col ∉ u.parts) : (s.apply u).col = s.col := State.apply_same s u .col h
theorem State.apply_csp (s : State) (u : Update) (h : Part.csp ∉ u.parts) : (s.apply u).csp = s.csp := State.apply_same s u .csp h
theorem State.apply_owner (s : State) (u : Update) (h : Part.owner ∉ u.parts) : (s.apply u).owner = s.owner := State.apply_same s u .owner h
theorem State.apply_wire (s : State) (u : Update) (h : Part.wire ∉ u.parts) : (s.apply u).wire = s.wire := State.apply_same s u .wire h
theorem State.apply_console (s : State) (u : Update) (h : Part.console ∉ u.parts) : (s.apply u).console = s.console := State.apply_same s u .console h
theorem State.apply_ports (s : State) (u : Update) (h : Part.ports ∉ u.parts) : (s.apply u).ports = s.ports := State.apply_same s u .ports h
theorem State.apply_boot (s : State) (u : Update) (h : Part.boot ∉ u.parts) : (s.apply u).boot = s.boot := State.apply_same s u .boot h
theorem State.apply_image (s : State) (u : Update) (h : Part.image ∉ u.parts) : (s.apply u).image = s.image := State.apply_same s u .image h
theorem State.apply_load (s : State) (u : Update) (h : Part.load ∉ u.parts) : (s.apply u).load = s.load := State.apply_same s u .load h
theorem State.apply_tables (s : State) (u : Update) (h : Part.tables ∉ u.parts) : (s.apply u).tables = s.tables := State.apply_same s u .tables h
theorem State.apply_serving (s : State) (u : Update) (h : Part.serving ∉ u.parts) : (s.apply u).serving = s.serving := State.apply_same s u .serving h
theorem State.apply_group (s : State) (u : Update) (h : Part.group ∉ u.parts) : (s.apply u).group = s.group := State.apply_same s u .group h

@[simp] theorem State.apply_reg_dict (s : State) (k v : Nat) : (s.apply (.reg k v)).dict = AMap.put 0 s.dict k (v % 2 ^ regWidth k) := rfl
@[simp] theorem State.apply_blob_blobs (s : State) (i : Nat) (v : List Byte) : (s.apply (.blob i v)).blobs = AMap.put [] s.blobs i v := rfl
@[simp] theorem State.apply_core_cores (s : State) (k : Nat) (c : Core) : (s.apply (.core k c)).cores = AMap.put Core.fresh s.cores k c := rfl
@[simp] theorem State.apply_spad_spads (s : State) (k a : Nat) (bs : List Byte) : (s.apply (.spad k a bs)).spads = AMap.put [] s.spads k (Mem.write (AMap.get [] s.spads k) a bs) := rfl
@[simp] theorem State.apply_spadAll_spads (s : State)  : (s.apply (.spadAll k m)).spads = AMap.put [] s.spads k (memOf m) := rfl
@[simp] theorem State.apply_net_net (s : State) (ps : List Packet) : (s.apply (.net ps)).net = ps := rfl
@[simp] theorem State.apply_sm_sm (s : State) (a : Nat) (bs : List Byte) : (s.apply (.sm a bs)).sm = Mem.write s.sm a bs := rfl
@[simp] theorem State.apply_smBad_smBad (s : State) (w : Nat) (b : Bool) : (s.apply (.smBad w b)).smBad = AMap.put false s.smBad w b := rfl
@[simp] theorem State.apply_smClear_sm (s : State)  : (s.apply (.smClear)).sm = [] := rfl
@[simp] theorem State.apply_smClear_smBad (s : State)  : (s.apply (.smClear)).smBad = [] := rfl
@[simp] theorem State.apply_smReply_smReply (s : State) (r : Option SmReply) : (s.apply (.smReply r)).smReply = r := rfl
@[simp] theorem State.apply_hbm_hbm (s : State) (a : Nat) (bs : List Byte) : (s.apply (.hbm a bs)).hbm = Mem.write s.hbm a bs := rfl
@[simp] theorem State.apply_hbmBad_hbmBad (s : State) (w : Nat) (b : Bool) : (s.apply (.hbmBad w b)).hbmBad = AMap.put false s.hbmBad w b := rfl
@[simp] theorem State.apply_hbmClear_hbm (s : State)  : (s.apply (.hbmClear)).hbm = [] := rfl
@[simp] theorem State.apply_hbmClear_hbmBad (s : State)  : (s.apply (.hbmClear)).hbmBad = [] := rfl
@[simp] theorem State.apply_qp_qps (s : State) (e : Nat) (q : List HbmReq) : (s.apply (.qp e q)).qps = AMap.put [] s.qps e q := rfl
@[simp] theorem State.apply_ctlReply_ctlReply (s : State) (r : Option CtlReply) : (s.apply (.ctlReply r)).ctlReply = r := rfl
@[simp] theorem State.apply_object_objects (s : State) (n : Nat) (o : SyncObj) : (s.apply (.object n o)).objects = AMap.put SyncObj.none s.objects n o := rfl
@[simp] theorem State.apply_beat_beat (s : State) (b : Beat) : (s.apply (.beat b)).beat = b := rfl
@[simp] theorem State.apply_repair_repair (s : State) (r : Repair) : (s.apply (.repair r)).repair = r := rfl
@[simp] theorem State.apply_fieldClamp_fieldClamps (s : State) (f n : Nat) : (s.apply (.fieldClamp f n)).fieldClamps = AMap.put 0 s.fieldClamps f n := rfl
@[simp] theorem State.apply_exit_exits (s : State) (k v : Nat) : (s.apply (.exit k v)).exits = AMap.put 0 s.exits k v := rfl
@[simp] theorem State.apply_exitsDefault_exitBase (s : State)  : (s.apply (.exitsDefault t)).exitBase = t.foldl (fun m kv => AMap.put 0 m kv.1 kv.2) [] := rfl
@[simp] theorem State.apply_exitsDefault_exits (s : State)  : (s.apply (.exitsDefault t)).exits = [] := rfl
@[simp] theorem State.apply_arb_arb (s : State) (k v : Nat) : (s.apply (.arb k v)).arb = AMap.put 0 s.arb k v := rfl
@[simp] theorem State.apply_arbReset_arb (s : State)  : (s.apply (.arbReset)).arb = [] := rfl
@[simp] theorem State.apply_hub_hubs (s : State) (p : Nat) (x : PerfSet) : (s.apply (.hub p x)).hubs = AMap.put PerfSet.reset s.hubs p x := rfl
@[simp] theorem State.apply_testMode_testMode (s : State) (b : Bool) : (s.apply (.testMode b)).testMode = b := rfl
@[simp] theorem State.apply_model_models (s : State) (i : Nat) (m : Model) : (s.apply (.model i m)).models = AMap.put Model.none s.models i m := rfl
@[simp] theorem State.apply_thermal_thermal (s : State) (t : Thermal) : (s.apply (.thermal t)).thermal = t := rfl
@[simp] theorem State.apply_power_power (s : State) (p : Power) : (s.apply (.power p)).power = p := rfl
@[simp] theorem State.apply_sampler_sampler (s : State) (x : Sampler) : (s.apply (.sampler x)).sampler = x := rfl
@[simp] theorem State.apply_calib_calib (s : State) (x : Calib) : (s.apply (.calib x)).calib = x := rfl
@[simp] theorem State.apply_mcores_mcores (s : State) (x : Mcores) : (s.apply (.mcores x)).mcores = x := rfl
@[simp] theorem State.apply_flash_flash (s : State) (x : Flash) : (s.apply (.flash x)).flash = x := rfl
@[simp] theorem State.apply_tick_ticks (s : State) (k t : Nat) : (s.apply (.tick k t)).ticks = AMap.put 0 s.ticks k t := rfl
@[simp] theorem State.apply_deferred_deferred (s : State) (m : Nat) (l : List (Nat × Nat × List Byte)) : (s.apply (.deferred m l)).deferred = AMap.put [] s.deferred m l := rfl
@[simp] theorem State.apply_cmd_cmds (s : State) (i : Nat) (n : List Nat) : (s.apply (.cmd i n)).cmds = AMap.put [] s.cmds i n := rfl
@[simp] theorem State.apply_col_col (s : State) (i : Nat) (x : Session) : (s.apply (.col i x)).col = AMap.put Session.closed s.col i x := rfl
@[simp] theorem State.apply_csp_csp (s : State) (i : Nat) (x : Session) : (s.apply (.csp i x)).csp = AMap.put Session.closed s.csp i x := rfl
@[simp] theorem State.apply_owner_owner (s : State) (o : Owner) : (s.apply (.owner o)).owner = o := rfl
@[simp] theorem State.apply_line_console (s : State) (l : List Byte) : (s.apply (.line l)).console = s.console.put s.now l := rfl
@[simp] theorem State.apply_ports_ports (s : State) (x : EthPorts) : (s.apply (.ports x)).ports = x := rfl
@[simp] theorem State.apply_boot_boot (s : State) (x : Boot) : (s.apply (.boot x)).boot = x := rfl
@[simp] theorem State.apply_image_image (s : State) (x : ImageCh) : (s.apply (.image x)).image = x := rfl
@[simp] theorem State.apply_load_load (s : State) (x : Load) : (s.apply (.load x)).load = x := rfl
@[simp] theorem State.apply_tables_tables (s : State) (x : Tables) : (s.apply (.tables x)).tables = x := rfl
@[simp] theorem State.apply_serving_serving (s : State) (x : Serving) : (s.apply (.serving x)).serving = x := rfl
@[simp] theorem State.apply_group_group (s : State) (x : Group) : (s.apply (.group x)).group = x := rfl
@[simp] theorem State.apply_smZero_sm (s : State) (a n : Nat) : (s.apply (.smZero a n)).sm = s.sm.filter fun c => c.1 < a || a + n ≤ c.1 := rfl
@[simp] theorem State.apply_smZero_smBad (s : State) (a n : Nat) : (s.apply (.smZero a n)).smBad = s.smBad.filter fun c => 8 * c.1 < a || a + n ≤ 8 * c.1 := rfl
@[simp] theorem State.apply_dict_dict (s : State) (d : List (Nat × Nat)) : (s.apply (.dict d)).dict = d.foldl (fun m kv => AMap.put 0 m kv.1 (kv.2 % 2 ^ regWidth kv.1)) [] := rfl
@[simp] theorem State.apply_time_now (s : State) (t : Nat) : (s.apply (.time t)).now = max s.now t := rfl
@[simp] theorem State.apply_epoch_epoch (s : State) (t : Nat) : (s.apply (.epoch t)).epoch = t := rfl
@[simp] theorem State.apply_drawn_free (s : State)  : (s.apply (.drawn)).free = s.free + 1 := rfl

end Sys2Proof.Machine
end

