-- ==== Sys2Proof/Laws/Prog.lean ====
section
/-! SUPPORT. Running programs: how they compose, what every update keeps, and what a program cannot touch. -/

namespace Sys2Proof.Machine

/-! ### Running -/

@[simp] theorem Prog.run_done (s : State) : Prog.done.run s = .next s := rfl
@[simp] theorem Prog.run_get (k : State → Prog) (s : State) : (Prog.get k).run s = (k s).run s := rfl
@[simp] theorem Prog.run_upd (u : Update) (k : Prog) (s : State) : (Prog.upd u k).run s = k.run (s.apply u) := rfl
@[simp] theorem Prog.run_fault (f : Fault) (s : State) : (Prog.fault f).run s = .fault f := rfl
@[simp] theorem Prog.run_refuse (r : Refusal) (s : State) : (Prog.refuse r).run s = .refused r := rfl
@[simp] theorem Prog.run_one (u : Update) (s : State) : (Prog.one u).run s = .next (s.apply u) := rfl
@[simp] theorem Prog.andThen_done (q : Prog) : Prog.done.andThen q = q := rfl
@[simp] theorem Prog.andThen_one (u : Update) (q : Prog) : (Prog.one u).andThen q = .upd u q := rfl
@[simp] theorem Prog.andThen_upd (u : Update) (p q : Prog) : (Prog.upd u p).andThen q = .upd u (p.andThen q) := rfl
@[simp] theorem Prog.andThen_get (k : State → Prog) (q : Prog) : (Prog.get k).andThen q = .get fun s => (k s).andThen q := rfl
@[simp] theorem Prog.andThen_fault (f : Fault) (q : Prog) : (Prog.fault f).andThen q = .fault f := rfl
@[simp] theorem Prog.andThen_refuse (r : Refusal) (q : Prog) : (Prog.refuse r).andThen q = .refuse r := rfl
@[simp] theorem Prog.seq_nil : Prog.seq [] = .done := rfl
@[simp] theorem Prog.seq_cons (p : Prog) (ps : List Prog) : Prog.seq (p :: ps) = p.andThen (Prog.seq ps) := rfl
@[simp] theorem Prog.ups_nil : Prog.ups [] = .done := rfl
@[simp] theorem Prog.ups_cons (u : Update) (us : List Update) : Prog.ups (u :: us) = .upd u (Prog.ups us) := rfl
@[simp] theorem Prog.when_true (p : Prog) : Prog.when true p = p := rfl
@[simp] theorem Prog.when_false (p : Prog) : Prog.when false p = .done := rfl
@[simp] theorem Prog.each_nil {α : Type} (f : α → Prog) : Prog.each [] f = .done := rfl
@[simp] theorem Prog.each_cons {α : Type} (x : α) (xs : List α) (f : α → Prog) : Prog.each (x :: xs) f = (f x).andThen (Prog.each xs f) := rfl

/-- A program followed by another runs the other where it ends. -/
theorem Prog.run_andThen_next (p q : Prog) (s t : State) (h : p.run s = .next t) : (p.andThen q).run s = q.run t := by
  induction p generalizing s with
  | done => cases h; rfl
  | get k ih => exact ih s s h
  | upd u k ih => exact ih _ h
  | fault f => cases h
  | refuse r => cases h

/-- A program whose first part stops stops so. -/
theorem Prog.run_andThen (p q : Prog) (s : State) :
    (p.andThen q).run s = match p.run s with
      | .next t => q.run t
      | .fault f => .fault f
      | .refused r => .refused r := by
  induction p generalizing s with
  | done => rfl
  | get k ih => exact ih s s
  | upd u k ih => exact ih _
  | fault f => rfl
  | refuse r => rfl

theorem Prog.andThen_assoc (p q r : Prog) : (p.andThen q).andThen r = p.andThen (q.andThen r) := by
  induction p with
  | done => rfl
  | get k ih => simp only [Prog.andThen, ih]
  | upd u k ih => simp only [Prog.andThen, ih]
  | fault f => rfl
  | refuse r => rfl

@[simp] theorem Prog.andThen_done_right (p : Prog) : p.andThen .done = p := by
  induction p with
  | done => rfl
  | get k ih => simp only [Prog.andThen, ih]
  | upd u k ih => simp only [Prog.andThen, ih]
  | fault f => rfl
  | refuse r => rfl

/-! ### What every update keeps, every program keeps -/

/-- A relation that holds of every update a program uses holds between where it starts and where it ends. -/
theorem Prog.run_rel (r : State → State → Prop) (q : Update → Prop) (refl : ∀ s, r s s) (trans : ∀ a b c, r a b → r b c → r a c)
    (step : ∀ s u, q u → r s (s.apply u)) (p : Prog) (hp : p.uses q) (s t : State) (h : p.run s = .next t) : r s t := by
  induction p generalizing s with
  | done => cases h; exact refl _
  | get k ih => exact ih s (hp s) s h
  | upd u k ih => exact trans _ _ _ (step s u hp.1) (ih hp.2 _ h)
  | fault f => cases h
  | refuse r => cases h

/-- A property that no update breaks, no program breaks. -/
theorem Prog.run_keeps (i : State → Prop) (step : ∀ s u, i s → i (s.apply u)) (p : Prog) (s t : State) (hs : i s) (h : p.run s = .next t) : i t := by
  induction p generalizing s with
  | done => cases h; exact hs
  | get k ih => exact ih s s hs h
  | upd u k ih => exact ih _ (step s u hs) h
  | fault f => cases h
  | refuse r => cases h

/-- No program touches the queue. -/
theorem Prog.run_pending (p : Prog) (s t : State) (h : p.run s = .next t) : t.pending = s.pending := by
  induction p generalizing s with
  | done => cases h; rfl
  | get k ih => exact ih s s h
  | upd u k ih => rw [ih _ h, State.apply_pending]
  | fault f => cases h
  | refuse r => cases h

/-- A total program ends in a next state. -/
theorem Prog.run_total (p : Prog) (hp : p.total) (s : State) : ∃ t, p.run s = .next t := by
  induction p generalizing s with
  | done => exact ⟨s, rfl⟩
  | get k ih => exact ih s (hp s) s
  | upd u k ih => exact ih hp _
  | fault f => exact hp.elim
  | refuse r => exact hp.elim

/-- A program leaves the parts alone that none of its updates names. -/
theorem Prog.run_same (ps : List Part) (p : Prog) (hp : p.uses fun u => ∀ x ∈ u.parts, x ∈ ps) (s t : State) (h : p.run s = .next t) :
    State.sameBut ps s t := by
  refine Prog.run_rel (State.sameBut ps) _ ?_ ?_ ?_ p hp s t h
  · intro a x _; cases x <;> rfl
  · intro a b c h1 h2 x hx
    have e1 := h1 x hx
    have e2 := h2 x hx
    cases x <;> simp only [State.same] at * <;> rw [e2, e1]
  · intro a u hu x hx
    exact State.apply_same a u x fun hm => hx (hu x hm)

/-! ### Composition of what programs use, and of total programs -/

theorem Prog.uses_andThen (q : Update → Prop) (p p' : Prog) (h : p.uses q) (h' : p'.uses q) : (p.andThen p').uses q := by
  induction p with
  | done => exact h'
  | get k ih => exact fun s => ih s (h s)
  | upd u k ih => exact ⟨h.1, ih h.2⟩
  | fault f => trivial
  | refuse r => trivial

theorem Prog.uses_seq (q : Update → Prop) (ps : List Prog) (h : ∀ p ∈ ps, p.uses q) : (Prog.seq ps).uses q := by
  induction ps with
  | nil => trivial
  | cons p ps ih => exact Prog.uses_andThen q p _ (h p (List.mem_cons_self ..)) (ih fun x hx => h x (List.mem_cons_of_mem _ hx))

theorem Prog.uses_each {α : Type} (q : Update → Prop) (xs : List α) (f : α → Prog) (h : ∀ x, (f x).uses q) : (Prog.each xs f).uses q :=
  Prog.uses_seq q _ fun p hp => by
    obtain ⟨x, -, rfl⟩ := List.mem_map.1 hp
    exact h x

theorem Prog.uses_ups (q : Update → Prop) (us : List Update) (h : ∀ u ∈ us, q u) : (Prog.ups us).uses q := by
  induction us with
  | nil => trivial
  | cons u us ih => exact ⟨h u (List.mem_cons_self ..), ih fun x hx => h x (List.mem_cons_of_mem _ hx)⟩

theorem Prog.uses_when (q : Update → Prop) (b : Bool) (p : Prog) (h : p.uses q) : (Prog.when b p).uses q := by
  cases b
  · trivial
  · exact h

theorem Prog.uses_one (q : Update → Prop) (u : Update) (h : q u) : (Prog.one u).uses q := ⟨h, trivial⟩

theorem Prog.total_andThen (p p' : Prog) (h : p.total) (h' : p'.total) : (p.andThen p').total := by
  induction p with
  | done => exact h'
  | get k ih => exact fun s => ih s (h s)
  | upd u k ih => exact ih h
  | fault f => exact h.elim
  | refuse r => exact h.elim

theorem Prog.total_seq (ps : List Prog) (h : ∀ p ∈ ps, p.total) : (Prog.seq ps).total := by
  induction ps with
  | nil => trivial
  | cons p ps ih => exact Prog.total_andThen p _ (h p (List.mem_cons_self ..)) (ih fun x hx => h x (List.mem_cons_of_mem _ hx))

theorem Prog.total_each {α : Type} (xs : List α) (f : α → Prog) (h : ∀ x, (f x).total) : (Prog.each xs f).total :=
  Prog.total_seq _ fun p hp => by
    obtain ⟨x, -, rfl⟩ := List.mem_map.1 hp
    exact h x

theorem Prog.total_ups (us : List Update) : (Prog.ups us).total := by
  induction us with
  | nil => trivial
  | cons u us ih => exact ih

theorem Prog.total_when (b : Bool) (p : Prog) (h : p.total) : (Prog.when b p).total := by
  cases b
  · trivial
  · exact h

/-! ### The canonical form -/

theorem dictFits_put (d : AMap Nat) (k v : Nat) (h : dictFits d) : dictFits (AMap.put 0 d k (v % 2 ^ regWidth k)) := by
  intro kv hkv
  rcases AMap.mem_put 0 d k _ kv hkv with rfl | hm
  · exact Nat.mod_lt _ (Nat.two_pow_pos _)
  · exact h kv hm

theorem dictFits_foldl (l : List (Nat × Nat)) (d : AMap Nat) (hw : AMap.wf 0 d = true) (h : dictFits d) :
    AMap.wf 0 (l.foldl (fun m kv => AMap.put 0 m kv.1 (kv.2 % 2 ^ regWidth kv.1)) d) = true ∧
    dictFits (l.foldl (fun m kv => AMap.put 0 m kv.1 (kv.2 % 2 ^ regWidth kv.1)) d) := by
  induction l generalizing d with
  | nil => exact ⟨hw, h⟩
  | cons a l ih => exact ih _ (AMap.wf_put 0 d _ _ hw) (dictFits_put d _ _ h)

theorem memOf_wf (runs : List (Nat × List Byte)) : Mem.wf (memOf runs) = true := by
  unfold memOf
  suffices h : ∀ m : Mem, Mem.wf m = true → Mem.wf (runs.foldl (fun m r => Mem.write m r.1 r.2) m) = true from h [] rfl
  induction runs with
  | nil => exact fun m h => h
  | cons r rs ih => exact fun m h => ih _ (Mem.wf_write m _ _ h)

theorem spads_put (m : AMap Mem) (k : Nat) (v : Mem) (hv : Mem.wf v = true) (h : ∀ kv ∈ m, Mem.wf kv.2 = true) :
    ∀ kv ∈ AMap.put [] m k v, Mem.wf kv.2 = true := by
  intro kv hkv
  rcases AMap.mem_put [] m k v kv hkv with rfl | hm
  · exact hv
  · exact h kv hm

/-- Every update keeps the canonical form. -/
theorem State.Canonical.apply {s : State} (h : s.Canonical) (u : Update) : (s.apply u).Canonical := by
  have hsp : ∀ k, Mem.wf (AMap.get [] s.spads k) = true := AMap.get_all [] s.spads (fun _ m => Mem.wf m = true) (fun _ => rfl) h.spad
  cases u
  case sent d => rcases State.sendFrame_eq s d with e | e | ⟨x, e⟩ <;> simp only [State.apply, e] <;> exact { h with }
  case reg k v => exact { h with dict := AMap.wf_put 0 _ _ _ h.dict, fits := dictFits_put _ _ _ h.fits }
  case blob k v => exact { h with blobs := AMap.wf_put _ _ _ _ h.blobs }
  case core k v => exact { h with cores := AMap.wf_put _ _ _ _ h.cores }
  case spad k a bs => exact { h with spads := AMap.wf_put _ _ _ _ h.spads, spad := spads_put _ _ _ (Mem.wf_write _ _ _ (hsp k)) h.spad }
  case spadAll k m => exact { h with spads := AMap.wf_put _ _ _ _ h.spads, spad := spads_put _ _ _ (memOf_wf m) h.spad }
  case sm a bs => exact { h with sm := Mem.wf_write _ _ _ h.sm }
  case smBad => exact { h with smBad := AMap.wf_put _ _ _ _ h.smBad }
  case smClear => exact { h with sm := rfl, smBad := rfl }
  case hbm a bs => exact { h with hbm := Mem.wf_write _ _ _ h.hbm }
  case hbmBad => exact { h with hbmBad := AMap.wf_put _ _ _ _ h.hbmBad }
  case hbmClear => exact { h with hbm := rfl, hbmBad := rfl }
  case qp => exact { h with qps := AMap.wf_put _ _ _ _ h.qps }
  case object => exact { h with objects := AMap.wf_put _ _ _ _ h.objects }
  case fieldClamp => exact { h with fieldClamps := AMap.wf_put _ _ _ _ h.fieldClamps }
  case exit => exact { h with exits := AMap.wf_put _ _ _ _ h.exits }
  case exitsDefault t => exact { h with exitBase := AMap.wf_foldl_put _ _ _ rfl, exits := rfl }
  case arb => exact { h with arb := AMap.wf_put _ _ _ _ h.arb }
  case arbReset => exact { h with arb := rfl }
  case hub => exact { h with hubs := AMap.wf_put _ _ _ _ h.hubs }
  case model => exact { h with models := AMap.wf_put _ _ _ _ h.models }
  case tick => exact { h with ticks := AMap.wf_put _ _ _ _ h.ticks }
  case deferred => exact { h with deferred := AMap.wf_put _ _ _ _ h.deferred }
  case cmd => exact { h with cmds := AMap.wf_put _ _ _ _ h.cmds }
  case col => exact { h with col := AMap.wf_put _ _ _ _ h.col }
  case csp => exact { h with csp := AMap.wf_put _ _ _ _ h.csp }
  case smZero a n => exact { h with sm := Mem.wf_filter _ _ h.sm, smBad := AMap.wf_filter _ _ _ h.smBad }
  case dict d => exact { h with dict := (dictFits_foldl d [] rfl (by intro kv h; cases h)).1, fits := (dictFits_foldl d [] rfl (by intro kv h; cases h)).2 }
  all_goals exact { h with }

end Sys2Proof.Machine
end

