-- ==== Sys2Proof/Laws/Exec.lean ====
section
/-! SUPPORT. The meaning of every command is a program. -/

namespace Sys2Proof.Machine

/-- The meaning of every command is a program that the state does not choose. -/
theorem exec_prog (c : Instr) : ∃ p : Prog, ∀ s, exec c s = p.run s := by
  cases c <;> exact ⟨_, fun _ => rfl⟩

end Sys2Proof.Machine
end

