-- ==== Sys2Proof/Laws/Steps.lean ====
section
/-! SUPPORT. Steps of a core: what a step that completes, is held or raises a void does to the state. -/

namespace Sys2Proof.Machine

/-- Clean rows raise no void. -/
theorem core_find_none (s : State) (c : CoreId) (rows : List Nat) (h : RowsClean s c rows) : (rows.find? fun n => (s.core c.key).readBad n) = none := by
  rw [List.find?_eq_none]; intro n hn; simp [h n hn]
@[simp] theorem State.apply_core_core (s : State) (k : Nat) (x : Core) : (s.apply (.core k x)).core k = x := by simp [State.core]
/-- Writing whole rows one after another stores them. -/
theorem each_writes (k : Nat) (ws : List (Nat × Row)) (s : State) : (Prog.each ws fun w => writeRow k w.1 w.2).run s = .next (s.storeRows k ws) := by
  induction ws generalizing s with
  | nil => rfl
  | cons w ws ih => 
    simp only [Prog.each_cons]
    rw [Prog.run_andThen_next _ _ s (s.storeRow k w)]
    · exact ih _
    · rfl
/-- A step without narrow writes or sync objects that reads clean rows commits to its core and its rows. -/
theorem commit_run (s : State) (c : CoreId) (e : Eff) (hn : e.narrow = []) (ho : e.objs = []) (h : RowsClean s c e.reads) :
    (commit c.key e).run s = .next (s.after c e.core e.reads e.writes) := by
  simp only [commit, Prog.run_get, core_find_none s c _ h, hn, ho, List.map_nil, List.append_nil, Prog.ups_nil, Prog.each_nil, Prog.seq_cons, Prog.seq_nil, setCore,
    Prog.andThen_one, Prog.run_upd, Prog.andThen_done_right]
  exact each_writes _ _ _

/-- A step that begins ends as its meaning says in the state it acts in. -/
theorem unit_begins {s t : State} {c : CoreId} {i : Instr} {f : State → Core → Except StepStop Eff} (hb : Begins s c i t) (hf : stepOf c.key i = some f) :
    (unitStep c i).run s = (finishStep c i (f t (t.core c.key))).run t := by
  obtain ⟨⟨hv, ho⟩, hw, rfl⟩ := hb
  unfold WordFree at hw
  unfold unitStep withCore
  simp only [hv, if_true, Prog.run_get, ho, Bool.not_true, Bool.false_eq_true, if_false, hf]
  by_cases hi : (s.core c.key).issued = 0
  · obtain ⟨h1, h2⟩ := hw hi
    simp only [hi, if_true, h1, h2, State.begun]
    rfl
  · simp only [hi, if_false, State.begun]
    rfl

/-- A step that begins and completes. -/
theorem unit_run {s t : State} {c : CoreId} {i : Instr} {f : State → Core → Except StepStop Eff} (hb : Begins s c i t) (hf : stepOf c.key i = some f)
    {e : Eff} (he : f t (t.core c.key) = .ok e) (hn : e.narrow = []) (ho : e.objs = []) (h : RowsClean t c e.reads) :
    (unitStep c i).run s = .next (t.after c e.core e.reads e.writes) := by
  rw [unit_begins hb hf, he]
  exact commit_run t c e hn ho h
@[simp] theorem Core.countReads_nil (c : Core) : c.countReads [] = c := by simp [Core.countReads]
theorem clean_nil (s : State) (c) : RowsClean s c [] := by intro n h; cases h
/-- A read that succeeds passed its guard. -/
theorem Reads.ready {s c h i n rows stored} (hh : Reads s c h i n rows stored) : guardReady (s.core c.key) h = .ok () := by
  have := hh.1
  unfold readRows at this
  generalize hg : guardReady (s.core c.key) h = g at this
  rcases g with e | u
  · cases this
  · rfl

@[simp] theorem ok_bind {ε α β} (a : α) (f : α → Except ε β) : (Except.ok a >>= f) = f a := rfl
@[simp] theorem ok_map {ε α β} (a : α) (f : α → β) : (f <$> (Except.ok a : Except ε α)) = .ok (f a) := rfl

@[simp] theorem Core.keepOld_nil (c : Core) (s : State) (k : Nat) : c.keepOld s k [] = c := by simp [Core.keepOld]
/-- A step that reads and stores nothing leaves the core's record and nothing else. -/
@[simp] theorem State.after_nil (s : State) (c : CoreId) (x : Core) : s.after c x [] [] = s.putCore c x := by simp [State.after, State.storeRows]

/-- A step that changes only the core's record. -/
theorem core_run {s t : State} {c : CoreId} {i : Instr} {g : Core → Core} (hb : Begins s c i t) (hf : stepOf c.key i = some (onCore g)) :
    (unitStep c i).run s = .next (t.putCore c (g (t.core c.key))) := by
  have h := unit_run hb hf (e := { core := g (t.core c.key) }) rfl rfl rfl (clean_nil t c)
  simpa using h

/-- A step that begins and is held stalls the core. -/
theorem unit_hold {s t : State} {c : CoreId} {i : Instr} {f : State → Core → Except StepStop Eff} (hb : Begins s c i t) (hf : stepOf c.key i = some f)
    {cause : StallCause} {more : List StallCause} (he : f t (t.core c.key) = .error (.hold cause more)) : (unitStep c i).run s = (stallCore c cause more i).run t := by
  rw [unit_begins hb hf, he]; rfl

/-- A step that begins and raises a void. -/
theorem unit_void {s t : State} {c : CoreId} {i : Instr} {f : State → Core → Except StepStop Eff} (hb : Begins s c i t) (hf : stepOf c.key i = some f)
    {code row : Nat} (he : f t (t.core c.key) = .error (.void code row)) : (unitStep c i).run s = (voidCore c.key code row).run t := by
  rw [unit_begins hb hf, he]; rfl

/-- A word whose first step is offered and that has to wait holds the core (R76). -/
theorem unit_waits {s : State} {c : CoreId} {i j : Instr} {f : State → Core → Except StepStop Eff} (ho : Offered s c i) (hf : stepOf c.key i = some f)
    (hi : (s.core c.key).issued = 0) {cause : StallCause} (hw : wordHold s c (s.core c.key) = some (cause, j)) :
    (unitStep c i).run s = (stallCore c cause (otherHolds s c (s.core c.key)) j).run s := by
  unfold unitStep withCore
  simp only [ho.1, if_true, Prog.run_get, ho.2, Bool.not_true, Bool.false_eq_true, if_false, hf, hi, hw]

/-- A word whose first step is offered and whose accesses clash raises a void (R53). -/
theorem unit_clashes {s : State} {c : CoreId} {i : Instr} {f : State → Core → Except StepStop Eff} (ho : Offered s c i) (hf : stepOf c.key i = some f)
    (hi : (s.core c.key).issued = 0) (hw : wordHold s c (s.core c.key) = none) {row : Nat}
    (hc : firstClash (s.core c.key).claims (wordClaims s c (s.core c.key)) = some row) :
    (unitStep c i).run s = (voidCore c.key codeBank row).run s := by
  unfold unitStep withCore
  simp only [ho.1, if_true, Prog.run_get, ho.2, Bool.not_true, Bool.false_eq_true, if_false, hf, hi, hw, hc]

end Sys2Proof.Machine
end

