-- ==== Sys2Proof/Tests/Slice0.lean ====
section
/-! SUPPORT. The model's own tests: words written out from the spec's encodings, ill-formed terms that WellFormed refuses, small steps, and for each statement with hypotheses a state that meets them. -/

namespace Sys2Proof.Tests

set_option Elab.async false

open Sys2Proof.Machine

/-! ### Small states -/

/-- A dictionary from (index, sub-index, value). -/
def regsOf (l : List (Nat × Nat × Nat)) : AMap Nat := l.foldl (fun m x => AMap.put 0 m (regKey x.1 x.2.1) x.2.2) []

/-- A machine with nothing but some dictionary elements: beat period 2500 ns, all fields where an empty skip vector puts them. -/
def bare (l : List (Nat × Nat × Nat)) : State := { State.reset with dict := regsOf ((0x3003, 0, 2500) :: l) }

def c0 : CoreId := ⟨0, 0, 0⟩

/-- A handle entry (R58): base, length, mode, format, stride, run. -/
def handleOf (base length mode fmt stride run : Nat) : Nat := base * 2 ^ 112 + length * 2 ^ 96 + mode * 2 ^ 94 + fmt * 2 ^ 90 + stride * 2 ^ 52 + run * 2 ^ 44
/-- The same with a guard: counter, target, FULL. -/
def guarded (h ctr target : Nat) (full : Bool) : Nat := h + 2 ^ 89 + ctr * 2 ^ 84 + target * 2 ^ 68 + boolNat full * 2 ^ 43

/-- One core of the wafer, of such a record and scratchpad. -/
def oneCore (c : Core) (m : Mem) : State := { bare [] with cores := [(c0.key, c)], spads := if m = [] then [] else [(c0.key, m)] }

/-- A core whose handles 1 to 5 are raw, FP32, BF16, K8 and K4 of 1000 rows each from row 0. -/
def handles5 : Core := { Core.fresh with handles := [(1, handleOf 0 1000 0 0 0 0), (2, handleOf 0 1000 0 1 0 0), (3, handleOf 0 1000 0 2 0 0), (4, handleOf 0 1000 0 3 0 0), (5, handleOf 0 1000 0 4 0 0)] }
def st5 : State := oneCore handles5 []

/-- What a read gives, when it succeeds. -/
def got (s : State) (h i n : Nat) : List Row × List Nat := match readRows s c0.key (s.core c0.key) h i n with
  | .ok r => r
  | .error _ => ([], [])
/-- Where a write lands. -/
def put (s : State) (h i : Nat) (data : List Row) : List (Nat × Row) := match writeRows (s.core c0.key) h i data with
  | .ok r => r
  | .error _ => []

/-- Reading and landing, as checks. -/
def readsOk (s : State) (h i n : Nat) : Bool := match readRows s c0.key (s.core c0.key) h i n with
  | .ok r => r.2.all fun k => (s.core c0.key).readBad k == false
  | .error _ => false
def landsOk (s : State) (h i : Nat) (data : List Row) : Bool := match writeRows (s.core c0.key) h i data with
  | .ok _ => true
  | .error _ => false

theorem reads_of_check {s : State} {h i n : Nat} (k : readsOk s h i n = true) : Reads s c0 h i n (got s h i n).1 (got s h i n).2 := by
  unfold readsOk at k; unfold got Reads RowsClean
  split at k
  · rename_i r hr; simp only [hr]; exact ⟨trivial, fun n hn => by simpa using List.all_eq_true.1 k n hn⟩
  · cases k

theorem lands_of_check {s : State} {h i : Nat} {data : List Row} (k : landsOk s h i data = true) : Lands s c0 h i data (put s h i data) := by
  unfold landsOk at k; unfold put Lands
  split at k
  · rename_i r hr; simp only [hr]
  · cases k

/-- The word that holds one step and nothing else. -/
def wordOf (i : Instr) : Nat := match encodeSlot i with
  | some (n, w) => w * 2 ^ ([96, 64, 48, 16, 0].getD n 0)
  | none => 0
/-- Core 0 runs, with this step alone in the word at its pc. -/
def offering (s : State) (i : Instr) : State :=
  { s with cores := AMap.put Core.fresh s.cores 0 { s.core 0 with run := .issuing, store := AMap.put 0 (s.core 0).store (s.core 0).pc (wordOf i) } }
/-- The state the step acts in. -/
def acting (s : State) (i : Instr) : State := (offering s i).begun c0 i
def offeredOk (s : State) (i : Instr) : Bool := ((offering s i).core 0).offers c0 i
/-- The step begins and the state it acts in has a property. -/
def beginsOk (s : State) (i : Instr) (p : State → Bool) : Bool :=
  offeredOk s i && (wordHold (offering s i) c0 ((offering s i).core 0)).isNone &&
    (firstClash ((offering s i).core 0).claims (wordClaims (offering s i) c0 ((offering s i).core 0))).isNone && p (acting s i)

theorem begins_of_check {s : State} {i : Instr} {p : State → Bool} (k : beginsOk s i p = true) : Begins (offering s i) c0 i (acting s i) ∧ p (acting s i) = true := by
  simp only [beginsOk, Bool.and_eq_true, Option.isNone_iff_eq_none] at k
  exact ⟨⟨⟨by decide +kernel, k.1.1.1⟩, fun _ => ⟨k.1.1.2, k.1.2⟩, rfl⟩, k.2⟩

/-! ### Step words written out from the spec's encodings (R75, R81, R86, R91, R96, R100) -/

def core9 : CoreId := ⟨3, 23, 7⟩

theorem test_decode_matrix :
    decodeSlot core9 0 0x15080000 = some (.mload core9 20 1 false 0) ∧ decodeSlot core9 0 0x20C13C00 = some (.mmul core9 3 0 false false true 15) ∧
    decodeSlot core9 0 0x31427801 = some (.mout core9 5 0 false true 15 1) ∧ decodeSlot core9 0 0 = some (.mnop core9) := by decide +kernel

theorem test_decode_vector :
    decodeSlot core9 1 (0x01 <<< 26 ||| 13 <<< 22 ||| 41 <<< 16 ||| 5 <<< 13 ||| 200 <<< 5 ||| 1 <<< 3) = some (.vld core9 13 41 5 200 1) ∧
    decodeSlot core9 1 (0x06 <<< 26 ||| 6 <<< 22 ||| 9 <<< 16 ||| 2 <<< 3 ||| 4) = some (.vqst core9 6 9 0 0 2 4) ∧
    decodeSlot core9 1 (0x13 <<< 26 ||| 3 <<< 22 ||| 3 <<< 18 ||| 4 <<< 14 ||| 5 <<< 10 ||| 1 <<< 9) = some (.fma core9 3 3 4 5 true) ∧
    decodeSlot core9 1 (0x20 <<< 26 ||| 1 <<< 22 ||| 2 <<< 18 ||| 1) = some (.fcvt core9 1 2 true) := by decide +kernel

theorem test_decode_attention :
    decodeSlot core9 2 0x4A8B = some (.apage core9 42 1 true true) ∧ decodeSlot core9 2 0x1002 = some (.acfg core9 2) ∧ decodeSlot core9 2 0x8000 = none := by decide +kernel

theorem test_decode_mover :
    decodeSlot core9 3 (0x01 <<< 27 ||| 4 <<< 21 ||| 1 <<< 18 ||| 6 <<< 12 ||| 2 <<< 9 ||| 63 <<< 3 ||| 5) = some (.dcpy core9 4 1 6 2 63 5) ∧
    decodeSlot core9 3 (0x02 <<< 27 ||| 30 <<< 21 ||| 5 <<< 18 ||| 11 <<< 12 ||| 7 <<< 9 ||| 15 <<< 5) = some (.dsend core9 30 5 11 7 15 0) ∧
    decodeSlot core9 3 (0x08 <<< 27 ||| 2 <<< 21 ||| 3 <<< 16) = none := by decide +kernel

theorem test_decode_sequencer :
    decodeSlot core9 4 0x1484 = some (.wait core9 9 4) ∧ decodeSlot core9 4 0x8401 = some (.xadd core9 2 1) ∧ decodeSlot core9 4 0x6500 = some (.loop core9 5) ∧
    decodeSlot core9 4 0xB284 = some (.beat core9 644) ∧ decodeSlot core9 4 0xC000 = some (.done core9) ∧ decodeSlot core9 4 0xD000 = none := by decide +kernel

/-! ### Ill-formed terms that WellFormed refuses -/

theorem test_wellformed_refuses :
    [Instr.vld ⟨0, 0, 24⟩ 0 0 0 0 0, .vld c0 0 0 0 0 2, .vst c0 0 0 0 0 3 0, .vqend c0 1, .vqend c0 0, .vbcst c0 0 0 false 64, .dctr c0 0 0 3 0, .pset c0 0 true,
      .write (.given ⟨0, 0, List.replicate 17 0⟩) c0, .qdata (.given ⟨0, 0, List.replicate 17 0⟩) c0, .qput (.inFlight 0) 0x180, .hbmReadDone 0x180, .hbmWriteDone 0x180,
      .controlAccess 6 0 0 0 (.handle 0 0) .read, .controlAccess 0 88 0 0 (.handle 0 0) .read, .controlAccess 0 0 32 0 (.handle 0 0) .read, .smRead .root 60 8, .smRead .root 0 7,
      .smRead (.tumbler 24) 0 8, .smWrite .root (2 ^ 28) (List.replicate 8 0) 0, .smCas .root 4 0 0, .smFetchAdd .root (2 ^ 28) 0, .smFence (.mcore 6), .candidateRow 24 (.inFlight 0),
      .candidateMissing 0 32, .issueRecord 24 (.inFlight 0), .transmitRecord 2, .queuedResend 16384, .pauseImageDone 16384, .entryReclaimTimeout 16384, .linkPacketSend 32 (.inFlight 0),
      .linkDown 32, .holdCompleteReport 8, .drainEnd 3, .modelStart 3, .data ⟨34, 0, 0⟩ 0 0 [], .notfound ⟨34, 0, 0⟩ 0,
      .fwStage 0 0 (List.replicate 8193 0), .colOpen ⟨2, 0, 0⟩ 0 0 0, .cspOpen ⟨2, 0, 0⟩ 0 0, .portDown 2, .portUp 0 4, .announce 2, .mailboxRequest 6 0 0, .watchdogTimeout 6,
      .mcoreTrap 6, .mcoreServiceResume 6, .logAppend 6 0 0 [], .logAppend 0 0 6 [], .fieldRampDone 88, .stepRaiseWrite 88, .converterFail 24, .senseFault 0 2 0, .catchFire 88 0,
      .catchExhaust 0 2, .catchRelease 88, .railIsolated 88 0, .marginRelease 88, .refLost 2, .refDetected 2, .cablePresentChange 32 true, .droppedFrame 2].all (fun i => !i.wf) = true := by
  decide +kernel

theorem test_wellformed_accepts :
    [Instr.vld ⟨79, 23, 23⟩ 15 63 7 255 1, .vqend c0 0x10, .vbcst c0 0 0 true 127, .smRead .root (2 ^ 28 - 64) 64, .candidateMissing 23 31, .queuedResend 16383, .portUp 1 3].all
      (fun i => i.wf) = true := by decide +kernel

/-! ### Worked examples of the spec -/

/-- R22's example: two logical cores of F23 in P26 (spec/01). -/
theorem test_repair_map :
    mapField { Repair.reset with fs := AMap.put 10 [] 2 1 } 23 = 26 ∧
    (let r := { Repair.reset with cs := AMap.put 24 (AMap.put 24 [] (23 * 32 + 3) 20) (23 * 32 + 5) 9, rs := AMap.put 24 [] (23 * 32 + 18) 3 }
     mapCore r 23 5 17 = (6, 18) ∧ mapCore r 23 5 16 = (5, 17) ∧ mapCore r 23 4 17 = (4, 17)) := by decide +kernel

/-- The block of R119's example: 15.0 at 3, -0.9 at 17, 1.4 at 20, 0.05 at 9, else 0.6. -/
def exampleBlock : List Nat := (List.range 32).map fun i =>
  if i = 3 then 0x41700000 else if i = 17 then 0xBF666666 else if i = 20 then 0x3FB33333 else if i = 9 then 0x3D4CCCCD else 0x3F19999A

theorem test_quantise_with_side_path :
    (quantBlock fmtK4 1 exampleBlock).scale = 0x7D ∧ (quantBlock fmtK4 1 exampleBlock).entries = [0x0367] ∧
    [3, 17, 20, 9, 0].map (fun i => (quantBlock fmtK4 1 exampleBlock).codes.getD i 99) = [0x0, 0xE, 0x7, 0x0, 0x4] ∧
    ((quantBlock fmtK4 1 exampleBlock).sat, (quantBlock fmtK4 1 exampleBlock).zeroed, (quantBlock fmtK4 1 exampleBlock).ovf) = (0, 1, 0) := by decide +kernel

theorem test_quantise_without_side_path :
    (quantBlock fmtK4 0 exampleBlock).scale = 0x80 ∧ [3, 17, 20, 9, 0].map (fun i => (quantBlock fmtK4 0 exampleBlock).codes.getD i 99) = [0x7, 0x9, 0x1, 0x0, 0x1] ∧
    ((quantBlock fmtK4 0 exampleBlock).sat, (quantBlock fmtK4 0 exampleBlock).zeroed) = (1, 1) := by decide +kernel

/-- R128's example: one element of 3.0 at 5 becomes 0.375 everywhere, negative at 1 and 4. -/
theorem test_spin :
    (let y := spin 6 0 ((List.range 64).map fun i => if i = 5 then 0x40400000 else 0)
     [0, 1, 4, 5].map (fun i => y.getD i 0) = [0x3EC00000, 0xBEC00000, 0xBEC00000, 0x3EC00000] ∧ y.all (fun v => v % 2 ^ 31 == 0x3EC00000)) = true := by decide +kernel

/-- R164's example: the frame and the slot of page 19 214 (spec/06). -/
theorem test_frame_address :
    (let a := (264 * 2 ^ 112 + 2 ^ 111 + 7 * 2 ^ 107 : Nat)
     apRows a = 264 ∧ posBytes a = 128 ∧ 10240 + 37 * apRows a = 20008 ∧ 0x18000000 * 64 + 19214 / 16 * (apRows a + 1) * 64 = 0x601368C00) := by decide +kernel

/-! ### Results of steps -/

/-- The outcome of a command, when it is a next state with a property. -/
def leaves (i : Instr) (s : State) (p : State → Bool) : Bool := match exec i s with
  | .next t => p t
  | _ => false

def vstate : State := oneCore { Core.fresh with v := [(1, packLanes 32 ((List.range 64).map fun i => if i = 7 then 0x40400000 else if i = 9 then 0x7FC00000 else 0x3F800000)), (2, packLanes 32 (List.replicate 64 0x40000000))] } []

theorem test_fma_and_topk :
    leaves (.fma c0 3 1 2 2 false) (offering vstate (.fma c0 3 1 2 2 false)) (fun t => laneOf false ((t.core 0).vreg 3) 7 == 0x41000000 && laneOf false ((t.core 0).vreg 3) 9 == 0x7FC00000) = true ∧
    leaves (.vtopk c0 3 1) (offering vstate (.vtopk c0 3 1)) (fun t => (List.range 16).map (laneOf false ((t.core 0).vreg 3)) ==
      [0x40400000] ++ List.replicate 7 0x3F800000 ++ [7, 0, 1, 2, 3, 4, 5, 6]) = true := by decide +kernel

/-- A step that no word names, at a running core or an idle one, changes nothing (R50). -/
theorem test_no_turn : leaves (.fma c0 3 1 2 2 false) (offering vstate (.vtopk c0 3 1)) (fun t => (t.core 0).vreg 3 == 0) = true ∧
    leaves (.fma c0 3 1 2 2 false) vstate (fun t => (t.core 0).vreg 3 == 0) = true := by decide +kernel

/-- The loop of R101's example: LOOP sets X1 to 8. -/
theorem test_loop :
    leaves (.loop c0 5) (offering (oneCore { Core.fresh with loops := [(5, 302 * 2 ^ 51 + 3 * 2 ^ 35 + 1 * 2 ^ 32 + 4 * 2 ^ 16 + 8)], pc := 300, left := 9, words := 400 } []) (.loop c0 5))
      (fun t => (t.core 0).xreg 1 == 8 && ((t.core 0).stack.map fun f => (f.start, f.left)) == [(301, some 3)]) = true := by decide +kernel

/-! ### Hypotheses met: cores -/

def bankState : State := oneCore { handles5 with wb := [(0, ⟨fmtBf16, 0, 1, 0, 0⟩)] } []

/-- MatrixSteps: MLOAD of K4, MMUL of BF16 at the end of the handle, MOUT wide and narrow. -/
theorem test_MatrixSteps_hypotheses :
    fmtOf bankState c0 5 ∈ weightFmts ∧
    beginsOk bankState (.mload c0 5 0 false 0) (fun t => readsOk t 5 0 (8 * fmtBits (fmtOf t c0 5) + tileScaleRows (fmtOf t c0 5) + 4 * outCount (fmtOf t c0 5) 0)) = true ∧
    beginsOk bankState (.mmul c0 3 0 false false true 63) (fun t => pairAllowed ((t.core 0).bank false).fmt (fmtOf t c0 3) && readsOk t 3 0 (actRows 2 64 + actScaleRows 2 64)) = true ∧
    fmtOf bankState c0 2 ∈ [fmtRaw, fmtFp32] ∧ beginsOk bankState (.mout c0 2 0 false false 0 0) (fun t => landsOk t 2 0 (rowsOf 4 0)) = true ∧
    fmtOf bankState c0 3 ∈ [fmtRaw, fmtBf16] ∧ beginsOk bankState (.mout c0 3 0 false true 0 0) (fun t => landsOk t 3 0 (rowsOf 2 0)) = true := by
  decide +kernel

/-- RowsStored and HandleAccess: two rows, at the last rows of a linear handle. -/
theorem test_RowsStored_hypotheses : ([(3, (1 : Row)), (51199, 2)].map (·.1)).Nodup := by decide
def rowIs (h i n : Nat) : Bool := match storedRow h i with
  | .ok m => m == n
  | .error _ => false

theorem test_HandleAccess_hypotheses :
    (let h := handleOf 51196 4 0 0 0 0
     3 < hLength h ∧ hMode h = 0 ∧ hBase h + 3 < 51200 ∧ rowIs h 3 51199 = true ∧ hLength h ≤ 4) ∧
    (let h := handleOf 100 9 1 0 7 0; hMode h = 1 ∧ rowIs h 8 156 = true) ∧ (let h := handleOf 100 9 2 0 50 4; hMode h = 2 ∧ 0 < hRun h ∧ rowIs h 6 152 = true) ∧
    (let h := handleOf 51199 2 0 0 0 0; 1 < hLength h ∧ 51200 ≤ hBase h + 1) := by decide +kernel

/-- VectorLoads, VectorStores: every format at an index. -/
theorem test_VectorLoads_hypotheses :
    beginsOk st5 (.vld c0 2 1 0 255 0) (fun t => readsOk t 1 255 4) = true ∧ fmtOf st5 c0 3 = fmtBf16 ∧ beginsOk st5 (.vld c0 2 3 0 0 1) (fun t => readsOk t 3 0 2) = true ∧
    beginsOk st5 (.vlds c0 1 0 9) (fun t => readsOk t 1 9 1) = true ∧ fmtOf st5 c0 4 = fmtK8 ∧ beginsOk st5 (.vldq c0 15 4 0 9) (fun t => readsOk t 4 9 1) = true ∧
    fmtOf st5 c0 5 = fmtK4 ∧ beginsOk st5 (.vldq c0 15 5 0 0) (fun t => readsOk t 5 0 1) = true ∧ vuIndex (st5.core 0) 0 255 = 255 := by decide +kernel
theorem test_VectorStores_hypotheses :
    beginsOk st5 (.vst c0 0 1 0 255 0 0) (fun t => landsOk t 1 255 (rowsOf 4 (vOf t c0 0))) = true ∧ fmtOf st5 c0 3 = fmtBf16 ∧
    beginsOk st5 (.vst c0 0 3 0 0 1 0) (fun t => landsOk t 3 0 (rowsOf 2 0)) = true ∧ beginsOk st5 (.vsst c0 1 0 0 0) (fun t => landsOk t 1 0 [0]) = true ∧
    fmtOf st5 c0 2 = fmtFp32 ∧ beginsOk st5 (.vspin c0 2 0 0) (fun t => readsOk t 2 0 (2 ^ 6 / 16) && landsOk t 2 0 (rowsOf 4 0)) = true := by decide +kernel

/-- QuantiseSteps: a full and a part assembly, an end with a verdict to P1 and one reported, with and without an assembly. -/
def quantState : State := oneCore { handles5 with
    handles := AMap.put 0 handles5.handles 6 (handleOf 2001 1000 0 0 0 0)
    tileCfg := [(0, 1 * 2 ^ 14 + 6 * 2 ^ 8), (1, 6 * 2 ^ 8)], tiles := [(0, { Tile.clear with asm := List.replicate 31 0x0367 }), (1, { Tile.clear with asm := [5] })] } []
theorem test_QuantiseSteps_hypotheses :
    fmtOf quantState c0 4 ∈ [fmtK8, fmtK4] ∧ fmtOf quantState c0 5 ∈ [fmtK8, fmtK4] ∧
    beginsOk quantState (.vqst c0 0 4 0 0 2 0) (fun t => landsOk t 4 0 [0] && decide ((vqstSides t c0 2 (vqstBlocks t c0 0 4 2)).length < 32)) = true ∧
    beginsOk quantState (.vqst c0 0 5 0 0 0 0) (fun t => landsOk t 5 0 [0] && decide (32 ≤ (vqstSides t c0 0 (vqstBlocks t c0 0 5 0)).length) &&
      hFmt ((t.core 0).handle (tcSide (AMap.get 0 (t.core 0).tileCfg 0))) == fmtRaw && landsOk t 6 0 [sideRow (vqstSides t c0 0 (vqstBlocks t c0 0 5 0))]) = true ∧
    (0x020 : BitVec 9).toNat % 16 = 0 ∧ bit (0x020 : BitVec 9).toNat 4 = false ∧ bits (0x020 : BitVec 9).toNat 6 5 ≠ 0 ∧
    beginsOk quantState (.vqend c0 0x120) (fun t => ((t.core 0).tile (bits (0x120 : BitVec 9).toNat 8 7)).asm == []) = true ∧ bit (0x110 : BitVec 9).toNat 4 = true ∧
    beginsOk quantState (.vqend c0 0x0B0) (fun t => ((t.core 0).tile (bits (0x0B0 : BitVec 9).toNat 8 7)).asm != [] && landsOk t 6 0 [sideRow [5]]) = true := by decide +kernel

/-- StepsThatStop: a row number past the last, and the reserved operands. -/
theorem test_StepsThatStop_hypotheses :
    (CoreId.mk 0 24 0).valid = false ∧ (encodeSlot (.dscat ⟨0, 24, 0⟩ 0 0 0 0 0 0)).isSome = true ∧ 1 < (2 : BitVec 2).toNat ∧ (1 : BitVec 9).toNat % 16 ≠ 0 ∧ bit (0 : BitVec 9).toNat 4 = false ∧ 64 ≤ (64 : BitVec 7).toNat := by decide +kernel
theorem test_VectorSteps_hypotheses :
    [Instr.fadd c0 1 1 2 true, .fsub c0 1 1 2 false, .fmul c0 1 1 2 false, .fmax c0 1 1 2 false, .fmin c0 1 1 2 false, .fma c0 15 1 2 2 true, .fexp c0 1 2 false, .frcp c0 1 2 true,
      .frsq c0 1 2 false, .fsig c0 1 2 false, .vsum c0 1 2 true, .vmaxr c0 1 2 false, .vbcst c0 1 2 true 127, .vtopk c0 1 2, .fcvt c0 1 2 true, .fcvt c0 1 2 false].all
      (fun i => beginsOk vstate i fun _ => true) = true ∧ (127 : BitVec 7).toNat < laneCount true ∧ (63 : BitVec 7).toNat < laneCount false := by decide +kernel
/-- AttentionPipe: configuration 0 with one head of 64 dimensions, K8, pages of 9 rows in the pool of handle 1; list word 0 names slot 2 with 64 positions, word 1 no page. -/
def apState : State :=
  { oneCore { handles5 with apCfg := [(0, 1 * 2 ^ 122 + 132 * 2 ^ 112)] } [] with spads := [(0, Mem.write [] 0 (leBytes 4 (2 * 2 ^ 16 + 64) ++ leBytes 4 0xFFFF0000))] }
def apState1 : State := { apState with cores := AMap.put Core.fresh apState.cores 0 { apState.core 0 with x := [(1, 1)] } }
theorem test_AttentionPipe_hypotheses :
    beginsOk apState (.acfg c0 3) (fun _ => true) = true ∧ beginsOk apState (.arst c0 true) (fun _ => true) = true ∧
    beginsOk apState (.aqld c0 1 0) (fun t => readsOk t 1 0 (apG (apOf t c0) * apD (apOf t c0) * 2 / 64 + 1)) = true ∧
    beginsOk apState (.apage c0 1 0 false false) (fun t => readsOk t 1 0 1 &&
      (let w := listWord (packRows (got t 1 0 1).1) 0
       bits w 31 16 != 0xFFFF && readsOk t (apPool (apOf t c0)) (bits w 31 16 * apPageRows (apOf t c0)) (apPageRows (apOf t c0)) && pagePositions w 0 false 0 != [])) = true ∧
    beginsOk apState1 (.apage c0 1 1 true true) (fun t => readsOk t 1 0 1 && bits (listWord (packRows (got t 1 0 1).1) (xOf t c0 1)) 31 16 == 0xFFFF) = true ∧
    beginsOk apState (.aout c0 1 0 false) (fun t => landsOk t 1 0 (partialRows (apOf t c0) ((t.core 0).slot false))) = true ∧
    beginsOk apState (.amrg c0 1 0 false) (fun t => readsOk t 1 0 (apG (apOf t c0) * apD (apOf t c0) / 16 + (apG (apOf t c0) + 7) / 8)) = true ∧
    beginsOk apState (.anorm c0 1 0 false) (fun t => landsOk t 1 0 (rowsOf (apG (apOf t c0) * apD (apOf t c0) * 2 / 64) 0)) = true := by decide +kernel

/-- The movers: route 0 goes to core (1, 2, 3) as FP32 reduction, 1 is LOCAL to row 51 100, 2 a K8 and 3 a BF16 reduction; X1 is 1; index word 0 has no slot, word 1 slot 2; handle 6 lies apart. -/
def moverState : State :=
  { oneCore { handles5 with
      handles := AMap.put 0 handles5.handles 6 (handleOf 20481 1000 0 0 0 0), x := [(1, 1)]
      routes := [(0, (1 * 2 ^ 57 + 2 * 2 ^ 52 + 3 * 2 ^ 47) * 2 ^ 64), (1, (51100 * 2 ^ 12) * 2 ^ 64 + 3 * 2 ^ 48 + 2 ^ 47), (2, (1 * 2 ^ 57 + 2 * 2 ^ 41) * 2 ^ 64), (3, (1 * 2 ^ 57 + 1 * 2 ^ 41) * 2 ^ 64)] } []
    with spads := [(0, Mem.write [] 0 (leBytes 4 0xFFFF0000 ++ leBytes 4 (2 * 2 ^ 16)))] }

theorem test_MoverLocalSteps_hypotheses :
    beginsOk moverState (.dcpy c0 1 0 6 0 63 0) (fun t => readsOk t 1 0 64 && landsOk t 6 0 (List.replicate 64 0)) = true ∧
    beginsOk moverState (.dnw c0 1 0 6 1 3 2 0) (fun t => readsOk t 1 0 1 && rowIs ((t.core 0).handle 6) 1 20482 && (t.core 0).commits 0 && (t.core 0).gather == []) = true ∧
    beginsOk moverState (.dnw c0 1 0 6 1 3 2 4) (fun t => readsOk t 1 0 1 && !(t.core 0).commits 4) = true ∧
    (2 : BitVec 2).toNat ≠ 3 ∧ beginsOk moverState (.dctr c0 2 0 2 0) (fun t => landsOk t 2 0 [snapshotRow t 0 2 (t.core 0)]) = true := by decide +kernel

def roomOk (s : State) (n : Nat) : Bool := decide (flitCount (s.core 0).egress + n ≤ 64)
theorem test_MoverSendingSteps_hypotheses :
    beginsOk moverState (.dsend c0 1 0 0 0 15 0) (fun t => readsOk t 1 0 16 && !routeLocal (routeOf t c0 0) && roomOk t 16) = true ∧
    beginsOk moverState (.dsend c0 1 0 1 0 9 0) (fun t => readsOk t 1 0 10 && routeLocal (routeOf t c0 1) && decide ((hdrSpad (tmplOf t c0 1) + xOf t c0 0) % 65536 + (9 + 1) ≤ 51200)) = true ∧
    beginsOk moverState (.dqput c0 1 0 0 0 15 4) (fun t => readsOk t 1 0 16 && roomOk t 16) = true ∧
    beginsOk moverState (.dqget c0 1 0 0 0 0) (fun t => readsOk t 1 0 1 && roomOk t 1) = true ∧
    beginsOk moverState (.dred c0 1 0 2 0 0) (fun t => readsOk t 1 0 1 && roomOk t 1 && hdrPfmt (tmplOf t c0 2) == 2) = true ∧
    beginsOk moverState (.dred c0 1 0 3 0 0) (fun t => readsOk t 1 0 1 && roomOk t 1 && hdrPfmt (tmplOf t c0 3) == 1) = true ∧
    beginsOk moverState (.dred c0 1 0 0 0 0) (fun t => readsOk t 1 0 2 && roomOk t 2 && hdrPfmt (tmplOf t c0 0) == 0) = true := by decide +kernel
def guardOk (s : State) (h : Nat) : Bool := match guardReady (s.core 0) h with
  | .ok _ => true
  | .error _ => false
theorem test_MoverScatter_hypotheses :
    beginsOk moverState (.dscat c0 1 0 0 1 0 0) (fun t => guardOk t 1 && readsOk t 1 0 1 && roomOk t (hdrLen (tmplOf t c0 0) + 1) && packRows (got t 1 0 1).1 >>> (32 * (0 % 16) + 16) % 65536 == 0xFFFF) = true ∧
    beginsOk moverState (.dscat c0 6 0 0 1 1 0) (fun t => guardOk t 6 && readsOk t 1 0 1 && roomOk t (hdrLen (tmplOf t c0 0) + 1) && packRows (got t 1 0 1).1 >>> (32 * (1 % 16) + 16) % 65536 == 2 &&
      readsOk t 6 0 (hdrLen (tmplOf t c0 0) + 1) && !routeLocal (routeOf t c0 0)) = true ∧
    beginsOk moverState (.dscat c0 6 0 1 1 1 0) (fun t => guardOk t 6 && readsOk t 1 0 1 && routeLocal (routeOf t c0 1) && packRows (got t 1 0 1).1 >>> (32 * (1 % 16) + 16) % 65536 == 2 &&
      readsOk t 6 0 (hdrLen (tmplOf t c0 1) + 1) && decide ((hdrSpad (tmplOf t c0 1) + 2 * routeStride (routeOf t c0 1)) % 65536 + (hdrLen (tmplOf t c0 1) + 1) ≤ 51200)) = true := by decide +kernel

/-- WaitAndSync: counter 3 meets its target and counter 4 does not; sync entries 0 and 1 name a barrier of 2 with one arrival (complete for GEN set), 2 and 3 a counter of value 5. -/
def syncState : State :=
  { oneCore { handles5 with tgt := [(4, 1)], sync := [(0, 7 * 2 ^ 51), (1, 7 * 2 ^ 51 + 2 ^ 49), (2, 8 * 2 ^ 51 + 2 ^ 50 + 5), (3, 8 * 2 ^ 51 + 2 ^ 50 + 6)] } []
    with objects := [(7, ⟨false, 2, 1, false, 0⟩), (8, ⟨true, 0, 0, false, 5⟩)] }
theorem test_WaitAndSync_hypotheses :
    beginsOk syncState (.wait c0 3 4) (fun t => waitMet (t.core 0) 3) = true ∧ beginsOk syncState (.bwait c0 1) (fun t => barrierMet t (t.core 0) 1) = true ∧
    beginsOk syncState (.cwait c0 2) (fun t => counterMet t (t.core 0) 2) = true ∧
    beginsOk syncState (.arrive c0 0) (fun t => !(t.object (objOf t c0 0)).counter && (t.object (objOf t c0 0)).expected != 0) = true ∧
    beginsOk syncState (.cadd c0 2 31) (fun t => (t.object (objOf t c0 2)).counter) = true ∧ (syncState.core 0).syncEntry 0 < 2 ^ 64 ∧ holdInForce syncState = false ∧
    offeredOk syncState (.wait c0 4 0) = true ∧ waitMet ((offering syncState (.wait c0 4 0)).core 0) 4 = false ∧
    offeredOk syncState (.bwait c0 0) = true ∧ barrierMet syncState ((offering syncState (.bwait c0 0)).core 0) 0 = false ∧
    offeredOk syncState (.cwait c0 3) = true ∧ counterMet syncState ((offering syncState (.cwait c0 3)).core 0) 3 = false ∧
    ((offering syncState (.cwait c0 3)).core 0).issued = 0 ∧ ((List.range 4).all fun n => slotBits n ((offering syncState (.cwait c0 3)).core 0).word == 0) = true := by decide +kernel
/-- The second arrival completes the barrier; the state after it has the generation turned (R40). -/
theorem test_arrive_completes : leaves (.arrive c0 0) (offering syncState (.arrive c0 0)) (fun t => t.object 7 == ⟨false, 2, 0, true, 0⟩) = true := by decide +kernel
theorem test_SyncObjectRule_hypotheses :
    (syncState.object 7).counter = false ∧ 1 ≤ (syncState.object 7).expected ∧ (syncState.object 7).arrived + 1 = (syncState.object 7).expected ∧
    syObject ((syncState.core 0).syncEntry 0) = 7 ∧ syGen ((syncState.core 0).syncEntry 0) = (syncState.object 7).gen ∧ (syncState.object 8).value < 2 ^ 32 ∧
    (⟨false, 65535, 65533, false, 0⟩ : SyncObj).arrived + 1 < 65535 := by decide +kernel

/-- SequencerSteps: a guarded FULL handle; an edge owed and none. -/
def relState : State := oneCore { Core.fresh with handles := [(1, guarded (handleOf 0 1000 0 0 0 0) 5 3 true)], ctr := [(5, 3)] } []
theorem test_SequencerSteps_hypotheses :
    [Instr.nop c0, .cset c0 31 127, .tset c0 31 127, .tadd c0 3 127, .xset c0 7 511, .xadd c0 7 511, .xset c0 0 3, .xadd c0 0 3, .pset c0 3 true, .loop c0 15, .done c0, .mnop c0, .vnop c0, .anop c0,
      .dnop c0].all (fun i => beginsOk relState i fun _ => true) = true ∧
    beginsOk relState (.rel c0 1) (fun t => hGuarded ((t.core 0).handle 1) && hFull ((t.core 0).handle 1)) = true ∧ (7 : BitVec 3).toNat ≠ 0 ∧ (3 : BitVec 2).toNat ≠ 0 ∧
    beginsOk relState (.beat c0 1023) (fun t => !(t.core 0).owes) = true ∧ beginsOk (oneCore { Core.fresh with owes := true } []) (.beat c0 1023) (fun t => (t.core 0).owes) = true := by decide +kernel
/-- REL leaves FILL and takes the target off the counter (R67). -/
theorem test_rel : leaves (.rel c0 1) (offering relState (.rel c0 1)) (fun t => (t.core 0).handle 1 == guarded (handleOf 0 1000 0 0 0 0) 5 3 false && (t.core 0).counter 5 == 0) = true := by decide +kernel

/-- Core 0 is held at the step alone in the word at its pc. -/
def stalledBy (cause : StallCause) (i : Instr) (s : State) : State :=
  let u := offering s i
  { u with cores := AMap.put Core.fresh u.cores 0 { u.core 0 with held := some ⟨cause, i, 5⟩ } }
/-- The core's word may issue once nothing holds it, and the step begins then. -/
def goesOn (s : State) (i : Instr) : Bool :=
  let u := s.putCore c0 (s.freedCore c0)
  (s.core 0).heldBy.isEmpty && (u.core 0).offers c0 i && (wordHold u c0 (u.core 0)).isNone && (firstClash (u.core 0).claims (wordClaims u c0 (u.core 0))).isNone
def fullState : State := oneCore { handles5 with handles := (0, guarded (handleOf 0 9 0 0 0 0) 5 0 true) :: handles5.handles } []
def sendStep : Instr := .dsend c0 1 0 0 0 15 0
theorem test_HeldCoreEvents_hypotheses :
    (let s := stalledBy (.arrival 3 4) (.wait c0 3 4) syncState; (s.core 0).held = some ⟨.arrival 3 4, .wait c0 3 4, 5⟩ ∧ waitMet (s.core 0) 3 = true ∧ goesOn s (.wait c0 3 4) = true ∧
      AMap.wf Core.fresh s.cores = true ∧ (s.core 0).run ≠ .voided) ∧
    (let s := stalledBy (.barrier 1) (.bwait c0 1) syncState; (s.core 0).held = some ⟨.barrier 1, .bwait c0 1, 5⟩ ∧ barrierMet s (s.core 0) 1 = true ∧ goesOn s (.bwait c0 1) = true) ∧
    (let s := stalledBy (.counter 2) (.cwait c0 2) syncState; (s.core 0).held = some ⟨.counter 2, .cwait c0 2, 5⟩ ∧ counterMet s (s.core 0) 2 = true ∧ goesOn s (.cwait c0 2) = true) ∧
    (let s := stalledBy (.guard 0) (.vld c0 0 0 0 0 0) fullState; (s.core 0).held = some ⟨.guard 0, .vld c0 0 0 0 0 0, 5⟩ ∧ hFull ((s.core 0).handle 0) = true ∧ goesOn s (.vld c0 0 0 0 0 0) = true) ∧
    (let s := stalledBy (.egress 16) sendStep moverState; (s.core 0).held = some ⟨.egress 16, sendStep, 5⟩ ∧ goesOn s sendStep = true) ∧
    (let s := { fullState with cores := [(0, { fullState.core 0 with held := some ⟨.guard 0, .vld c0 0 0 0 0 0, 5⟩, heldBy := [.egress 70] })] }
     causeMet s (s.core 0) (.guard 0) = true ∧ causeMet s (s.core 0) (.egress 70) = false ∧ (s.core 0).heldBy = [.egress 70]) ∧
    [StallCause.guard 1, .egress 4].map (fun x => (isGuard x, isWait x, isEgress x)) = [(true, false, false), (false, false, true)] := by decide +kernel

theorem test_guard_timeout_voids :
    leaves (.guardTimeout c0) (stalledBy (.guard 1) (.nop c0) syncState) (fun t => (t.core 0).faultCode == 2 && t.now == 5 + 4 * 2500 && holdInForce t) = true := by decide +kernel

/-- StepsHoldOrVoid: a guarded handle in FILL, a handle without rows, a store and a tile load of one word that claim a bank twice. -/
def fillState : State := oneCore { handles5 with handles := (0, guarded (handleOf 0 9 0 0 0 0) 5 3 false) :: handles5.handles } []
def clashState : State := let u := oneCore handles5 []; { u with cores := AMap.put Core.fresh u.cores 0 { u.core 0 with run := .issuing, store := [(0, wordOf (.vst c0 0 1 0 0 0 0) + wordOf (.mload c0 5 0 false 0))] } }
theorem test_StepsHoldOrVoid_hypotheses :
    (offeredOk fillState (.vld c0 0 0 0 0 0) = true ∧ ((offering fillState (.vld c0 0 0 0 0 0)).core 0).issued = 0 ∧
      ((List.range 5).all fun n => n == 1 || slotBits n ((offering fillState (.vld c0 0 0 0 0 0)).core 0).word == 0) = true ∧
      (wordHold (offering fillState (.vld c0 0 0 0 0 0)) c0 ((offering fillState (.vld c0 0 0 0 0 0)).core 0)).isSome = true ∧
      hGuarded ((fillState.core 0).handle 0) = true ∧ hFull ((fillState.core 0).handle 0) = false) ∧
    holdInForce fillState = false ∧ fillState.beat.hold = .none ∧ AMap.wf Core.fresh fillState.cores = true ∧ holdInForce { fillState with beat := { Beat.reset with hold := .requested } } = true ∧
    ((clashState.core 0).offers c0 (.vst c0 0 1 0 0 0 0) = true ∧ (wordHold clashState c0 (clashState.core 0)).isNone = true ∧
      (firstClash (clashState.core 0).claims (wordClaims clashState c0 (clashState.core 0))).isSome = true) ∧
    ((clashState.core 0).offers c0 (.nop c0) = false) ∧
    (beginsOk fillState (.vld c0 0 9 0 0 0) (fun _ => true) = true ∧ hMode ((fillState.core 0).handle 9) = 0 ∧ hLength ((fillState.core 0).handle 9) ≤ vuIndex (fillState.core 0) 0 0 ∧
      hGuarded ((fillState.core 0).handle 9) = false) ∧
    (beginsOk fillState (.vldq c0 0 3 0 0) (fun _ => true) = true ∧ ([fmtK8, fmtK4].contains (fmtOf fillState c0 3)) = false ∧ hGuarded ((fillState.core 0).handle 3) = false) ∧
    beginsOk fillState (.rel c0 0) (fun _ => true) = true := by decide +kernel
theorem test_bounds_void : leaves (.vld c0 0 9 0 0 0) (offering fillState (.vld c0 0 9 0 0 0)) (fun t => (t.core 0).faultCode == 5 && t.reg 0x4024 == 1 && t.beat.hold == .requested) = true := by decide +kernel
/-- Two steps of one word that claim a bank in the same cycle (R53). -/
theorem test_bank_void : leaves (.vst c0 0 1 0 0 0 0) clashState (fun t => (t.core 0).faultCode == 7) = true := by decide +kernel
/-! ### Hypotheses met: networks -/

/-- A packet header (R29): destination field, row, column, kind, LEN, counter, scratchpad row. -/
def hdrOf (field row col kind len ctr spad : Nat) : BitVec 64 :=
  BitVec.ofNat 64 (field * 2 ^ 57 + row * 2 ^ 52 + col * 2 ^ 47 + kind * 2 ^ 44 + len * 2 ^ 37 + ctr * 2 ^ 28 + spad * 2 ^ 12)
def wr2 : Packet := ⟨9, hdrOf 0 0 0 0 1 31 51198, [5, 6]⟩

/-- A packet to the last two rows; a guarded FULL handle over them makes it park. -/
def parkCore : Core := { Core.fresh with handles := [(1, guarded (handleOf 51198 2 0 0 0 0) 5 3 true)] }
/-- A narrow packet of one row: lanes 0 and 7; states with the packet on its way, waiting at its source, and with the array rail of its field off since the field was lost. -/
def narrow1 : Packet := ⟨9, hdrOf 0 0 0 0 0 31 51199 ||| 0x810, [7]⟩
def onTheWay : State := { oneCore Core.fresh [] with net := [wr2] }
def atSource : State := { onTheWay with net := [], cores := [(9, { Core.fresh with egress := [narrow1, wr2] })] }
def goneState : State := { oneCore Core.fresh [] with repair := { Repair.reset with lost := [0] } }
theorem test_PacketsTaken :
    Takes (oneCore Core.fresh []) (.given wr2) (arrivals (oneCore Core.fresh []) wr2 c0) wr2 0 ∧ Takes (oneCore Core.fresh []) (.given narrow1) (arrivals (oneCore Core.fresh []) narrow1 c0) narrow1 0 ∧
    Takes onTheWay (.inFlight 9) (arrivals onTheWay wr2 c0) wr2 0 ∧ Takes atSource (.inFlight 9) (arrivals atSource narrow1 c0) narrow1 0 ∧ Takes goneState (.given wr2) (arrivals goneState wr2 c0) wr2 0 := by
  refine ⟨⟨rfl, ?_⟩, ⟨rfl, ?_⟩, ?_, ?_, ⟨rfl, ?_⟩⟩ <;> (try simp only [Takes]) <;> decide +kernel
theorem test_PacketsTaken_clauses :
    RowPacket narrow1 c0 ∧ lanesOf narrow1 ≠ 0 ∧ lanesOf wr2 = 0 ∧ arrayGone (oneCore Core.fresh []) 0 = false ∧ arrayGone goneState 0 = true ∧
    ((oneCore Core.fresh []).core 0).gather.length + (hdrLen narrow1.h + 1) ≤ 64 ∧ (((oneCore Core.fresh []).core 0).gather.map (·.row)).Nodup ∧
    onTheWay.net.any (sameFlow wr2) = true ∧ (onTheWay.core 9).egress.any (sameFlow wr2) = false ∧ arrivals onTheWay wr2 c0 wr2 = true := by unfold RowPacket; decide +kernel
theorem test_PacketsArrive_hypotheses :
    RowPacket wr2 c0 ∧ ((oneCore Core.fresh []).core 0).fifo = [] ∧ ((oneCore Core.fresh []).core 0).opened = [] ∧ ((oneCore parkCore []).core 0).opened = [] ∧ wr2.flits.length ≤ 32 ∧ mustPark ((oneCore Core.fresh []).core 0) wr2 = false ∧
    mustPark ((oneCore parkCore []).core 0) wr2 = true ∧ ((oneCore parkCore []).core 0).parked.length < 4 ∧
    32 < flitCount ((oneCore { Core.fresh with fifo := [⟨1, hdrOf 0 0 0 0 15 0 0, List.replicate 31 0⟩] } []).core 0).fifo + wr2.flits.length := by unfold RowPacket; decide +kernel
theorem test_write_arrives :
    leaves (.write (.given wr2) c0) (oneCore Core.fresh []) (fun t => t.row 0 51199 == 6 && t.row 0 51198 == 5 && (t.core 0).counter 31 == 2) = true := by decide +kernel

theorem test_DelayedWrites_hypotheses :
    RowPacket wr2 c0 ∧ ((oneCore { Core.fresh with parked := [wr2] } []).core 0).parked = [wr2] ∧ lanesOf wr2 = 0 ∧ ((oneCore { Core.fresh with parked := [wr2] } []).core 0).rowGuarded (hdrSpad wr2.h) = false ∧
    (let s := oneCore { Core.fresh with gather := [⟨51199, 7, fullMask⟩, ⟨3, 1, 0xFF⟩] } []
     (s.core 0).gather = ⟨51199, 7, fullMask⟩ :: [⟨3, 1, 0xFF⟩] ∧ (s.core 0).gatherEntry 2 = none ∧ (s.core 0).gatherEntry 3 = some ⟨3, 1, 0xFF⟩ ∧ (s.core 0).rowBad 3 = false ∧
       (s.core 0).gather.length < 64) := by unfold RowPacket; decide +kernel

/-- An HBM read of 256 rows at the end of a stack, and a write of one row. -/
def readRow : Row := readDesc (stackBytes - 64 * 256) 256 9 12288 (17 * 1024 + 9 * 32 + 14)
def writeDesc : Row := rowOfFields [(0, 8, 64), (8, 2, 1), (10, 1, 1), (11, 1, 9), (12, 2, 5), (14, 1, 0), (15, 1, 0), (16, 1, 0)]
def hbmState : State := { bare [] with qps := [(0x073, [⟨readRow, []⟩]), (0x17F, [⟨writeDesc, [77]⟩]), (0x180 - 2, List.replicate 64 ⟨readRow, []⟩)] }
def qput : Packet := ⟨0, hdrOf 127 (0x073 / 32) (0x073 % 32) 3 0 0 0, [readRow]⟩
def qputFull : Packet := ⟨0, hdrOf 127 (0x17E / 32) (0x17E % 32) 3 0 0 0, [readRow]⟩
def qputBad : Packet := { qput with flits := [readDesc 32 256 9 12288 0] }
theorem test_QueuesTake :
    let want : Nat → Packet → Bool := fun ep r => hdrField r.h == 127 && hdrEndpoint r.h == ep && hdrKind r.h == 3
    Takes hbmState (.given qput) (want 0x073) qput 0 ∧ Takes { hbmState with net := [qput] } (.inFlight 0) (want 0x073) qput 0 ∧ Takes hbmState (.given qputFull) (want 0x17E) qputFull 0 ∧
      Takes hbmState (.given qputBad) (want 0x073) qputBad 0 ∧ descGood (qputBad.flits.headD 0) (hdrLen qputBad.h) = false := by
  refine ⟨⟨rfl, ?_⟩, ?_, ⟨rfl, ?_⟩, ⟨rfl, ?_⟩, ?_⟩ <;> (try simp only [Takes]) <;> decide +kernel
theorem test_HbmQueuePairs_hypotheses :
    hdrField qput.h = 127 ∧ hdrEndpoint qput.h = 0x073 ∧ hdrKind qput.h = 3 ∧ descGood (qput.flits.headD 0) (hdrLen qput.h) = true ∧ (AMap.get [] hbmState.qps 0x073).length < 64 ∧
    64 ≤ (AMap.get [] hbmState.qps 0x17E).length ∧ hdrEndpoint qputFull.h = 0x17E ∧ descGood (qputFull.flits.headD 0) (hdrLen qputFull.h) = true ∧
    AMap.get [] hbmState.qps 0x073 = [⟨readRow, []⟩] ∧ dOp readRow = 0 ∧ AMap.get [] hbmState.qps 0x17F = [⟨writeDesc, [77]⟩] ∧ dOp writeDesc = 1 := by decide +kernel
theorem test_hbm_write : leaves (.hbmWriteDone 0x17F) hbmState (fun t => t.hbmRows 0x17 64 1 == [77] && (AMap.get [] t.qps 0x17F).isEmpty) = true := by decide +kernel

/-- A router entry of two ports, local and east, output south; a block on its way from core 5 of the row, to core 0; both parts captured. -/
def redPacket (v : Nat) : Packet := ⟨5, BitVec.ofNat 64 (1 * 2 ^ 44 + 3 * 2 ^ 33), rowsOf 2 (packLanes 32 (List.replicate 32 v))⟩
def redState (parts : AMap (Option Packet)) : State :=
  { oneCore { Core.fresh with router := [(3, 1 + 4 + 16 * 2 ^ 8)], parts := parts } [] with net := [redPacket 0x3F800000], dict := regsOf [(0x3003, 0, 2500), (0x4007, 1, 0)] }
def redPort : Port := .east
/-- The same place taken already, by an entry of a second port that a hold discards; an entry whose output is the local port. -/
def redHeld : State := { redState [(3 * 8 + 2, some (redPacket 0x40000000))] with beat := { Beat.reset with hold := .requested } }
def redLocal (fifo : List Packet) : State :=
  oneCore { Core.fresh with router := [(3, 1 + 4)], parts := [(3 * 8, some (redPacket 0x3F800000)), (3 * 8 + 2, some (redPacket 0x40000000))], fifo := fifo } []
theorem test_LocalReductions_hypotheses :
    reOut (AMap.get 0 ((redLocal []).core 0).router 3) = 0 ∧ arrayGone (redLocal []) (c0.key / 1024) = false ∧
    (let p := combinedPacket c0 (1 + 4) [redPacket 0x3F800000, redPacket 0x40000000]
     hdrSpad p.h + hdrLen p.h < 51200 ∧ p.flits.length = 2 ∧ 32 < flitCount ((redLocal [⟨1, hdrOf 0 0 0 0 15 0 0, List.replicate 31 0⟩]).core 0).fifo + p.flits.length) ∧
    (((List.range 5).filter fun i => bit (rePorts 5) i).filterMap fun i => AMap.get none ((redLocal []).core 0).parts (3 * 8 + i)) = redPacket 0x3F800000 :: [redPacket 0x40000000] := by decide +kernel
theorem test_Reductions_hypotheses :
    nextWanted (fun q => q.src == 5 && capturedAt (redState []) c0 redPort q) (waitingOf (redState []) (redState []) 5) = some 0 ∧
    (waitingOf (redState []) (redState []) 5)[0]? = some (redPacket 0x3F800000) ∧ AMap.get none ((redState []).core 0).parts (3 * 8 + 2) = none ∧
    nextWanted (fun q => q.src == 5 && capturedAt redHeld c0 redPort q) (waitingOf redHeld redHeld 5) = some 0 ∧ AMap.get none (redHeld.core 0).parts (3 * 8 + 2) ≠ none ∧
    (let s := redState [(3 * 8, some (redPacket 0x3F800000)), (3 * 8 + 2, some (redPacket 0x40000000))]
     reOut (AMap.get 0 (s.core 0).router 3) ≠ 0 ∧ (((List.range 5).filter fun i => bit (rePorts (AMap.get 0 (s.core 0).router 3)) i).filterMap fun i =>
       AMap.get none (s.core 0).parts (3 * 8 + i)) = redPacket 0x3F800000 :: [redPacket 0x40000000]) := by decide +kernel

/-- HeldStepsIssue: the state a held step acts in. -/
def resumed (s : State) (i : Instr) : State := (s.putCore c0 (s.freedCore c0)).begun c0 i
theorem test_HeldStepsIssue_hypotheses :
    (let s := stalledBy (.guard 0) (.vld c0 2 0 0 0 0) (oneCore { handles5 with handles := (0, guarded (handleOf 0 9 0 0 0 0) 5 0 true) :: handles5.handles } [])
     goesOn s (.vld c0 2 0 0 0 0) = true ∧ (s.core 0).held = some ⟨.guard 0, .vld c0 2 0 0 0 0, 5⟩ ∧ readsOk (resumed s (.vld c0 2 0 0 0 0)) 0 0 4 = true) ∧
    (let s := stalledBy (.egress 16) sendStep moverState
     goesOn s sendStep = true ∧ (s.core 0).held = some ⟨.egress 16, sendStep, 5⟩ ∧ routeLocal (routeOf (resumed s sendStep) c0 0) = false ∧ readsOk (resumed s sendStep) 1 0 16 = true) := by
  decide +kernel

/-- The staging engine: way 1 of 2, records of 6 rows at row 100, K8 of dimension 64 in pages of 132 rows; a record for position 1, one for position 0, one of a shared page. -/
def stagingWord : Nat := 100 * 2 ^ 240 + 2 * 2 ^ 230 + 6 * 2 ^ 226 + 7 * 2 ^ 216 + 1 * 2 ^ 206 + 1 * 2 ^ 198 + 2 ^ 136
def stagingState (slot pos : Nat) : State :=
  { oneCore { handles5 with staging := stagingWord, stagingRows := 6, apCfg := [(0, 1 * 2 ^ 122 + 132 * 2 ^ 112)] } [] with
    dict := regsOf [(0x4007, 1, 0)], spads := [(0, Mem.write [] 6400 (leBytes 2 slot ++ leBytes 1 62 ++ leBytes 1 1 ++ leBytes 4 pos))] }
theorem test_StagingAndSilence_hypotheses :
    stEnabled stagingWord = true ∧ stRows stagingWord = 6 ∧ stRecords stagingWord = 2 ∧ stWays stagingWord = 2 ∧ stWay stagingWord = 1 ∧ stFctr stagingWord = 7 ∧
    (let r := (stagingState 2 1).unitRow 0 ((stagingState 2 1).core 0) 100
     rowField r 0 2 ≠ 0xFFFF ∧ rowField r 4 4 % 2 = 1 ∧ rowField r 0 2 < hLength (((stagingState 2 1).core 0).handle 1) / 132 ∧ rowField r 2 1 < 63 ∧ rowField r 3 1 % 2 = 1) ∧
    rowField ((stagingState 0xFFFF 1).unitRow 0 ((stagingState 0xFFFF 1).core 0) 100) 0 2 = 0xFFFF ∧
    rowField ((stagingState 2 4).unitRow 0 ((stagingState 2 4).core 0) 100) 4 4 % 2 ≠ 1 ∧ (stagingState 2 1).fieldLive 0 = true ∧
    AMap.wf Core.fresh (stagingState 2 1).cores = true := by decide +kernel
theorem test_staging_step : leaves (.stagingRecord c0) (stagingState 2 1) (fun t => (t.core 0).counter 7 == 1 && (t.core 0).stagingDone == 1) = true := by decide +kernel
/-! ### Hypotheses met: shared memory, control network, beats -/

def smState : State := { bare [] with sm := Mem.write (Mem.write [] 64 (leBytes 8 5)) (0x108000 + 128) (leBytes 8 9), smBad := [(16, true)] }
theorem test_SharedMemory_hypotheses :
    rqValid .root = true ∧ goodAccess (2 ^ 28 - 64) 64 = true ∧ mayReach .root (2 ^ 28 - 64) false = true ∧ badWords smState (2 ^ 28 - 64) 64 = [] ∧ goodAccess 64 8 = true ∧
    mayReach (.tumbler 23) 64 true = true ∧ 64 % 8 = 0 ∧ AMap.get false smState.smBad (64 / 8) = false ∧ goodAccess 0x100000 8 = true ∧ mayReach (.rxDma 1) 0 false = false ∧
    mayReach (.mcore 5) 128 false = true ∧ AMap.get false smState.smBad (128 / 8) = true ∧ AMap.get false smState.smBad ((128 + 0x108000) / 8) = false ∧ 64 < 4 % 64 + 61 ∧
    mayReach (.txDma 0) 64 true = false ∧ mayReach (.tumbler 3) 0x0F000040 true = false ∧ mayReach (.rxDma 1) 0x0FFFFFF8 true = true ∧ goodAccess 0x0F000040 8 = true ∧
    smState.smBad = [(16, true)] ∧ otherCopy (8 * 16) = some (128 + 0x108000) ∧ smState.damaged = [16] := by decide +kernel
theorem test_cas : leaves (.smCas .root 64 5 7) smState (fun t => Mem.nat t.sm 64 8 == 7 && t.smReply == some ⟨.root, false, leBytes 8 5⟩) = true ∧
    leaves (.smCas .root 64 6 7) smState (fun t => Mem.nat t.sm 64 8 == 5) = true := by
  decide +kernel

def runState : State := { oneCore { handles5 with run := .issuing, left := 3 } [] with dict := regsOf [(0x3003, 0, 2500), (0x4007, 1, 0)] }
theorem test_ControlAccesses_hypotheses :
    coreAt st5 0 24 23 = some (23 * 32 + 23) ∨ coreAt st5 0 0 0 = some 0 := by decide +kernel
theorem test_ControlAccesses_runs :
    coreAt runState 0 0 0 = some 0 ∧ runState.fieldRuns 0 = true ∧ st5.fieldRuns 0 = false ∧ st5.mcore 5 = 0 ∧ ctlGuarded (.pins 1) = true ∧ ctlExists (.pins 1) = true ∧
    leaves (.controlAccess 5 0 0 0 (.handle 63 3) (.write 0xABCD)) st5 (fun t => bits ((t.core 0).handle 63) 127 96 == 0xABCD) = true := by decide +kernel

def holdState (h : HoldPhase) (l : List (Nat × Nat × Nat)) : State := { bare l with beat := { Beat.reset with hold := h } }
theorem test_BeatSamples_hypotheses :
    (bare []).inGroup = false ∧ (bare []).beat.decided < 1 ∧ (bare []).beat.hold = .none ∧ (holdState .requested []).beat.hold = .requested ∧ (holdState .complete []).beat.hold = .complete := by decide +kernel
/-- A core with 106 words left at 700 MHz is not on track 150 ns before the edge, with 105 it is (R38). -/
theorem test_on_track :
    leaves (.onTrackSample 1) (oneCore { Core.fresh with run := .issuing, left := 105 } []) (fun t => t.now == 2350 && (t.beat.sampled.map (·.take)) == some true) = true ∧
    leaves (.onTrackSample 1) (oneCore { Core.fresh with run := .issuing, left := 106 } []) (fun t => (t.beat.sampled.map (·.take)) == some false && t.reg 0x3041 == 1) = true := by decide +kernel

/-- A group of four with this member 0, formed. -/
def groupRegs : List (Nat × Nat × Nat) := [(0x9003, 0, 4), (0x9004, 0, 0), (0x9005, 0, 2)]
theorem test_HoldsBegin_hypotheses :
    (bare []).beat.hold = .none ∧ AMap.wf Core.fresh st5.cores = true ∧ (holdState .requested groupRegs).inGroup = true ∧ (holdState .requested groupRegs).groupMember = 0 ∧
    3 < (holdState .requested groupRegs).groupSize ∧ (holdState .requested groupRegs).mcore 5 = 0 ∧ (holdState .complete groupRegs).beat.hold = .complete ∧
    (let s := { holdState .complete groupRegs with group := { Group.reset with held := [1, 2] } }; ∀ j ∈ otherMembers s, j ≠ 3 → j ∈ s.group.held) := by decide +kernel
theorem test_HoldsEnd_hypotheses :
    (holdState .requested []).inGroup = false ∧ (holdState .requested []).mcore 3 = 0 ∧ holdSettled (holdState .requested []) = true ∧ (holdState .requested []).reg 0x9005 ≠ 2 ∧
    (holdState (.released 9) []).beat.hold = .released 9 ∧ (holdState (.released 9) []).damaged = [] ∧ (holdState (.released 9) groupRegs).inGroup = true ∧
    (let s := { holdState (.released 9) groupRegs with cores := [(0, { Core.fresh with reports := 1 })], sm := Mem.write [] 0x500020 (leBytes 4 32768) }; s.inGroup = true ∧ reportsFit s = false ∧ s.damaged = []) := by decide +kernel
theorem test_resume : leaves (.resumeEdge 9) (holdState (.released 9) []) (fun t => t.beat.hold == .none && t.beat.last == 9 && t.now == 22500) = true := by decide +kernel

def edgeState : State := { oneCore { Core.fresh with run := .waitEdge, next := 644 } [] with beat := { Beat.reset with sampled := some ⟨1, true, [0]⟩, decided := 1 } }
theorem test_BeatEdgesTaken_hypotheses :
    edgeState.inGroup = false ∧ edgeState.beat.hold = .none ∧ edgeState.beat.sampled = some ⟨1, true, [0]⟩ ∧ AMap.wf Core.fresh edgeState.cores = true ∧ edgeState.fieldLive (0 / 1024) = true ∧
    (edgeState.core 0).run = .waitEdge ∧ (runState.core 0).unfinished = true ∧ (bare []).beat.sampled = none ∧ 0 < edgeState.reg 0x3003 := by decide +kernel
theorem test_edge : leaves (.beatEdge 1 []) edgeState (fun t => (t.core 0).run == .issuing && (t.core 0).left == 644 && t.reg 0x3040 == 1 && t.now == 2500) = true := by decide +kernel
/-! ### Hypotheses met: links, power, heat, clocks -/

/-- A session at index 0 with all features, on port 0, that owns a device whose start is complete. -/
def liveSession : Session := { Session.closed with live := true, gen := 1, features := deviceFeatures, rxSeq := 7, paths := [(0, some (10, 47810))] }
def owned (l : List (Nat × Nat × Nat)) : State := { bare ((0x4000, 0, 2) :: (0x4002, 0, 0xFF) :: (0x1400, 1, 1) :: (0x2000, 0, 560) :: (0x1407, 0, 9000) :: ((List.range 24).map fun k => (0x2008, k + 1, 1)) ++ l) with
  col := [(0, liveSession)], csp := [(0, liveSession)], owner := { Owner.none with sid := 65536, leaseEnd := 10 } }

theorem test_OwnerServed_hypotheses (l : List (Nat × Nat × Nat)) (h : l = []) : OwnerServed (owned l) 65536 := by subst h; unfold OwnerServed Served; decide +kernel
theorem test_Featured_hypotheses : ∀ b < 6, Featured (owned []) 65536 b := by
  intro b hb i hi
  have h : ((owned []).colSid 65536) = some 0 := by decide +kernel
  rw [h] at hi; cases hi
  revert b; decide +kernel

def envelope (typ dmem smem flen : Nat) : Row := BitVec.ofNat 512 (127 * 2 ^ 57 + 0x180 * 2 ^ 47 + typ * 2 ^ 64 + dmem * 2 ^ 72 + smem * 2 ^ 80 + flen * 2 ^ 88)
def linkState_ (st : Nat) : State := bare [(0x9010, 6, st), (0x1021, 0, 2 ^ 5), (0x9003, 0, 1)]
/-- A packet that the link of its endpoint accepts; a correct frame with the expected SEQ that completes nothing, a bad one, a link that carries frames, a link that may fail, one of two of its bundle. -/
def linkPacket5 : Packet := ⟨0, hdrOf 127 (0x1A5 / 32) (0x1A5 % 32) 0 0 0 0, [envelope 0 0 0 0]⟩
theorem test_LinkTakes :
    let want : Packet → Bool := fun q => hdrField q.h == 127 && hdrEndpoint q.h == 0x1A0 + 5
    Takes (linkState_ lkUp) (.given linkPacket5) want linkPacket5 0 ∧ Takes { linkState_ lkUp with net := [linkPacket5] } (.inFlight 0) want linkPacket5 0 := by
  refine ⟨⟨rfl, ?_⟩, ?_⟩ <;> (try simp only [Takes]) <;> decide +kernel
theorem test_LinkPackets_hypotheses :
    hdrField linkPacket5.h = 127 ∧ hdrEndpoint linkPacket5.h = 0x1A0 + 5 ∧ linkAccepts (linkState_ lkOff) 5 linkPacket5 = false ∧
    completedBy (linkState_ lkUp) 5 ⟨true, 0, [], 0⟩ = [] ∧
    (let s := bare (groupRegs ++ [(0x9010, 1, lkUp), (0x9010, 2, lkUp)]); s.inGroup = true ∧ s.mcore 5 = 0 ∧ s.linkState 0 = lkUp ∧ (bundleOf s 0).find? (fun j => j != 0 && s.linkState j == lkUp) = some 1) ∧
    linkLive (linkState_ lkUp) 5 = true ∧ bit (0 : BitVec 40).toNat 21 = false ∧ bits (0 : BitVec 40).toNat 39 31 = ((linkState_ lkUp).link 5).rxSeq ∧
    ((linkState_ lkUp).link 5).nak = false ∧ ((linkState_ lkUp).link 5).retries = [] ∧ (linkState_ lkUp).inGroup = false ∧ (linkState_ lkSpare).linkState 5 = lkSpare := by decide +kernel

/-- Bringup, restore and enable. -/
theorem test_LinkBringup_hypotheses :
    (linkState_ lkTraining).mcore 5 = 0 ∧ (linkState_ lkTraining).linkState 5 = lkTraining ∧ (linkState_ lkTraining).groupSize ≤ 1 ∧
    (linkState_ lkTraining).boot.report.badLinks.contains 5 = false ∧ bit ((linkState_ lkTraining).reg 0x1021) 5 = true ∧
    (let s := { linkState_ lkTraining with power := { Power.reset with grants := [(ledgerKey actLink 2, 100)] } }; s.granted actLink (5 / 2) ≠ 0 ∧ s.inGroup = false) ∧ (owned [(0x8010, 2, 1)]).mcore 1 ≠ 0 ∧
    (owned [(0x9010, 1, lkSpare)]).linkState 0 = lkSpare ∧ (owned []).mcore 1 = 0 ∧ (owned [(0x9010, 32, lkMiswired)]).linkState 31 = lkMiswired ∧ (owned [(0x9003, 0, 1)]).groupSize = 1 ∧
    (owned [(0x9003, 0, 1)]).inGroup = false ∧ (owned []).fits 1600 = true := by decide +kernel

theorem test_GroupCommands_hypotheses :
    (8 : Nat) ∈ [2, 4, 8] ∧ (7 : Nat) < 8 ∧ 2 ^ 32 - 1 < 2 ^ regWidth (regKey 0x9002 0) ∧ slotTaken (owned []) = false ∧ (owned []).inGroup = false ∧
    (owned [(0x3000, 0, 1)]).reg 0x3000 = 1 ∧ (owned [(0x8010, 6, 1)]).mcore 5 ≠ 0 ∧
    (let s := { bare [(0x9003, 0, 4), (0x9005, 0, 1)] with group := { Group.reset with formBy := some 5 } }; missingPeer s = some 1 ∧ s.reg 0x9005 = 1 ∧ s.mcore 5 = 0) := by decide +kernel

def groupState (sync : AMap (Nat × Bool × Bool)) (l : List (Nat × Nat × Nat)) : State := { bare (groupRegs ++ l) with
  beat := { Beat.reset with sampled := some ⟨3, true, []⟩, decided := 3 }, group := { Group.reset with sync := sync } }
/-- The sync words of the three others: all ready, one missing, one off track. -/
theorem test_GroupBeats_hypotheses :
    (groupState [] []).inGroup = true ∧ (groupState [] []).beat.decided = 3 ∧ (groupState [] []).beat.group = none ∧
    (∀ j ∈ otherMembers (groupState [(1, (3, true, false)), (2, (3, true, false)), (3, (3, true, false))] []),
      AMap.get (0, false, false) [(1, (3, true, false)), (2, (3, true, false)), (3, (3, true, false))] j = (3, true, false)) ∧
    (∃ j ∈ otherMembers (groupState [(1, (3, true, false)), (2, (3, true, false))] []), (AMap.get (0, false, false) [(1, (3, true, false)), (2, (3, true, false))] j).1 ≠ 3) ∧
    (let m := [(1, (3, true, false)), (2, (3, false, false)), (3, (3, true, false))]; (∀ j ∈ otherMembers (groupState m []), (AMap.get (0, false, false) m j).1 = 3 ∧ (AMap.get (0, false, false) m j).2.2 = false) ∧
      ∃ j ∈ otherMembers (groupState m []), (AMap.get (0, false, false) m j).2.1 = false) ∧
    (groupState [] []).groupMember = 0 ∧ 3 < (groupState [] []).groupSize ∧ (groupState [] []).mcore 5 = 0 ∧ (groupState [] []).reg 0xA003 ≠ 5 ∧ (groupState [] []).group.align = false := by
  decide +kernel

/-- A pending power-up with room in its segment; an overdraw in its third millisecond; a ramp, a raise, a full ledger. -/
theorem test_PowerReadings_hypotheses :
    (let s := { owned [] with power := { Power.reset with powerups := [(7, 1, 0, true, false)], overMs := 2, reserved := [(ledgerKey actField 7, 130)] } }
     AMap.get 0 s.power.reserved (ledgerKey actField 7) ≠ 0 ∧
     s.mcore 1 = 0 ∧ s.boot.todo = none ∧ s.power.overdraw = false ∧ tickTime s tkPower 1000000 < 0 + 2000000000 ∧ segmentReady { s with power := { s.power with domainMa := [], segmentMa := [] } } 7 = true ∧ s.reg 0x2000 * 1000 < 560001) ∧
    (f32Scaled 0x3F800000).isSome = true ∧ (let s := bare [(0x200A, 88, domRamp), (0x200A, 176, domRamp)]; s.domain 87 = domRamp ∧ s.domain 175 = domRamp ∧ s.boot.bist = none) ∧
    (let s := bare [(0x3005, 88, 6), (0x200A, 88, domOff)]; 0 < s.fieldStep 87 ∧ (s.logicalField 87).bind s.fieldSlot = none ∧ s.granted actHbm 23 < hbmPrice 2 ∧ s.domain 87 = domOff ∧
      s.rampAwaited 87 = false ∧ (owned []).overGranted = false) ∧
    (let s := { bare [] with power := { Power.reset with grants := [(ledgerKey actHbm 23, 30)] } }; s.overGranted = true ∧ hbmPrice 0 ≤ s.granted actHbm 23) ∧
    (let s := { bare [] with thermal := { Thermal.reset with raises := [(87, some (9, 0))] } }; s.mcore 2 = 0 ∧ AMap.get none s.thermal.raises 87 = some (9, 0) ∧ s.effective 87 = 0) ∧
    100 ≤ (560 : BitVec 16).toNat ∧ (560 : BitVec 16).toNat ≤ 560 ∧ (owned []).grantedTotal * 54000 ≤ (owned []).capacityFor 560 ∧
    f32BelowMilli ((owned [(0x3883, 0, 0x42C80000)]).reg 0x3883) (flowMin 560) = false ∧ (bare []).fits 100 = false ∧ (owned []).fits 100 = true ∧ (bare [(0x8010, 2, 1)]).mcore 1 ≠ 0 := by decide +kernel

theorem test_PowerFaults_hypotheses :
    (owned []).reg 0x2008 24 = 1 ∧ (owned []).power.deadBc.contains 23 = false ∧ bit (AMap.get 0 (bare []).power.phases 87) 11 = false ∧ bit (AMap.get 0 (bare []).power.pairs 175) 3 = false ∧ (bare []).fieldStep 87 < 6 ∧
    (let s := { bare [(0x3006, 88, 3 * 2 ^ 12)] with power := { Power.reset with lastFire := [(87, 5)] } }; s.mcore 1 = 0 ∧ 0 < s.limit 87 srcCatch ∧ 0 < AMap.get 0 s.power.lastFire 87) ∧ (bare []).domain 87 ≠ domIsolated := by
  decide +kernel

theorem test_HeatReadings_hypotheses :
    (bare []).mcore 2 = 0 ∧ (∀ d < 4, sensorState (bare []) (4 * 87 + d) = 0) ∧
    (∀ q < 88, mayRise { bare [(0x3802, 0, 90)] with now := tickTime (bare []) tkThrottle 10000000 } q = false) ∧
    (let s := { bare [(0x3802, 0, 90)] with thermal := { Thermal.reset with temps := [(12, 110000), (13, 110000), (14, 110000), (15, 110000)] } }
     mayRise { s with now := tickTime s tkThrottle 10000000 } 3 = true ∧ ∀ q < 88, mayRise { s with now := tickTime s tkThrottle 10000000 } q = true → q ≠ 3 → fieldTemp s q < fieldTemp s 3 ∨ (fieldTemp s q = fieldTemp s 3 ∧ 3 < q)) ∧
    (let s := bare [(0x3006, 88, 2 ^ 6)]; AMap.get false s.thermal.sticky 87 = false ∧ 0 < s.limit 87 srcMargin ∧ s.limit 87 srcMargin ≤ 6) ∧ AMap.get [] (bare []).thermal.residue 87 = [] ∧ (bare []).thermal.rainUsed = false ∧ (List.replicate 1408 1).length = 1408 ∧
    sensorState (bare []) 351 ≠ 2 := by decide +kernel
/-! ### Hypotheses met: clocks, counters, starts, Ethernet, firmware, the marionette complex -/

def refs (l : List (Nat × Nat × Nat)) : State := owned ((0x1020, 0, 7) :: l)
/-- The worked example of R411, D049 in uA and thousandths of a code. -/
def item0 : CalItem := ⟨gCurrent, 49, ⟨7999400, [128300], 3200, 0, []⟩, ⟨7999400, [128310], 3500, 0, []⟩⟩
def itemOk (s : State) (it : CalItem) : Bool := match judgeItem s it with
  | .ok _ => true
  | .error _ => false

/-- R411's worked example: 4 000 codes then publish 249.2 A, and a second run of 128.40 codes disagrees. -/
def value0 (s : State) : Nat := match judgeItem s item0 with
  | .ok v => v.1 + v.2 * 2 ^ 32 + 1
  | .error _ => 0
theorem test_current_example :
    (let s := { bare [] with calib := { Calib.reset with values := [(calKey gCurrent 49, value0 (bare []))] } }; (f32Ma (domainAmps s 49 4000000 none) + 50) / 100 = 2492) ∧
    itemOk (bare []) { item0 with run2 := { item0.run2 with windows := [128400] } } = false := by decide +kernel

theorem test_ClocksAndCalibration_hypotheses :
    bit ((refs []).reg 0x1020) 0 = true ∧ bit ((refs []).reg 0x1020) 1 = true ∧ (refs []).inGroup = false ∧ bit (refs []).calib.mask gTimebase = false ∧ (refs []).reg 0x9005 ≠ 1 ∧
    (let s := { refs [] with calib := { Calib.reset with mask := 2 ^ gTimebase, mode := 1, lost := 2 ^ gTimebase } }; bit s.calib.mask gTimebase = true ∧ s.calib.mode = 1 ∧ s.calib.lost ≠ 0 ∧ holdInForce s = false ∧
      ∀ g ∈ groupsOf s.calib.mask, s.mcore (calCore g) = 0) ∧ (bare []).fits 100 = false ∧
    (refs groupRegs).inGroup = true ∧ (2511 < 2490 ∨ 2510 < 2511) ∧
    calBusy (refs []) = false ∧ (∀ g < 5, bit 31 g = true → hasRef (refs []) g = true) ∧ (refs []).fits 100 = true ∧ naming (refs []) allFields = [] ∧
    (refs [(0x7008, 0, 3600)]).reg 0x7008 ≠ 0 ∧ (refs []).reg 0x4002 = 0xFF ∧
    (let s := { refs [] with calib := { Calib.reset with mask := 1, mode := 1 } }; bit s.calib.mask item0.group = true ∧ item0.item < calItems item0.group ∧
      (∀ g ∈ groupsOf s.calib.mask, s.mcore (calCore g) = 0) ∧ holdInForce s = false ∧ pairReady s item0 = true ∧ offsetKept s item0 = false ∧ s.calib.lost = 0 ∧ itemOk s item0 = true) := by decide +kernel

theorem test_CountersAndSamples_hypotheses :
    perfBusy (refs []) = false ∧ tgKind ((refs []).reg 0x6000) = 0 ∧ tgGood ((refs []).reg 0x6000) = true ∧ selectGood ((List.range 8).map fun i => (refs []).reg 0x6001 (i + 1)) 0x15 = true ∧
    (let v : BitVec 32 := 0x114; 8 ≤ v.toNat % 32 ∧ v.toNat % 32 ≤ 20 ∧ v.toNat = v.toNat % 32 + v.toNat / 256 % 2 * 256) ∧
    (let s := bare [(0x6008, 0, 0x108), (0x600A, 0, 1), (0x600A, 1, 0)]; sampling s = true ∧ c0.key ∈ sampleTargets s) ∧
    (let s := { bare [(0x6008, 0, 0x108), (0x600A, 0, 1), (0x600A, 1, 0)] with cores := [(0, { Core.fresh with tag := some ⟨0, 0, 0, 0, 0, 0, 0, 0, true⟩ })] }
     AMap.wf Core.fresh s.cores = true ∧ (s.core 0).tag = some ⟨0, 0, 0, 0, 0, 0, 0, 0, true⟩ ∧ (s.core 0).samples.length < 16) := by decide +kernel

def clean : BistReport := { BistReport.clean with imageOk := (true, true), edgeFailed := false, testEn := false }
theorem test_Starts_hypotheses :
    State.reset.boot.waiting = none ∧ clean.testEn = false ∧ State.reset.flash.record.trial = false ∧ State.reset.flash.record.active ≤ 1 ∧ clean.imageOk.1 = true ∧
    AMap.get none State.reset.flash.image 0 ≠ some [] ∧ clean.edgeFailed = false ∧ State.reset.calib.restoring = [] ∧
    (owned []).boot.waiting = none ∧ (owned []).reg 0x4002 ≠ 0 ∧ (owned []).testMode = false ∧
    (let s := owned []; (s.mcore 1 = 0 ∧ s.mcore 2 = 0 ∧ s.mcore 3 = 0 ∧ s.overGranted = false ∧ ∀ p < 88, segmentReady s p = true ∧ s.domain p = domOff) ∧ s.reg 0x4000 ≠ 3 ∧ s.rampAwaited 87 = false ∧ s.fits 130 = true) ∧
    (owned [(0x8010, 4, 1)]).mcore 3 ≠ 0 ∧ { owned [] with testMode := true }.testMode = true ∧ (owned [(0x4000, 0, 3)]).reg 0x4000 = 3 ∧
    (let s := { owned [(0x200A, 88, domRamp), (0x200A, 176, domRamp)] with boot := { Boot.reset with bist := some (87, 2) } }; s.boot.bist = some (87, 2) ∧ s.boot.todo = none ∧ s.domain 87 = domRamp ∧
      s.domain 175 = domRamp ∧ s.fits bistPrice = true) ∧
    (let s := owned [(0x200A, 88, domOn)]; s.domain 87 = domOn ∧ AMap.get false s.repair.dark 87 = false ∧ s.boot.bist = none ∧ naming s [0] = [] ∧ s.fits bistPrice = true) ∧
    AMap.get false (owned []).repair.dead (posKey 87 24 24) = false := by decide +kernel

theorem test_EthernetPorts_hypotheses :
    (owned []).portUp 0 = true ∧ (owned []).portUp 1 = false ∧ (let s := { owned [(0x200A, 218, domOn)] with ports := { EthPorts.reset with module := [(1, 121)] } }; s.domain 217 = domOn ∧ s.cagePowered 1 = true ∧
      s.boot.report.badPorts.contains 1 = false ∧ s.reg 0x1401 2 ≤ 3 ∧ s.mcore 5 = 0) ∧ (owned []).reg 0x1410 1 = 0 ∧ (owned []).reg 0x1404 1 = 0 ∧ (owned [(0x1410, 2, 2)]).reg 0x1410 2 ≠ 0 := by decide +kernel
theorem test_macsec_feature : Featured (owned []) 65536 8 := by
  intro i hi
  have h : ((owned []).colSid 65536) = some 0 := by decide +kernel
  rw [h] at hi; cases hi; decide +kernel

theorem test_FirmwareAndKeys_hypotheses :
    (owned [(0x1300, 0, 1)]).windowOpen = true ∧ (owned []).windowOpen = false ∧ (owned []).flash.enroll = none ∧ (owned []).flash.commit = none ∧ (owned []).mcore 0 = 0 ∧
    (leBytes 68 0x12000000).take 4 = xmssOid ∧ AMap.get [] (owned []).flash.keys 3 = [] ∧
    (let s := { owned [(0x8007, 0, 4)] with flash := { Flash.reset with commit := some [1] } }; s.flash.commit = some [1] ∧ s.reg 0x8007 = 4 ∧ s.flash.running ≤ 1) := by decide +kernel

theorem test_MarionetteCores_hypotheses :
    (bare []).mcore 5 = 0 ∧ (bare [(0x8010, 6, 1)]).mcore 5 = 1 ∧ (bare [(0x8010, 6, 2)]).mcore 5 = 2 ∧
    ((AMap.get [] (bare []).mcores.history 5).filter fun u => u + 60000000000 > (bare []).now).length < 3 ∧
    (let s := { bare [] with mcores := { Mcores.reset with history := [(5, [0, 0, 0])] } }; 3 ≤ ((AMap.get [] s.mcores.history 5).filter fun u => u + 60000000000 > s.now).length) ∧
    (bare []).power.waiting = [] ∧ (bare []).load = Load.none ∧ validSrc 5 = true ∧ (bare []).reg 0x8020 ≤ 3 ∧ (bare []).reg 0x8023 + 1 < 2 ^ 64 ∧ 0 < (bare [(0x8020, 0, 3)]).reg 0x8020 := by decide +kernel

/-! ### Hypotheses met: sessions -/

def rx8 : Rx := ⟨65536, 8, 0, ⟨0, 10, 47810⟩⟩
theorem test_InOrder_hypotheses : InOrder false (owned []) rx8 0 ∧ InOrder true (owned []) rx8 0 ∧ Room false (owned []) rx8 0 ∧ Room true (owned []) rx8 0 := by
  unfold InOrder Reaches Room Admits Quiet; decide +kernel

theorem test_ColSessions_hypotheses :
    (owned []).served false = true ∧ (owned []).served true = true ∧ reopened (owned []) false ⟨0, 10, 47810⟩ = none ∧ (0x0100 : BitVec 16).toNat / 256 = 1 ∧
    ((List.range 16).find? fun i => !((owned []).session false i).live) = some 1 ∧
    (let m : SentMsg := ⟨1, 2, 0, [], 0, 0, 0⟩; let s := { owned [] with col := [(0, { liveSession with inflight := [m], ackDue := some 9 })] }
     s.colSid 65536 = some 0 ∧ ((s.session false 0).inflight.find? fun y => y.seq == m.seq) = some m ∧ m.onPath = 0 ∧ (s.session false 0).ackDue = some 9) ∧
    (let m : SentMsg := ⟨1, 2, 0, [], 0, 0, 0⟩; let x := { liveSession with inflight := [m], paths := [(0, some (10, 47810)), (1, some (11, 47810))] }
     let s := { owned [(0x1400, 2, 3)] with col := [(0, x)] }
     s.portUp 0 = true ∧ s.portUp 1 = true ∧ s.served false = true ∧ (s.session false 0).usable = true ∧ (s.session false 0).cur = 0 ∧ (AMap.get none (s.session false 0).paths 1).isSome = true ∧
       (s.session false 0).inflight = [m]) := by decide +kernel

/-- A read-only entry, an owner-written one and a command, for a session that does not own the device and for the owner. -/
theorem test_DictionaryAccess_hypotheses :
    12 ≤ respRoom ((owned []).hears false 0 rx8) 0 ∧ (owned []).owns 65536 = true ∧ ({ owned [] with owner := Owner.none }).owns 65536 = false ∧ 4 ≤ (owned []).reg 0x4002 ∧ (owned []).reg 0x4000 ≠ 3 ∧
    [0x1000, 0x3007, 0x7001].map (fun idx => (visibleRow deviceFeatures idx (if idx = 0x3007 then 88 else 0)).map (·.access)) = [some .ro, some .rwo, some .cmd] ∧
    (visibleRow deviceFeatures 0x5000 0).map (fun r => (r.access, r.kind)) = some (.rwo, .num) ∧ entryFeature 0x5000 = none := by decide +kernel

theorem test_Ownership_hypotheses :
    rx8.sid ≠ 0 ∧ ({ owned [] with owner := Owner.none }).owner.sid = 0 ∧ (owned []).owner.sid = rx8.sid ∧ (owned []).now ≤ (owned []).owner.leaseEnd ∧
    (let o : Owner := ⟨65536, 1, 10, [(65537, 3), (65538, 2)]⟩; (o.claims.find? fun c => c.1 == 65537) = some (65537, 3) ∧ bestClaim o.claims = some (65538, 2) ∧ (65539 : Nat) ∉ o.claims.map (·.1)) ∧
    (owned []).mcore 4 = 0 := by decide +kernel

def message : ReqMsg := ⟨9, 0, 0, 8, 3, 0xFFFF, 0, 0, 0, 2, 100, 0, [5, 6]⟩
theorem test_CspSessions_hypotheses :
    reopened (owned []) true ⟨0, 10, 47810⟩ = none ∧ ((List.range 1024).find? fun i => !((owned []).session true i).live) = some 1 ∧ (owned []).entries = [] ∧ (owned []).inGroup = false ∧
    (owned []).part 0 (message.tag % 2 ^ 32) = none ∧ (owned []).entryOf 0 9 = none ∧ (owned []).ringTag 0 9 = false ∧ 1 ≤ message.prompt ∧ message.ids.length = message.prompt ∧
    (owned []).poolFit poolPrompt (promptRun message.prompt) promptUnits = some 0 ∧ findFrom (fun n => AMap.get 0 (owned []).serving.ring (n % 16384) == 0) 16384 (ringProd (owned []) 0) = some 0 := by decide +kernel
/-! ### Hypotheses met: loading and serving -/

def memOf (l : List (Nat × Nat × Nat)) : Mem := l.foldl (fun m x => Mem.write m x.1 (leBytes x.2.1 x.2.2)) []
/-- A binary of region 0 with cadence 4, an issue slot at phase 0, vocabulary 128, one field, one core that takes issue entries, a list of 64 words and two ways. -/
def binary : Mem := memOf (([(6, 1, 0), (8, 4, 4), (88, 4, 128), (92, 2, 4), (96, 2, 64), (98, 2, 2), (104, 4, 8), (112, 1, 1), (122, 2, 5),
  (256, 2, 9), (260, 4, 4), (264, 8, 1024), (272, 2, 1), (276, 4, 16), (280, 8, 1040), (288, 2, 6), (292, 4, 704), (296, 8, 1056), (304, 2, 0xA), (308, 4, 22), (312, 8, 1792),
  (1024, 1, 1), (1043, 1, 3), (1792, 4, 1), (1796, 2, 2), (1802, 2, 0), (1804, 1, 7), (1806, 2, 2), (1812, 2, 3)] : List (Nat × Nat × Nat)).map fun x => (stagedAddr 0 x.1, x.2))
def mainModel : Model := { Model.none with digest := [1], running := true }

/-- Entry 5 in a state, with one page list at area 0x20000, two prompt tokens and one to generate. -/
def entrySm (st : Nat) : Mem := memOf [(cardA 5, 8, st * 2 ^ 60), (cardA 5 + 32, 8, 2 * 2 ^ 45 + 10 * 2 ^ 7), (cardA 5 + 40, 8, 0x20000 * 2 ^ 42), (cardA 5 + 52, 4, 0)]
def serving (st : Nat) (v : Serving) (r : Req) : State := { owned [(0x5000, 0, 1024)] with hbm := binary, models := [(0, mainModel)], sm := entrySm st, serving := { v with reqs := [(5, r)] } }
def aReq : Req := { Req.none with live := true, upto := 2 }
def aPass : Pass := ⟨9, false, 4, 16, 5, 0, 2, true, false, [], false, [], [], none, 0, false, false, 0, none⟩

def shardXfer : Xfer := { xid := 1, kind := 2, digest := [1], num := 0, len := 8192, tried := 0, dest := none, first := 0, last := 0, failed := 0, runs := [], buf := [] }
theorem test_Loading_hypotheses :
    slotTaken (owned []) = false ∧ (owned []).load.op = 0 ∧ (owned []).mcore 0 = 0 ∧ (owned []).xfer (((owned []).image.xid + 1) % 2 ^ 32) = none ∧
    (let s := { owned [] with models := [(0, mainModel), (2, mainModel)] }; (s.model 2).held = true ∧ (s.model 0).held = true ∧ (s.model 1).held = false) ∧
    (let s := { owned [] with load := { Load.none with op := 2 }, models := [(0, { mainModel with draining := true })], beat := { Beat.reset with sampled := some ⟨4, true, []⟩ } }; stopEdge s = some 4 ∧ (s.model 0).draining = true ∧ drained s 0 = true ∧ s.load.slot = 0) ∧
    (let s := { owned [(0xA003, 0, 5)] with load := { Load.none with op := 1, start := some 3 }, beat := { Beat.reset with sampled := some ⟨4, true, []⟩ } }; startEdge s = some 4) ∧
    (let s := { owned [] with load := { Load.none with op := 1 }, image := { ImageCh.reset with xfers := [shardXfer] } }
     oldestXfer s = some shardXfer ∧ s.xfer 1 = some shardXfer ∧ covers (addRange shardXfer.runs 4096 8192) 0 8192 = false ∧ shardXfer.failed < 3) ∧
    (2 : Nat) < tableIds 2 ∧ (owned []).tables.loading = none ∧ (owned []).tableNamed 2 2 = false ∧ 0 < tableSize 2 ∧
    ([(1, 3, 77)].find? fun (r : Nat × Nat × Nat) => r.1 == 1 && r.2.1 == 3) = some (1, 3, 77) := by decide +kernel

/-- A paused entry without private pages: its image is the header rows alone; a push under way; a tenant's salt, node and limit. -/
theorem test_Pausing_hypotheses :
    (serving stPaused Serving.reset aReq).est 5 = stPaused ∧ ((serving stPaused Serving.reset aReq).req 5).resuming = false ∧ (serving stPaused Serving.reset aReq).imgFlags 5 = 0 ∧
    AMap.get 0 ({ Serving.reset with loading := [(pageKey true 7, 5)] }).loading (pageKey true 7) = 5 ∧ (serving stPaused Serving.reset aReq).imageMoving 5 = false ∧
    (let s := { serving stPaused Serving.reset aReq with sm := Mem.write (entrySm stPaused) (64 * 0x20000 + 9) [2] }; bit (s.imgFlags 5) 1 = true ∧ s.xfer 1 = none) ∧
    (let s := { serving stPaused Serving.reset aReq with image := { ImageCh.reset with pushes := [⟨3, 5, 0, 8192, 0, 0, 0, 0⟩] } }; s.push 3 = some ⟨3, 5, 0, 8192, 0, 0, 0, 0⟩ ∧ 0x20000 ≤ s.plist 5 ∧ s.portUp 0 = true ∧ s.reg 0x1410 1 = 0) ∧
    (0xFFFFFFFF : BitVec 128) ≠ 0 ∧
    ((owned []).tenantLimits.filter fun p => p.1 != 3).length + 1 ≤ 256 := by decide +kernel
theorem test_SerialFeatures : Featured (owned []) 65536 3 ∧ Featured (owned []) 65536 4 := ⟨test_Featured_hypotheses 3 (by decide), test_Featured_hypotheses 4 (by decide)⟩

/-- Issue slot 1 at beat 4 of the cadence, two beats ahead; a prefill request that is ready. -/
theorem test_Issue_hypotheses :
    (let s := { serving stPrefill Serving.reset aReq with beat := { Beat.reset with taken := [(0, 2)] } }
     holdInForce s = false ∧ (s.srv false).running = true ∧ s.inGroup = false ∧ nextIssue s false = some 1 ∧ wideSlot 1 = false ∧ s.entries = [5] ∧ s.endDl 5 = 0 ∧ s.est 5 = stPrefill ∧
     readyMain s 5 = true ∧ (s.entryRecs false).map (·.key) = [0] ∧ slotBeat s (s.srv false) 1 = 4 ∧ s.takenOf false ≤ 4 ∧ s.fieldSlot 0 = some 0) ∧
    (let r := (serving stPrefill Serving.reset aReq).entryRecs false; (r.find? fun r => r.key == c0.key).isSome = true) ∧
    isRecord ⟨srcEndpoint 0x1A3, hdrOf 127 (0x184 / 32) (0x184 % 32) 0 0 1 0, []⟩ = true ∧ toTumbler 4 ⟨srcEndpoint 0x1A3, hdrOf 127 (0x184 / 32) (0x184 % 32) 0 0 1 0, []⟩ = true := by decide +kernel

/-- A row for slot 3 of sorter 23 whose pass is there, the last row of its position among them; a slot past its deadline. -/
def candidate : Packet := ⟨0, hdrOf 127 (0x197 / 32) (0x197 % 32) 0 0 0 (3 * 2048), [packRowOf]⟩ where
  packRowOf : Row := BitVec.ofNat 512 (packLanes 32 [0x3F800000, 0, 0, 0, 0, 0, 0, 0, 7, 100, 100, 100, 100, 100, 100, 100])
/-- An idle issue record at tumbler core 4, which stands for the one that takes records, and a member that takes it. -/
def linkRecord : Packet := ⟨srcEndpoint 0x1A3, hdrOf 127 (0x184 / 32) (0x184 % 32) 0 0 1 0, [0]⟩
def memberRecords : State := bare [(0x9003, 0, 4), (0x9004, 0, 1), (0x9005, 0, 2)]
def sortState (rows : Nat) (taken : Nat) : State := { serving stDecode { Serving.reset with passes := [aPass], sorter := [(sorterKey 23 3, some ⟨9, 0, rows, [], none⟩)] } aReq with beat := { Beat.reset with taken := [(0, taken)] } }
theorem test_TumblerTakes :
    Takes (sortState 0 0) (.given candidate) (fun q => toTumbler 23 q && !isRecord q) candidate 0 ∧
    Takes { sortState 0 0 with net := [candidate] } (.inFlight 0) (fun q => toTumbler 23 q && !isRecord q) candidate 0 ∧
    Takes (owned []) (.given linkRecord) (fun q => toTumbler 4 q && !isCandidate q) linkRecord 0 ∧ isRecord linkRecord = true ∧
    Takes { owned [] with net := [linkRecord] } (.inFlight linkRecord.src) (fun q => toTumbler 4 q && !isCandidate q) linkRecord 0 ∧
    rowField (linkRecord.flits.getD 0 0) 14 1 = 0 ∧ recordChanges linkRecord 0 = [] ∧ (memberRecords.inGroup = true ∧ memberRecords.groupMember ≠ 0) := by
  refine ⟨⟨rfl, ?_⟩, ?_, ⟨rfl, ?_⟩, ?_, ?_, ?_⟩ <;> (try simp only [Takes]) <;> decide +kernel
theorem test_CandidateRows_hypotheses :
    toTumbler 23 candidate = true ∧ isCandidate candidate = true ∧ hdrSpad candidate.h / 2048 = 3 ∧ (sortState 0 0).pass 9 = some aPass ∧
    ((rowPairs (candidate.flits.getD 0 0)).filter fun y => y.1 ≤ 63 && 64 * (hdrSpad candidate.h % 2048) + y.1 < (sortState 0 0).hVocab ((sortState 0 0).srv false)) = [(7, 0x3F800000)] ∧
    0 + 1 < ceilDiv ((sortState 0 0).hVocab ((sortState 0 0).srv false)) 64 ∧ ceilDiv ((sortState 1 0).hVocab ((sortState 1 0).srv false)) 64 ≤ 1 + 1 ∧
    slotMissing (sortState 1 24) ⟨9, 0, 1, [], none⟩ aPass = true ∧ slotMissing (sortState 1 23) ⟨9, 0, 1, [], none⟩ aPass = false := by decide +kernel

theorem test_Delivery_hypotheses :
    (let s := serving stDecode { Serving.reset with passes := [{ aPass with tokens := some [7] }] } aReq
     s.pass 9 = some { aPass with tokens := some [7] } ∧ s.attemptOf 9 = false ∧ cDiscard (s.ctrl 5) = false ∧ cDone (s.ctrl 5) = false ∧ s.serving.outbox = [] ∧ ringUsed s 1 < 16384 ∧
     (cutOf s 5 [7]).reason = none ∧ s.deadline 5 = none ∧ s.endDl 5 = 0 ∧ s.est 5 = stDecode) ∧
    (let s := { owned [] with sm := memOf [(0x500010, 4, 1)] }; ringUsed s 1 = 1 ∧ (s.session true 0).usable = true ∧ Mem.nat s.sm (txAddr (ringCons s 1)) 2 = 0) ∧ ringUsed (owned []) 1 = 0 ∧
    (let s := serving stDecode { Serving.reset with passes := [{ aPass with delivered := true, first := 63, count := 1 }], dirBase := [(0, 0x300000)] } aReq
     s.pageAt 5 0 = some 0 ∧ s.dirAddr false 0 + 0x8000 + 32 ≤ listAddr s 5 ∧ 0x208000 ≤ s.dirAddr false 0 ∧ (s.dir false 0).shared = false ∧ cPmode (s.ctrl 5) = 0) := by decide +kernel

theorem test_Admission_hypotheses :
    (let s := { serving stFree { Serving.reset with ring := [(0, 1)] } Req.none with sm := memOf [(0x500000, 4, 1)] }
     findFrom (fun n => AMap.get 0 s.serving.ring (n % 16384) == 1) (ringUsed s 0) (ringCons s 0) = some 0 ∧ arrivalRefusal s (arrivalOf s 0) ≠ none ∧ s.freeEntry = some 0 ∧
       s.badWords (requestAddr (arrivalOf s 0).rec_) 64 = []) ∧
    (let s := serving stQueued Serving.reset aReq; s.entries = [5] ∧ s.est 5 = stQueued ∧ (s.req 5).leadPages = [] ∧ s.queuePlace 5 = 1 ∧ (s.req 5).qpos = 0 ∧ cPmode (s.ctrl 5) = 0 ∧ (s.model 0).running = true) ∧
    (serving stRetired Serving.reset aReq).est 5 = stRetired := by decide +kernel

theorem test_Escalations_hypotheses :
    (let s := { serving stDecode { Serving.reset with passes := [aPass] } aReq with sm := (memOf [(0x500020, 4, 1), (interleaved escalationRing 8, 4, 18)]) }
     0 < ringUsed s 2 ∧ recordBad s (interleaved escalationRing 0) = false ∧ Mem.nat s.sm (interleaved escalationRing 8) 4 = 18 ∧ s.fieldSlot 0 = some 0 ∧
     escRec s (s.model 0) (18 % max 1 (s.hCadence (s.model 0))) 0 0 = some ⟨0, 7, 0, 2⟩ ∧ attemptPass s false (18 - 2) = some aPass) ∧
    recordBad { bare [] with smBad := [(interleaved escalationRing 0 / 8, true), ((interleaved escalationRing 0 + 0x8000) / 8, true)] } (interleaved escalationRing 0 + 0x8000) = true ∧
    (let s := { bare [] with serving := { Serving.reset with attempts := [(9, 0, 21, [5])], passes := [aPass] }, beat := { Beat.reset with taken := [(0, 22)] } }
     (s.serving.attempts.find? fun a => a.1 == 9) = some (9, 0, 21, [5]) ∧ ((s.serving.passes ++ s.serving.reissue).find? fun p => p.pseq == 9) = some aPass ∧ 21 < s.takenOf aPass.lead) := by decide +kernel
theorem test_CanonicalKept_hypotheses : st5.Canonical := by constructor <;> first | decide +kernel | (unfold dictFits; decide +kernel)
theorem test_clampScan_hypotheses : st5.mcore 3 = 0 := by decide +kernel

/-! ### Hypotheses met: the whole machine -/

theorem test_SlotRoundTrip_hypotheses :
    (Instr.vst core9 15 63 7 255 1 7).wf = true ∧ (Instr.vst core9 15 63 7 255 1 7).core? = some core9 ∧ (encodeSlot (.vst core9 15 63 7 255 1 7)).isSome = true := by decide +kernel
theorem test_reserved_boundaries :
    3 < bits 0x40000000 31 28 ∧ bits 0x27FFFFFF 31 26 = 0x09 ∧ bits 0x58000000 31 26 = 0x16 ∧ 0x20 < bits 0x84000000 31 26 ∧ 7 < bits 0x8000 15 12 ∧ 8 < bits 0x48000000 31 27 ∧ 12 < bits 0xD000 15 12 := by
  decide +kernel
/-- R133: one saturation more than the threshold, and a threshold of 0xFFFF. -/
theorem test_verdict :
    verdict (5 * 2 ^ 48 + 0xFFFF * 2 ^ 32 + 0xFFFF * 2 ^ 16) { Tile.clear with sat := 6 } = true ∧ verdict (5 * 2 ^ 48 + 0xFFFF * 2 ^ 32 + 0xFFFF * 2 ^ 16) { Tile.clear with sat := 5 } = false := by decide +kernel

/-! ### Hypotheses met: further clauses -/

/-- The escalation ring is full and one report waits. -/
def fullRing : State := { oneCore { Core.fresh with reports := 1 } [] with sm := Mem.write [] 0x500020 (leBytes 4 32768), dict := regsOf [(0x3003, 0, 2500), (0x4007, 1, 0)] }
theorem test_ReportsWait_hypotheses :
    reportsFit fullRing = false ∧ reportsFit edgeState = true ∧ reportsFit (holdState (.released 9) []) = true ∧ fullRing.inGroup = false ∧
    (let s := { fullRing with beat := { Beat.reset with sampled := some ⟨1, true, []⟩ } }; reportsFit s = false ∧ s.beat.sampled = some ⟨1, true, []⟩ ∧ s.beat.hold = .none) := by decide +kernel

theorem test_ControlErrors_hypotheses : (24 < 31 ∨ 24 < 3) ∧ ctlExists (.handle 64 0) = false ∧ ctlExists (.handle 63 3) = true ∧ ctlGuarded (.handle 63 3) = true := by decide +kernel

theorem test_LinkAccepts_hypotheses :
    (let p : Packet := ⟨srcFirmware, hdrOf 127 (0x1A5 / 32) (0x1A5 % 32) 0 0 0 0, [envelope 2 0 0 0]⟩
     hdrField p.h = 127 ∧ hdrEndpoint p.h = 0x1A0 + 5 ∧ linkAccepts (linkState_ lkUp) 5 p = true) := by decide +kernel

/-- WARN and CRIT codes of monitor 11 of field 87 as a calibration keeps them: 20.0 and 10.0. -/
def marginState : State := { bare [] with calib := { Calib.reset with values := [(calKey gMargin (12 * 87 + 11), 0x41A00000 + 0x41200000 * 2 ^ 32 + 1)] } }
theorem test_Margins_hypotheses :
    (20 : Int) ≤ marginState.warnCode 87 11 ∧ marginState.warnCode 87 11 < 21 ∧ (10 : Int) ≤ marginState.critCode 87 11 ∧ marginState.critCode 87 11 < 11 ∧
    (let s := bare [(0x3006, 88, 2 ^ 6)]; AMap.get 0 s.thermal.unsafeStep 87 < s.limit 87 srcMargin) ∧ (bare [(0x200A, 88, domIsolated)]).domain (351 / 4) = domIsolated ∧
    (bare []).domain (351 / 4) ≠ domIsolated := by decide +kernel

/-- A sealed blob: magic, version 1, class 0, a byte, its length, and the digest of a body of zeros. -/
def blobOf (magic : Nat) (b len : Nat) : List Byte :=
  (leBytes 4 magic ++ leBytes 2 1 ++ leBytes 1 0 ++ leBytes 1 b ++ leBytes 4 len ++ leBytes 4 0) ++ (shake256 32 (List.replicate (len - 48) 0) ++ List.replicate (len - 48) 0)

/-- What stands at the places of a head of 16 bytes, and behind it a digest and its body. -/
theorem blob_places (h d body : List Byte) (hh : h.length = 16) (hd : d.length = 32) :
    (h ++ (d ++ body)).length = 48 + body.length ∧ (h ++ (d ++ body)).take 4 = h.take 4 ∧ (∀ o n, o + n ≤ 16 → field (h ++ (d ++ body)) o n = field h o n) ∧
      slice (h ++ (d ++ body)) 16 32 = d ∧ (h ++ (d ++ body)).drop 48 = body := by
  refine ⟨by simp [hh, hd]; omega, by rw [List.take_append_of_le_length (by omega)], ?_, ?_, ?_⟩
  · intro o n hon
    unfold field slice
    rw [List.drop_append_of_le_length (by omega), List.take_append_of_le_length (by simp; omega)]
  · unfold slice
    rw [List.drop_append_of_le_length (by omega), List.drop_eq_nil_of_le (by omega), List.nil_append, List.take_left' hd]; simp [hd]
  · rw [← List.append_assoc, List.drop_left' (by simp [hh, hd])]
/-- A map blob and a calibration blob that the device takes. -/
theorem sealed_blobs_good (s : State) (hr : s.reg 0x1002 = 0) : mapBlobGood s (blobOf 0x4D525243 0 12664) = true ∧ calBlobGood s (blobOf 0x41435243 1 12464) = true := by
  constructor
  · obtain ⟨h1, h2, h3, h4, h5⟩ := blob_places (leBytes 4 0x4D525243 ++ leBytes 2 1 ++ leBytes 1 0 ++ leBytes 1 0 ++ leBytes 4 12664 ++ leBytes 4 0) _
      (List.replicate (12664 - 48) 0) rfl (shake256_length (List.replicate (12664 - 48) 0))
    unfold mapBlobGood blobOf
    rw [h1, h2, h3 4 2 (by omega), h3 6 1 (by omega), h3 7 1 (by omega), h3 8 4 (by omega), h3 12 4 (by omega), h4, h5, hr, List.length_replicate]
    simp only [beq_self_eq_true, Bool.and_true]; decide
  · obtain ⟨h1, h2, h3, h4, h5⟩ := blob_places (leBytes 4 0x41435243 ++ leBytes 2 1 ++ leBytes 1 0 ++ leBytes 1 1 ++ leBytes 4 12464 ++ leBytes 4 0) _
      (List.replicate (12464 - 48) 0) rfl (shake256_length (List.replicate (12464 - 48) 0))
    unfold calBlobGood blobOf
    rw [h1, h2, h3 4 2 (by omega), h3 6 1 (by omega), h3 8 4 (by omega), h3 12 4 (by omega), h4, h5, hr, List.length_replicate]
    simp only [beq_self_eq_true, Bool.and_true]; decide
theorem test_blobs : mapBlobGood (owned []) (blobOf 0x4D525243 0 12664) = true ∧ calBlobGood (refs []) (blobOf 0x41435243 1 12464) = true :=
  ⟨(sealed_blobs_good _ (by decide +kernel)).1, (sealed_blobs_good _ (by decide +kernel)).2⟩
theorem test_cal_groups : groupsOf 1 ≠ [] ∧ bit 1 gMargin = false ∧ (∀ g ∈ groupsOf 1, hasRef (refs []) g = true) ∧ (refs []).boot.assist = none := by decide +kernel
theorem test_StartTriggers_hypotheses :
    chosenRecord State.reset = some (Flash.reset.record, 0) ∧ Flash.reset.record.trial = false ∧ Flash.reset.record.active ≤ 1 ∧
    slotGood { State.reset with boot := { State.reset.boot with report := clean } } Flash.reset.record.active = true ∧
    (let s := { owned [] with boot := { Boot.reset with waiting := some (2, 77) } }; s.startWaits 2 = true ∧ s.startWaits 1 = false) ∧
    (let s := { owned [] with boot := { Boot.reset with waiting := some (1, 77) } }; s.boot.waiting = some (1, 77) ∧ s.startWaits 2 = false) ∧
    (let s := { owned [] with boot := { Boot.reset with lowSince := some 0 } }; s.boot.lowSince = some 0 ∧ s.startWaits 1 = false ∧ max s.now (0 + 9 * 1000000) < 0 + 10000000 ∧
      0 + 1000000000 ≤ max s.now (0 + 1000 * 1000000) ∧ s.now < 0 + 1000000000) ∧
    (let s := { owned [] with now := 1000000000, boot := { Boot.reset with lowSince := some 0 } }; s.startWaits 1 = false ∧ s.boot.lowSince = some 0 ∧ 0 + 1000000000 ≤ s.now) ∧
    (let s := { owned [] with boot := { Boot.reset with bist := some (87, 0), assist := some 5 } }; s.boot.bist = some (87, 0) ∧ s.mcore 3 = 0 ∧ s.boot.assist = some 5) := by decide +kernel
theorem test_Macsec_hypotheses :
    (let s := owned [(0x1410, 1, 1)]; s.portUp 0 = true ∧ s.reg 0x1410 1 ≠ 0 ∧ ∀ an < 2, (AMap.get MacAssoc.none s.ports.assoc (4 * 0 + 2 + an)).valid = false) ∧
    (let d : Datagram := ⟨0, 1, 47810, 0xC0, 0, 0, 0, 0, 0, [1]⟩; d.payload.length ≤ (owned []).lenMax d.addr) := by decide +kernel

/-- A segment whose recorded digest no image can have. -/
theorem test_segment_bad : segmentGood { bare [] with flash := { Flash.reset with digests := [[1]] } } 0 = false ∧ segmentGood (bare []) 5 = true := by
  constructor
  · simp [segmentGood, Flash.reset, leBytes]
  · decide +kernel

theorem test_FlashEvents_hypotheses :
    (let s := { owned [(0x8007, 0, 3)] with flash := { Flash.reset with commit := some [1] } }; s.reg 0x8007 = 3 ∧ s.flash.commit = some [1] ∧ s.mcore 0 = 0) ∧
    (owned [(0x8010, 1, 1)]).mcore 0 ≠ 0 ∧ ({ owned [] with boot := { Boot.reset with doneAt := 1 } }).boot.doneAt ≠ 0 := by decide +kernel

/-- A page of a request whose descriptors are written and whose rows have come; one still to come; a member that holds a shared page of request 5. -/
def loadState (taken : Nat) : State := { serving stPaused { Serving.reset with loading := [(pageKey false 7, 5)], dirBase := [(0, 0x300000)] } aReq with
  sm := Mem.write (entrySm stPaused) (0x300000 + 32 * 7) (leBytes 2 3 ++ leBytes 1 pgLoading ++ leBytes 1 0 ++ leBytes 2 1), beat := { Beat.reset with taken := [(0, taken)] } }
theorem test_PageReload_hypotheses :
    (let s := loadState 4; AMap.get 0 s.serving.loading (pageKey false 7) ≠ 0 ∧ AMap.get 0 s.serving.loading (pageKey false 7) ≤ s.takenOf false + 1 ∧ s.serving.fetchQ = [] ∧
      (s.dir false 7).refs = 1 ∧ (s.dir false 7).state = pgLoading ∧ s.smBad = []) ∧
    (let s := loadState 3; s.takenOf false + 1 < AMap.get 0 s.serving.loading (pageKey false 7)) := by decide +kernel

/-- What a member has been told: a paused request without private pages, a wide pass, and a frame that may be read. -/
theorem test_Members_hypotheses :
    (let s := { serving stPrefill { Serving.reset with memberPaused := [(5, List.replicate 17 noPage)], memberRungs := [(9, [5])] } aReq with
        dict := regsOf ((0x9004, 0, 1) :: groupRegs.filter fun r => r.1 != 0x9004) }
     s.inGroup = true ∧ s.groupMember ≠ 0 ∧ AMap.get [] s.serving.memberPaused 5 = List.replicate 17 noPage ∧ (∀ w ∈ (List.replicate 17 noPage).drop 16, bit w 7 = false) ∧
       rungsTold s ⟨9, 5, 0, 1, [7], [], []⟩ = true ∧ slotRungs s ⟨9, 5, 0, 1, [7], [], []⟩ = some [(1, 1)] ∧ framesOld s [] = true ∧ s.damaged = []) ∧
    (let s := serving stRetired { Serving.reset with attempts := [] } { aReq with detail := 1 }; s.est 5 = stRetired ∧ cTerm (s.ctrl 5) = 0 ∧ (s.req 5).detail = 1 ∧ s.serving.outbox = [] ∧ ringUsed s 1 = 0) ∧
    (let s := { bare [] with serving := { Serving.reset with passes := [aPass, { aPass with pseq := 10 }] } }; followers s aPass = [{ aPass with pseq := 10 }]) := by decide +kernel

/-- Issue slots and writes: the beats at which a write is in time; a record with two positions and one without any. -/
def recordFlit (slot entry first count pseq : Nat) : Row := recordRow slot entry first count pseq
theorem test_IssueWrites_hypotheses :
    (let s := { serving stPrefill Serving.reset aReq with beat := { Beat.reset with taken := [(0, 2)] } }; inTime s false 4 = true ∧ inTime s false 3 = false ∧ s.inGroup = false) ∧
    rowField (recordFlit 9 5 64 2 77) 0 8 = 9 ∧ rowField (recordFlit 9 5 64 2 77) 8 2 = 5 ∧ rowField (recordFlit 9 5 64 2 77) 10 4 = 64 ∧ rowField (recordFlit 9 5 64 2 77) 14 1 = 2 ∧
    rowField (recordFlit 9 5 64 2 77) 15 4 = 77 ∧ rowField (recordFlit 9 0xFFFF 0 0 0) 14 1 = 0 ∧
    recordChanges ⟨0, 0, [recordFlit 9 0xFFFF 0 0 0]⟩ 0 = [] ∧
    (let s := { serving stPrefill Serving.reset aReq with dict := regsOf ((0x9004, 0, 1) :: groupRegs.filter fun r => r.1 != 0x9004) }; s.inGroup = true ∧ s.groupMember ≠ 0) := by decide +kernel

theorem test_Closes_hypotheses :
    (let s := { bare [] with serving := { Serving.reset with attempts := [(9, 0, 21, [5])], reissue := [aPass] }, beat := { Beat.reset with taken := [(0, 22)] } }
     ((s.serving.passes ++ s.serving.reissue).find? fun p => p.pseq == 9) = some aPass ∧ s.passSent aPass = false ∧ (∃ r ∈ s.serving.reissue, r.pseq = 9)) ∧
    (bare []).passSent { aPass with delivered := true } = true ∧
    (let s := { serving stDecode { Serving.reset with passes := [aPass] } aReq with sm := memOf [(0x500020, 4, 1), (interleaved escalationRing 8, 4, 18)] }
     ranRung s (s.model 0) aPass 0 7 = 0) ∧ Quiet (owned []) ∧ (owned []).badWords (txAddr 0) 128 = [] := by unfold Quiet; decide +kernel
end Sys2Proof.Tests
end

section
/-! PROOF. Every step keeps the canonical form. -/

namespace Sys2Proof.Machine

/-- Every command keeps the canonical form: its meaning is a program, and no update breaks the form. -/
theorem exec_canonical (c : Instr) {s t : State} (hs : s.Canonical) (h : exec c s = .next t) : t.Canonical := by
  obtain ⟨p, hp⟩ := exec_prog c
  exact Prog.run_keeps State.Canonical (fun _ u hi => hi.apply u) p s t hs (hp s ▸ h)

/-- Settles O3: the canonical form does not look at the queue or at the time, and every command keeps it. -/
theorem canonicalKept : Obligations.CanonicalKept := by
  intro s t hs h
  unfold step at h
  split at h
  · cases h
    exact { hs with }
  · next c rest _ =>
    have hr : State.Canonical { s with pending := rest } := { hs with }
    exact exec_canonical c hr h

end Sys2Proof.Machine
end

section
/-! PROOF. Two statements that a slip mark out of range refutes. -/

namespace Sys2Proof.Machine

/-! ### A slip mark that names no field

FIELD_SLIPS (0x3044) has one element for each of the 88 fields, but nothing in the type of the state bounds the field
numbers that a slip mark keeps.  When a hold takes the place of the slip (R39, R190), the mark's old values are written
back to element f + 1 of entry 0x3044 for each of its fields f; an f far past 88 makes that another entry's element. -/

/-- A slip of the edge 2000 whose mark writes a value back to the element at a key of the dictionary above FIELD_SLIPS. -/
def strayMark (key v : Nat) : SlipMark := ⟨2000, 0, 0, [(key - regKey 0x3044 1, v)], none⟩

/-- A device at 1000 ns whose sample before the edge 2000 found a slip with such a mark: beat period 1 ns, physical field 1 at step 6, and core 0 as given. -/
def straySlip (key v : Nat) (c : Core) : State := { State.reset with
  now := 1000, dict := [(regKey 0x3003 0, 1), (regKey 0x3005 2, 6)], cores := [(0, c)],
  beat := { Beat.reset with sampled := some ⟨2000, false, []⟩, slipMark := some (strayMark key v) } }

/-- What a state that a command leaves reads as; none where the command stops. -/
def leavesAt {α : Type} (f : State → α) (i : Instr) (s : State) : Option α :=
  match exec i s with
  | .next t => some (f t)
  | _ => none

theorem leavesAt_of_exec {α : Type} {f : State → α} {i : Instr} {s t : State} (h : exec i s = .next t) : leavesAt f i s = some (f t) := by
  simp only [leavesAt, h]

/-! ### HOLD_REQUEST -/

/-- Core 0 held since time 0; FIELD_MAP puts its field at physical field 0, which runs at 700 MHz, and the stray mark at field 1, which runs at 350 MHz. -/
def heldMoved : State :=
  straySlip (regKey 0x4007 1) 1 { Core.fresh with run := .issuing, held := some ⟨.guard 0, .mnop ⟨0, 0, 0⟩, 0⟩ }

/-- The hold counts the core's wait at the speed of the field that the stray mark names. -/
theorem heldMoved_counts_350 : leavesAt (fun t => (t.core 0).cycle) .holdRequest heldMoved = some 350 := by decide +kernel

/-- Up to the request the core has waited 700 cycles. -/
theorem heldMoved_waited_700 : ((heldMoved.core 0).stopForHold (heldMoved.heldCycles 0 (heldMoved.core 0))).cycle = 700 := by decide +kernel

/-- Refutes O34: its first clause asks nothing of the slip mark, whose values reach FIELD_MAP before the waits are counted. -/
theorem not_holdsBegin : ¬ Obligations.HoldsBegin := by
  rintro ⟨begins, -⟩
  obtain ⟨t, ht, -, -, hcores, -⟩ := begins heldMoved rfl (by decide +kernel)
  have hcycle := leavesAt_of_exec (f := fun t => (t.core 0).cycle) ht
  rw [heldMoved_counts_350, hcores 0, heldMoved_waited_700] at hcycle
  exact absurd hcycle (by decide)

/-! ### Voids -/

/-- A VLD through handle 0, which has no rows. -/
def rowlessLoad : Instr := .vld ⟨0, 0, 0⟩ 0 0 0 0 0

/-- Core 0 runs with that VLD alone in its word; the stray mark names CORE_FAULT_TOTAL (0x4024). -/
def voidMiscounted : State :=
  straySlip (regKey 0x4024 0) 5 { Core.fresh with run := .issuing, store := [(0, 2 ^ 26 * 2 ^ 64)] }

theorem voidMiscounted_begins : Begins voidMiscounted ⟨0, 0, 0⟩ rowlessLoad (voidMiscounted.begun ⟨0, 0, 0⟩ rowlessLoad) := by
  refine ⟨?_, ?_, rfl⟩
  · unfold Offered; decide +kernel
  · unfold WordFree; decide +kernel

/-- The hold that the void requests writes the stray mark's value over the count of the void. -/
theorem voidMiscounted_counts_5 : leavesAt (fun t => t.reg 0x4024) rowlessLoad voidMiscounted = some 5 := by decide +kernel

theorem voidMiscounted_next : (voidMiscounted.reg 0x4024 + 1) % 2 ^ regWidth (regKey 0x4024 0) = 1 := by decide +kernel

/-- Refutes O23: its last clause asks nothing of the slip mark, whose values reach the count of voids after the void is counted. -/
theorem not_stepsHoldOrVoid : ¬ Obligations.StepsHoldOrVoid := by
  rintro ⟨-, -, voids⟩
  obtain ⟨u, hu, -, hcount, -⟩ := voids voidMiscounted _ ⟨0, 0, 0⟩ 0 0 0 0 rfl (by decide +kernel) _ (List.mem_cons_self ..) (by decide +kernel)
    voidMiscounted_begins
  have hread := leavesAt_of_exec (f := fun t => t.reg 0x4024) hu
  rw [hcount, voidMiscounted_next] at hread
  exact absurd (voidMiscounted_counts_5.symm.trans hread) (by decide)

end Sys2Proof.Machine
end

section
/-! PROOF. Held steps issue after all. -/

namespace Sys2Proof.Machine

/-! ### What bookkeeping leaves alone: the handles and the egress queue -/

@[simp] theorem Core.event_handles (c : Core) (e n : Nat) : (c.event e n).handles = c.handles := by unfold Core.event; split <;> rfl
@[simp] theorem Core.event_egress (c : Core) (e n : Nat) : (c.event e n).egress = c.egress := by unfold Core.event; split <;> rfl
@[simp] theorem Core.event_held (c : Core) (e n : Nat) : (c.event e n).held = c.held := by unfold Core.event; split <;> rfl
@[simp] theorem Core.event_heldBy (c : Core) (e n : Nat) : (c.event e n).heldBy = c.heldBy := by unfold Core.event; split <;> rfl

/-- Counting events, one after another, keeps what each event keeps. -/
theorem Core.foldl_event {α : Type} (f : Core → α) (hf : ∀ (c : Core) (e n : Nat), f (c.event e n) = f c) (n : Core → Nat) (es : List Nat) (c : Core) :
    f (es.foldl (fun c e => c.event e (n c)) c) = f c := by
  induction es generalizing c with
  | nil => rfl
  | cons e es ih => rw [List.foldl_cons, ih, hf]

@[simp] theorem Core.countWait_handles (c : Core) (n : Nat) : (c.countWait n).handles = c.handles :=
  Core.foldl_event Core.handles Core.event_handles (fun c => n - c.heldCnt) _ c
@[simp] theorem Core.countWait_egress (c : Core) (n : Nat) : (c.countWait n).egress = c.egress :=
  Core.foldl_event Core.egress Core.event_egress (fun c => n - c.heldCnt) _ c

@[simp] theorem Core.reach_handles (c : Core) (id : CoreId) : (c.reach id).handles = c.handles := by unfold Core.reach; (repeat' split) <;> rfl
@[simp] theorem Core.reach_egress (c : Core) (id : CoreId) : (c.reach id).egress = c.egress := by unfold Core.reach; (repeat' split) <;> rfl

/-- A step of another unit than the sequencer leaves them alone as it begins. -/
theorem Core.begin_handles (c : Core) (id : CoreId) (i : Instr) (cl : List (Nat × Nat)) (h : slotOfStep i ≠ 4) : (c.begin id i cl).handles = c.handles := by
  simp only [Core.begin, h, if_false, Core.event_handles]
  split <;> simp [Core.tagIssues]
theorem Core.begin_egress (c : Core) (id : CoreId) (i : Instr) (cl : List (Nat × Nat)) (h : slotOfStep i ≠ 4) : (c.begin id i cl).egress = c.egress := by
  simp only [Core.begin, h, if_false, Core.event_egress]
  split <;> simp [Core.tagIssues]

@[simp] theorem State.core_putCore (s : State) (c : CoreId) (x : Core) : (s.putCore c x).core c.key = x := State.apply_core_core s c.key x

/-- The slots of the steps that are held (R75). -/
theorem slotOfStep_vld (c : CoreId) (vr : BitVec 4) (h : BitVec 6) (x : BitVec 3) (imm : BitVec 8) (sub : BitVec 2) : slotOfStep (.vld c vr h x imm sub) = 1 := rfl
theorem slotOfStep_dsend (c : CoreId) (h route : BitVec 6) (x xd : BitVec 3) (len : BitVec 4) (pred : BitVec 3) : slotOfStep (.dsend c h x route xd len pred) = 3 := rfl

/-- So a step that begins finds the handles and the egress queue that the word found. -/
theorem Begins.handles {s t : State} {c : CoreId} {i : Instr} (hb : Begins s c i t) (hi : slotOfStep i ≠ 4) : (t.core c.key).handles = (s.core c.key).handles := by
  obtain ⟨-, -, rfl⟩ := hb
  simp [State.begun, Core.begin_handles _ _ _ _ hi]
theorem Begins.egress {s t : State} {c : CoreId} {i : Instr} (hb : Begins s c i t) (hi : slotOfStep i ≠ 4) : (t.core c.key).egress = (s.core c.key).egress := by
  obtain ⟨-, -, rfl⟩ := hb
  simp [State.begun, Core.begin_egress _ _ _ _ hi]

theorem State.freedCore_handles (s : State) (c : CoreId) : (s.freedCore c).handles = (s.core c.key).handles := by
  simp [State.freedCore, Core.advanceCycles]
theorem State.freedCore_egress (s : State) (c : CoreId) : (s.freedCore c).egress = (s.core c.key).egress := by
  simp [State.freedCore, Core.advanceCycles]

/-! ### Reads -/

/-- What waits for a handle depends on the handles alone. -/
theorem Core.mustFill_congr {c d : Core} (h : c.handles = d.handles) (i : Nat) : c.mustFill i = d.mustFill i := by
  simp [Core.mustFill, Core.handle, h]

/-- A read that succeeds goes through a handle that may be read (R68). -/
theorem Reads.mustFill {s : State} {c : CoreId} {h i n : Nat} {rows : List Row} {stored : List Nat} (hr : Reads s c h i n rows stored) :
    (s.core c.key).mustFill h = false := by
  have := hr.ready
  unfold guardReady at this
  split at this
  · cases this
  · next hm => simpa using hm

theorem storedRows_length (h i n : Nat) (rs : List Nat) (hr : storedRows h i n = .ok rs) : rs.length = n := by
  induction n generalizing i rs with
  | zero => cases hr; rfl
  | succ n ih =>
    unfold storedRows at hr
    cases h0 : storedRow h i with
    | error e => rw [h0] at hr; cases hr
    | ok r =>
      cases h1 : storedRows h (i + 1) n with
      | error e => rw [h0, h1] at hr; cases hr
      | ok rest => rw [h0, h1] at hr; cases hr; simp [ih _ _ h1]

/-- A read of n rows gives n rows. -/
theorem readRows_length {s : State} {k : Nat} {c : Core} {h i n : Nat} {r : List Row × List Nat} (hr : readRows s k c h i n = .ok r) : r.1.length = n := by
  unfold readRows at hr
  cases hg : guardReady c h with
  | error e => rw [hg] at hr; cases hr
  | ok _ =>
    rw [hg, ok_bind] at hr
    simp only at hr
    split at hr
    · split at hr
      · cases hr
      · split at hr
        · cases hr
        · cases hr; simp
    · cases h0 : storedRows (c.handle h) i n with
      | error e => rw [h0] at hr; cases hr
      | ok rs => rw [h0] at hr; cases hr; simp [storedRows_length _ _ _ _ h0]

/-! ### The end of a wait -/

/-- A core held for one condition that is met goes on with its step, unless another condition of the word holds it (R76). -/
theorem releaseWord_run {s u : State} {c : CoreId} {kind : StallCause → Bool} {st : Stall} (hheld : (s.core c.key).held = some st)
    (hby : (s.core c.key).heldBy = []) (hkind : kind st.cause = true) (hmet : causeMet s (s.core c.key) st.cause = true)
    (hu : u = s.putCore c (s.freedCore c)) (hw : wordHold u c (u.core c.key) = none) : (releaseWord c kind).run s = (unitStep c st.step).run u := by
  have hcauses : (s.core c.key).causes = [st.cause] := by simp [Core.causes, hheld, hby]
  subst hu
  have hw' : wordHold (s.apply (.core c.key (s.freedCore c))) c ((s.apply (.core c.key (s.freedCore c))).core c.key) = none := hw
  simp only [releaseWord, Prog.run_get, hcauses, hheld, List.filter_cons, hkind, hmet, Bool.and_self, if_true, List.filter_nil,
    List.contains_cons, beq_self_eq_true, Bool.true_or, Bool.not_true, Bool.false_eq_true, if_false, setCore, Prog.andThen_one, Prog.run_upd, resumeWord, hw']
  rfl

/-! ### GUARDED_READ_RELEASE -/

/-- A VLD of four rows that may be read loads them (R87). -/
theorem vldStep_rows {s : State} {c : CoreId} {vr h x imm : Nat} {rows : List Row} {stored : List Nat}
    (hr : Reads s c h (vuIndex (s.core c.key) x imm) 4 rows stored) :
    vldStep c.key vr h x imm 0 s (s.core c.key) = .ok { core := (s.core c.key).setV vr (packRows rows), reads := stored, claims := readClaims ((s.core c.key).handle h) 0 4 stored } := by
  unfold vldStep
  rw [hr.ready, ok_bind, if_neg (by decide), hr.1, ok_bind]
  rfl

/-- A VLD held by a guard that is FULL has its effect (R68). -/
theorem guardedVld_completes {s u t : State} {c : CoreId} {vr : BitVec 4} {h : BitVec 6} {x : BitVec 3} {imm : BitVec 8} {since : Nat} {rows : List Row}
    {stored : List Nat} (hv : c.valid = true) (hby : (s.core c.key).heldBy = []) (hheld : (s.core c.key).held = some ⟨.guard h.toNat, .vld c vr h x imm 0, since⟩)
    (hu : u = s.putCore c (s.freedCore c)) (hw : wordHold u c (u.core c.key) = none) (hb : Begins u c (.vld c vr h x imm 0) t)
    (hr : Reads t c h.toNat (vuIndex (t.core c.key) x.toNat imm.toNat) 4 rows stored) :
    exec (.guardedReadRelease c) s = .next (t.after c ((t.core c.key).setV vr.toNat (packRows rows)) stored []) := by
  have hhandles : (t.core c.key).handles = (s.core c.key).handles := by
    rw [hb.handles (by simp [slotOfStep_vld]), hu, State.core_putCore, State.freedCore_handles]
  have hfull : causeMet s (s.core c.key) (.guard h.toNat) = true := by
    simp [causeMet, ← Core.mustFill_congr hhandles, hr.mustFill]
  have hrel := releaseWord_run (kind := isGuard) hheld hby rfl hfull hu hw
  have hrun := unit_run hb (f := vldStep c.key vr.toNat h.toNat x.toNat imm.toNat 0) rfl (vldStep_rows hr) rfl rfl hr.2
  calc exec (.guardedReadRelease c) s = (releaseWord c isGuard).run s := by
        show (withCore c fun _ => releaseWord c isGuard).run s = _
        simp [withCore, hv]
    _ = _ := hrel.trans hrun

/-! ### EGRESS_ROOM -/

/-- Injected packets are the oldest of the queue; the others stay, in order. -/
theorem injectUntil_append (n fuel : Nat) (q : List Packet) : (injectUntil n fuel q).1 ++ (injectUntil n fuel q).2 = q := by
  induction fuel generalizing q with
  | zero => rfl
  | succ fuel ih =>
    unfold injectUntil
    split
    · rfl
    · cases q with
      | nil => rfl
      | cons p rest => simp [ih]

/-- With fuel for the whole queue, room appears for any packet. -/
theorem injectUntil_room (n fuel : Nat) (q : List Packet) (hn : n ≤ 64) (hq : q.length ≤ fuel) : flitCount (injectUntil n fuel q).2 + n ≤ 64 := by
  induction fuel generalizing q with
  | zero =>
    obtain rfl : q = [] := List.length_eq_zero_iff.1 (Nat.le_zero.1 hq)
    simpa [injectUntil, flitCount] using hn
  | succ fuel ih =>
    unfold injectUntil
    split
    · assumption
    · cases q with
      | nil => simpa [flitCount] using hn
      | cons p rest => exact ih rest (by simpa using hq)

/-- A DSEND with room and rows that may be read sends them over its route (R95, R96). -/
theorem dsendStep_sends {s : State} {c : CoreId} {hs route : BitVec 6} {xs xd len : Nat} {pred : BitVec 3} {rows : List Row} {stored : List Nat}
    (hroute : routeLocal (routeOf s c route) = false) (hroom : EgressRoom s c (len + 1))
    (hr : Reads s c hs.toNat ((s.core c.key).xreg xs) (len + 1) rows stored) :
    dsendStep c.key hs.toNat xs route.toNat xd len pred.toNat s (s.core c.key) = .ok {
      core := sent s c pred (setBits (setBits (tmplOf s c route) 40 37 len) 27 12 ((hdrSpad (tmplOf s c route) + (s.core c.key).xreg xd) % 65536)) rows,
      reads := stored, claims := readClaims ((s.core c.key).handle hs.toNat) 0 4 stored } := by
  have hready : sendReady (s.core c.key) [hs.toNat] (len + 1) = .ok () := by
    have : ¬ 64 < flitCount (s.core c.key).egress + (len + 1) := Nat.not_lt.2 hroom
    simp [sendReady, hr.mustFill, this, holdFor]
  have hlen : rows.length - 1 = len := by rw [readRows_length hr.1]; rfl
  simp only [dsendStep, hroute, Bool.false_eq_true, if_false, hready, ok_bind, hr.1, sendOrWrite, hlen]
  rfl

/-- Room for so many flits of a held word. -/
theorem Core.egressNeed_of_held {c : Core} {n : Nat} {i : Instr} {since : Nat} (hheld : c.held = some ⟨.egress n, i, since⟩) : c.egressNeed = some n := by
  simp [Core.egressNeed, Core.causes, hheld]

/-- A DSEND held for want of room has its effect once packets have left (R66). -/
theorem heldDsend_completes {s u v t : State} {c : CoreId} {h route : BitVec 6} {x xd : BitVec 3} {len : BitVec 4} {pred : BitVec 3} {since : Nat}
    {rows : List Row} {stored : List Nat} {r : List Packet × List Packet} (hv : c.valid = true) (hby : (s.core c.key).heldBy = [])
    (hheld : (s.core c.key).held = some ⟨.egress (len.toNat + 1), .dsend c h x route xd len pred, since⟩)
    (hr : r = injectUntil (len.toNat + 1) (s.core c.key).egress.length (s.core c.key).egress) (hroom : flitCount r.2 + (len.toNat + 1) ≤ 64)
    (hu : u = (s.apply (.net (s.net ++ r.1))).putCore c (Core.event { s.core c.key with egress := r.2 } 0x0E (flitCount r.1)))
    (hvv : v = u.putCore c (u.freedCore c)) (hw : wordHold v c (v.core c.key) = none) (hb : Begins v c (.dsend c h x route xd len pred) t)
    (hroute : routeLocal (routeOf t c route) = false) (hreads : Reads t c h.toNat (xOf t c x) (len.toNat + 1) rows stored) :
    exec (.egressRoom c) s = .next (t.after c (sent t c pred
      (setBits (setBits (tmplOf t c route) 40 37 len.toNat) 27 12 ((hdrSpad (tmplOf t c route) + xOf t c xd) % 65536)) rows) stored []) := by
  have hcore : u.core c.key = Core.event { s.core c.key with egress := r.2 } 0x0E (flitCount r.1) := by rw [hu, State.core_putCore]
  have hegress : (t.core c.key).egress = r.2 := by
    rw [hb.egress (by simp [slotOfStep_dsend]), hvv, State.core_putCore, State.freedCore_egress, hcore, Core.event_egress]
  have hroomU : causeMet u (u.core c.key) (.egress (len.toNat + 1)) = true := by
    simpa [causeMet, hcore] using hroom
  have hroomT : EgressRoom t c (len.toNat + 1) := by
    unfold EgressRoom
    rwa [hegress]
  have hrel := releaseWord_run (s := u) (kind := isEgress) (st := ⟨.egress (len.toNat + 1), .dsend c h x route xd len pred, since⟩)
    (by simp [hcore, hheld]) (by simp [hcore, hby]) rfl hroomU hvv hw
  have hrun := unit_run hb (f := dsendStep c.key h.toNat x.toNat route.toNat xd.toNat len.toNat pred.toNat) rfl
    (dsendStep_sends hroute hroomT hreads) rfl rfl hreads.2
  calc exec (.egressRoom c) s = (releaseWord c isEgress).run u := by
        show (withCore c fun core => _).run s = _
        simp only [withCore, hv, if_true, Prog.run_get, Core.egressNeed_of_held hheld, ← hr, Prog.seq_cons, Prog.seq_nil, Prog.andThen_one, Prog.run_upd, setCore,
          Prog.andThen_done_right, hu]
        rfl
    _ = _ := hrel.trans hrun

/-- Settles O29: a held step resumes as a step that begins, in the state that its release leaves. -/
theorem heldStepsIssue : Obligations.HeldStepsIssue := by
  intro s u v t c h route x xd since rows stored hv hby
  refine ⟨fun vr imm hheld hu hw hb hr => guardedVld_completes hv hby hheld hu hw hb hr, fun len pred r hheld hr hu => ?_⟩
  have hroom : flitCount r.2 + (len.toNat + 1) ≤ 64 := hr ▸ injectUntil_room _ _ _ (by have := len.isLt; omega) (Nat.le_refl _)
  exact ⟨hr ▸ injectUntil_append _ _ _, hroom, fun hvv hw hb hroute hreads =>
    heldDsend_completes hv hby hheld hr hroom hu hvv hw hb hroute hreads⟩

end Sys2Proof.Machine
end

section
/-! PROOF. COL messages: how one in order is heard, and how it is answered. -/

namespace Sys2Proof.Machine

/-! ### A message in order (R285 to R290) -/

@[simp] theorem State.session_apply_col (s : State) (i : Nat) (x : Session) : (s.apply (.col i x)).session false i = x := AMap.get_put_self _ _ i x

/-- What a session id names is a live session at its index (R286). -/
theorem colSid_eq_some {s : State} {sid i : Nat} :
    s.colSid sid = some i ↔ sid % 65536 = i ∧ i < 16 ∧ (s.session false i).usable = true ∧ (s.session false i).sid i = sid := by
  simp only [State.colSid, Option.ite_none_right_eq_some, Bool.and_eq_true, decide_eq_true_eq, beq_iff_eq, Option.some.injEq]
  constructor
  · rintro ⟨⟨⟨h1, h2⟩, h3⟩, rfl⟩
    exact ⟨rfl, h1, h2, h3⟩
  · rintro ⟨rfl, h1, h2, h3⟩
    exact ⟨⟨⟨h1, h2⟩, h3⟩, rfl⟩

/-- A state in which the session is as live as before knows its id. -/
theorem colSid_congr {s t : State} {sid i : Nat} (hs : s.colSid sid = some i) (hl : (t.session false i).usable = (s.session false i).usable)
    (hg : (t.session false i).gen = (s.session false i).gen) : t.colSid sid = some i := by
  obtain ⟨h1, h2, h3, h4⟩ := colSid_eq_some.1 hs
  exact colSid_eq_some.2 ⟨h1, h2, hl.trans h3, by simpa [Session.sid, hg] using h4⟩

@[simp] theorem State.hears_session (s : State) (i : Nat) (rx : Rx) : (s.hears false i rx).session false i = (s.session false i).accepted rx s.now :=
  State.session_apply_col _ i _

/-- An empty backlog gives nothing to send. -/
theorem pumpBacklog_empty {s : State} {i : Nat} (n : Nat) (h : (s.session false i).backlog = []) : (pumpBacklog false i n).run s = .next s := by
  cases n with
  | zero => rfl
  | succ n => simp only [pumpBacklog, Prog.run_get, h, Prog.run_done]

/-- The session's part of a datagram: its path is taken and its acknowledgement leaves the window. -/
theorem touchSession_run {s : State} {i : Nat} (rx : Rx) (h : (s.session false i).backlog = []) :
    (touchSession false i rx.path rx.ack fun _ => .done).run s = .next (s.apply (.col i ((s.session false i).touched rx s.now))) := by
  have hb : ((s.apply (.col i ((s.session false i).touched rx s.now))).session false i).backlog = [] := by simpa [Session.touched] using h
  have := pumpBacklog_empty 256 hb
  simpa [touchSession, setSession, Session.touched] using this

/-- A message in order is accepted, and its body runs in the state that has heard it (R290). -/
theorem inOrder_run {s : State} {i : Nat} (rx : Rx) (body : Nat → Prog) (hseq : rx.seq = ((s.session false i).rxSeq + 1) % 2 ^ 32) :
    (inOrder false i rx.seq body).run (s.apply (.col i ((s.session false i).touched rx s.now))) = (body i).run (s.hears false i rx) := by
  have hseq' : rx.seq = (((s.session false i).touched rx s.now).rxSeq + 1) % 2 ^ 32 := hseq
  simp only [inOrder, Prog.run_get, State.session_apply_col]
  rw [if_pos hseq']
  rfl

/-- A COL message that is next in order: its body runs in the state that has heard it, then the key events that are due. -/
theorem receiveCol_run {s : State} {rx : Rx} {i : Nat} (hin : InOrder false s rx i) (body : Nat → Prog) :
    (receiveCol rx true body).run s = ((body i).andThen sakEvents).run (s.hears false i rx) := by
  obtain ⟨⟨hport, hserved, ⟨hup, hmac⟩, -, hsid, hback⟩, hseq⟩ := hin
  replace hsid : s.colSid rx.sid = some i := hsid
  have hmac' : (s.reg 0x1410 (rx.path.port + 1) != 0 &&
      !(List.range 2).any fun an => (AMap.get MacAssoc.none s.ports.assoc (4 * rx.path.port + 2 + an)).valid) = false := by
    rcases hmac with h | h <;> simp [h]
  simp only [receiveCol, receive, arriving, if_neg (Nat.not_lt.2 hport), Prog.run_get, hup, Bool.not_true, Bool.false_eq_true, if_false, hmac',
    Prog.andThen_get, hserved, hsid, if_true]
  rw [Prog.andThen_assoc, Prog.run_andThen_next _ _ _ _ (touchSession_run rx hback), Prog.run_andThen, inOrder_run rx body hseq, ← Prog.run_andThen]

/-! ### Answers (R290) -/

/-- With no port in the mode that counts packet numbers, a frame makes no key event due (R285). -/
theorem sendFrame_sakDue {s : State} {d : Datagram} (h : s.reg 0x1410 (d.port + 1) ≠ 1) : (s.sendFrame d).ports.sakDue = s.ports.sakDue := by
  have h' : AMap.get 0 s.dict (regKey 0x1410 (d.port + 1)) ≠ 1 := h
  simp only [State.sendFrame, h', decide_false, Bool.false_and, Bool.false_eq_true, if_false]
  (repeat' split) <;> rfl

/-- The state after a session has sent a message: the datagram has left and the message waits for its acknowledgement. -/
def State.sentOn (s : State) (i typ flags : Nat) (payload : List Byte) : State :=
  (s.apply (datagram false i (s.session false i) typ flags (((s.session false i).txSeq + 1) % 2 ^ 32) payload)).apply
    (.col i ((s.session false i).sends s.now typ flags payload))

/-- The session that keeps a response for a duplicate of its request. -/
def Session.keeping (x : Session) (reqSeq typ flags : Nat) (payload : List Byte) : Session :=
  { x with responses := ((reqSeq, typ * 2 ^ 40 + flags * 2 ^ 32 + (x.txSeq + 1 + x.backlog.length) % 2 ^ 32, payload) :: x.responses).take 256 }

/-- The state after an answer. -/
def State.answered (s : State) (i reqSeq typ flags : Nat) (payload : List Byte) : State :=
  (s.apply (.col i ((s.session false i).keeping reqSeq typ flags payload))).sentOn i typ flags payload

/-- A live session whose window has room sends at once (R290). -/
theorem sendMsg_run {s : State} {i : Nat} (typ flags : Nat) (payload : List Byte) (hu : (s.session false i).usable = true)
    (hroom : (s.session false i).inflight.length < 256) : (sendMsg false i typ flags payload).run s = .next (s.sentOn i typ flags payload) := by
  simp only [sendMsg, Prog.run_get, hu, Bool.not_true, Bool.false_eq_true, if_false, hroom, if_true]
  rfl

@[simp] theorem State.answered_session (s : State) (i reqSeq typ flags : Nat) (payload : List Byte) :
    (s.answered i reqSeq typ flags payload).session false i = (s.session false i).responds s.now reqSeq typ flags payload := by
  simp only [State.answered, State.sentOn, State.session_apply_col]
  rfl

theorem State.sameBut_apply {ps : List Part} (s : State) (u : Update) (h : ∀ p ∈ u.parts, p ∈ ps) : State.sameBut ps s (s.apply u) :=
  fun p hp => State.apply_same s u p fun hm => hp (h p hm)

theorem State.sameBut_trans {ps : List Part} {s t u : State} (h₁ : State.sameBut ps s t) (h₂ : State.sameBut ps t u) : State.sameBut ps s u := by
  intro p hp
  have e₁ := h₁ p hp
  have e₂ := h₂ p hp
  cases p <;> simp only [State.same] at * <;> rw [e₂, e₁]

theorem State.sameBut_mono {ps qs : List Part} {s t : State} (hpq : ∀ p ∈ ps, p ∈ qs) (h : State.sameBut ps s t) : State.sameBut qs s t :=
  fun p hp => h p fun hm => hp (hpq p hm)

theorem State.answered_sameBut (s : State) (i reqSeq typ flags : Nat) (payload : List Byte) : State.sameBut sendParts s (s.answered i reqSeq typ flags payload) := by
  refine State.sameBut_trans (State.sameBut_trans (State.sameBut_apply s _ ?_) (State.sameBut_apply _ _ ?_)) (State.sameBut_apply _ _ ?_) <;>
    simp [Update.parts, datagram, sendParts]

theorem State.hears_sameBut (s : State) (i : Nat) (rx : Rx) : State.sameBut sendParts s (s.hears false i rx) := by
  refine State.sameBut_trans (State.sameBut_apply s _ ?_) (State.sameBut_apply _ _ ?_) <;> simp [Update.parts, sendParts]

/-- A live session whose window has room is answered at once. -/
theorem respond_run {s : State} {i : Nat} (reqSeq typ flags : Nat) (payload : List Byte) (hu : (s.session false i).usable = true)
    (hroom : (s.session false i).inflight.length < 256) : (respond i reqSeq typ flags payload).run s = .next (s.answered i reqSeq typ flags payload) := by
  simp only [respond, Prog.run_get]
  exact sendMsg_run (s := s.apply (.col i ((s.session false i).keeping reqSeq typ flags payload))) typ flags payload
    (by simpa [Session.keeping, Session.usable] using hu) (by simpa [Session.keeping] using hroom)

/-- No key event is due after a send on a session of a quiet device. -/
theorem sentOn_sakDue {s : State} {i : Nat} (typ flags : Nat) (payload : List Byte) (hq : Quiet s) (hport : (s.session false i).cur ≤ 1) :
    (s.sentOn i typ flags payload).ports.sakDue = [] := by
  have hmode : s.reg 0x1410 ((s.session false i).cur + 1) ≠ 1 := hq.2 _ hport
  have hsent : (s.apply (datagram false i (s.session false i) typ flags (((s.session false i).txSeq + 1) % 2 ^ 32) payload)).ports.sakDue = s.ports.sakDue :=
    sendFrame_sakDue hmode
  exact hsent.trans hq.1

theorem sakEvents_quiet {s : State} (h : s.ports.sakDue = []) : sakEvents.run s = .next s := by
  simp [sakEvents, h]

/-- What is asked of the state that answers on a session: it is live, its window has room, and no key event is or comes due. -/
structure Answers (s : State) (i : Nat) : Prop where
  usable : (s.session false i).usable = true
  room : (s.session false i).inflight.length < 256
  port : (s.session false i).cur ≤ 1
  quiet : Quiet s

/-- An answer ends its message: no key event follows it. -/
theorem respond_ends {s : State} {i : Nat} (h : Answers s i) (reqSeq typ flags : Nat) (payload : List Byte) :
    ((respond i reqSeq typ flags payload).andThen sakEvents).run s = .next (s.answered i reqSeq typ flags payload) := by
  rw [Prog.run_andThen_next _ _ _ _ (respond_run reqSeq typ flags payload h.usable h.room)]
  have hport : ((s.apply (.col i ((s.session false i).keeping reqSeq typ flags payload))).session false i).cur ≤ 1 := by
    rw [State.session_apply_col]
    exact h.port
  exact sakEvents_quiet (sentOn_sakDue typ flags payload h.quiet hport)

/-- A state that has heard a message in order, with room for one more message, answers. -/
theorem hears_answers {s : State} {rx : Rx} {i : Nat} (hin : InOrder false s rx i) (hroom : Room false s rx i) : Answers (s.hears false i rx) i where
  usable := by
    rw [State.hears_session]
    exact (colSid_eq_some.1 hin.1.2.2.2.2.1).2.2.1
  room := by
    rw [State.hears_session]
    exact hroom
  port := by
    rw [State.hears_session]
    exact hin.1.1
  quiet := hin.1.2.2.2.1

end Sys2Proof.Machine
end

section
/-! PROOF. One entry of a READ and of a WRITE. -/

namespace Sys2Proof.Machine

/-- Programs that run alike run alike before another. -/
theorem Prog.run_andThen_congr {p p' : Prog} {s s' : State} (q : Prog) (h : p.run s = p'.run s') : (p.andThen q).run s = (p'.andThen q).run s' := by
  rw [Prog.run_andThen, Prog.run_andThen, h]

/-! ### READ (R292 to R294) -/

/-- An entry whose read mends and rewrites nothing is answered in the state as it is. -/
theorem readGo_one {s : State} {i : Nat} (reqSeq tag : Nat) {e : ReadEntry} {room : Nat} (hlog : e.idx ≠ 0x8022) (hsamples : e.idx ≠ 0x600C)
    (hcard : e.idx = 0x5011 → s.damaged = []) (hroom : 12 ≤ room) :
    (readGo i reqSeq tag [e] 0 room []).run s = (respond i reqSeq 0x12 0 (respBody tag 1
      (respEntry e.idx e.sub (readAnswer s i e).1 (readAnswer s i e).2.1 (cutTo (room - 12) (readAnswer s i e).2.2)))).run s := by
  have hmend : (Prog.when (e.idx = 0x5011) (served .done)).run s = .next s := by
    by_cases h : e.idx = 0x5011 <;> simp [h, served, hcard]
  simp only [readGo, if_neg (Nat.not_lt.2 hroom)]
  rw [Prog.run_andThen_next _ _ _ _ hmend]
  simp [hlog, hsamples]

/-- A READ of one such entry. -/
theorem colRead_one {s : State} {rx : Rx} {i : Nat} (tag : Nat) {e : ReadEntry} (hin : InOrder false s rx i) (hroom : Room false s rx i)
    (hlog : e.idx ≠ 0x8022) (hsamples : e.idx ≠ 0x600C) (hcard : e.idx = 0x5011 → s.damaged = []) (hresp : 12 ≤ respRoom (s.hears false i rx) i) :
    exec (.colRead rx tag [e]) s = .next ((s.hears false i rx).answered i rx.seq 0x12 0 (respBody tag 1
      (respEntry e.idx e.sub (readAnswer (s.hears false i rx) i e).1 (readAnswer (s.hears false i rx) i e).2.1
        (cutTo (respRoom (s.hears false i rx) i - 12) (readAnswer (s.hears false i rx) i e).2.2)))) :=
  calc exec (.colRead rx tag [e]) s
    _ = ((readGo i rx.seq tag [e] 0 (respRoom (s.hears false i rx) i) []).andThen sakEvents).run (s.hears false i rx) := receiveCol_run hin _
    _ = _ := Prog.run_andThen_congr _ (readGo_one rx.seq tag hlog hsamples hcard hresp)
    _ = _ := respond_ends (hears_answers hin hroom) ..

/-- A number without a rule of its own reads as its register. -/
theorem readAnswer_num (s : State) (i : Nat) {idx : Nat} (n : Nat) {r : RegRow} (hr : dictRow? idx = some r) (hk : r.kind = .num) (hf : entryFeature idx = none)
    (hidx : idx ∉ [0x1101, 0x1202, 0x3001, 0x3002, 0x6005, 0x600B, 0x8021]) :
    readAnswer s i ⟨idx, 0, 0, n⟩ = (.ok, r.bytes, (leBytes r.bytes (s.reg idx)).take n) := by
  simp only [List.mem_cons, List.not_mem_nil, or_false, not_or] at hidx
  obtain ⟨h1, h2, h3, h4, h5, h6, h7⟩ := hidx
  have hvis : ∀ features, visibleRow features idx 0 = some r := by intro f; simp [visibleRow, hr, hf, subOk]
  simp [readAnswer, hvis, readValue, hk, readNum, h1, h2, h3, h4, h5, h6, h7, leBytes_length]

/-! ### WRITE (R14, R293, R294) -/

/-- A session writes to a device that M4 serves and whose start has not failed. -/
structure Writes (s : State) (sid i : Nat) : Prop where
  sid : s.colSid sid = some i
  mcore : s.mcore 4 = 0
  step : 4 ≤ s.reg 0x4002
  started : s.reg 0x4000 ≠ 3

theorem servedWrite_run {s : State} {sid i : Nat} (h : Writes s sid i) (p : Prog) : (servedWrite sid p).run s = p.run s := by
  simp [servedWrite, h.sid, h.mcore, Nat.not_lt.2 h.step]

/-- Another client than the owner is answered NOT_OWNER. -/
theorem ownerWrite_notOwner {s : State} {sid i : Nat} (h : Writes s sid i) (ho : s.owns sid = false) (k : Answer → Prog) (body : (Answer → Prog) → Prog) :
    (ownerWrite sid k body).run s = (k .notOwner).run s := by
  rw [ownerWrite, servedWrite_run h]
  simp [h.started, ho]

theorem ownerWriteAny_notOwner {s : State} {sid i : Nat} (h : Writes s sid i) (ho : s.owns sid = false) (k : Answer → Prog) (body : (Answer → Prog) → Prog) :
    (ownerWriteAny sid k body).run s = (k .notOwner).run s := by
  rw [ownerWriteAny, servedWrite_run h]
  simp [ho]

/-- The owner's write is carried out. -/
theorem ownerWrite_owner {s : State} {sid i : Nat} (h : Writes s sid i) (ho : s.owns sid = true) (k : Answer → Prog) (body : (Answer → Prog) → Prog) :
    (ownerWrite sid k body).run s = (body k).run s := by
  rw [ownerWrite, servedWrite_run h]
  simp [h.started, ho]

/-- A write of an owner-only entry by another client has no effect but its answer (R14). -/
theorem writeEntry_notOwner {s : State} {sid i : Nat} {e : WriteEntry} {r : RegRow} (h : Writes s sid i) (ho : s.owns sid = false)
    (hr : visibleRow (s.session false i).features e.idx e.sub = some r) (ha : r.access = .ro ∨ r.access = .rwo ∨ r.access = .cmd) (k : Answer → Prog) :
    (writeEntry sid e k).run s = (k .notOwner).run s := by
  simp only [writeEntry, Prog.run_get, h.sid, hr]
  rcases ha with ha | ha | ha <;> simp only [ha]
  · exact ownerWrite_notOwner h ho ..
  · exact ownerWrite_notOwner h ho ..
  · split
    · exact ownerWriteAny_notOwner h ho ..
    · exact ownerWrite_notOwner h ho ..

/-- The owner's write of an entry that it may write is judged by the entry's own rule. -/
theorem writeEntry_rwo {s : State} {sid i : Nat} {e : WriteEntry} {r : RegRow} (h : Writes s sid i) (ho : s.owns sid = true)
    (hr : visibleRow (s.session false i).features e.idx e.sub = some r) (ha : r.access = .rwo) (k : Answer → Prog) :
    (writeEntry sid e k).run s = (setValue r e.idx e.sub e.value k).run s := by
  simp only [writeEntry, Prog.run_get, h.sid, hr, ha]
  exact ownerWrite_owner h ho ..

/-- The numbers that have a rule of their own. -/
def ruledNumbers : List Nat :=
  [0x1401, 0x1402, 0x1407, 0x1408, 0x1410, 0x2000, 0x3007, 0x3802, 0x3884, 0x6000, 0x6001, 0x6002, 0x6007, 0x6008, 0x600A, 0x7008, 0x9020]

/-- A number without a rule of its own is stored. -/
theorem setElem_plain {idx : Nat} (h : idx ∉ ruledNumbers) (sub n : Nat) (k : Answer → Prog) : setElem idx sub n k = (setReg idx sub n).andThen (k .ok) := by
  simp only [ruledNumbers, List.mem_cons, List.not_mem_nil, or_false, not_or] at h
  simp [setElem, h]

/-- The owner's write of the right length stores the number. -/
theorem writeEntry_num {s : State} {sid i idx : Nat} {v : List Byte} {r : RegRow} (h : Writes s sid i) (ho : s.owns sid = true)
    (hr : visibleRow (s.session false i).features idx 0 = some r) (ha : r.access = .rwo) (hk : r.kind = .num) (hidx : idx ∉ ruledNumbers) (hlen : v.length = r.bytes)
    (k : Answer → Prog) : (writeEntry sid ⟨idx, 0, v⟩ k).run s = (k .ok).run (s.apply (.reg (regKey idx 0) (leNat v))) := by
  rw [writeEntry_rwo h ho hr ha]
  simp [setValue, hk, hlen, setElem_plain hidx, setReg]

/-- A write of another length is refused and changes nothing. -/
theorem writeEntry_badLength {s : State} {sid i idx : Nat} {v : List Byte} {r : RegRow} (h : Writes s sid i) (ho : s.owns sid = true)
    (hr : visibleRow (s.session false i).features idx 0 = some r) (ha : r.access = .rwo) (hk : r.kind = .num) (hlen : v.length ≠ r.bytes)
    (k : Answer → Prog) : (writeEntry sid ⟨idx, 0, v⟩ k).run s = (k (.refuse 2)).run s := by
  rw [writeEntry_rwo h ho hr ha]
  simp [setValue, hk, hlen]

/-- COOLING_BASELINE (0x3893) is a command that every session sees. -/
theorem coolingBaseline_row (features : Nat) : ∃ r, visibleRow features 0x3893 0 = some r ∧ r.access = .cmd := by
  refine ⟨⟨0x3893, .cmd, 0, 0, .cmd, 0, .to 0, .to 0⟩, ?_, rfl⟩
  have hrow : dictRow? 0x3893 = some ⟨0x3893, .cmd, 0, 0, .cmd, 0, .to 0, .to 0⟩ := by decide +kernel
  simp [visibleRow, hrow, entryFeature, subOk]

/-- The state once a session's COOLING_BASELINE has dropped the baselines and waits for its status. -/
def State.baselineDropped (s : State) (sid : Nat) : State :=
  (s.apply (.thermal { s.thermal with baseline := 0 })).apply (.cmd 0x3893 (AMap.get [] s.cmds 0x3893 ++ [sid]))

/-- The owner's COOLING_BASELINE drops the baselines and waits for its status (R294). -/
theorem writeEntry_coolingBaseline {s : State} {sid i : Nat} (h : Writes s sid i) (ho : s.owns sid = true) (k : Answer → Prog) :
    (writeEntry sid ⟨0x3893, 0, []⟩ k).run s = (k .later).run (s.baselineDropped sid) := by
  obtain ⟨r, hr, ha⟩ := coolingBaseline_row (s.session false i).features
  have hkey : cmdKey 0x3893 (cmdUnit 0x3893 []) = 0x3893 := by decide
  simp only [writeEntry, Prog.run_get, h.sid, hr, ha, hkey, ownerCmdAt]
  rw [if_neg (by decide), ownerWrite_owner h ho]
  simp [cmdWrite, withLen, coolingBaseline, setThermal, recordStatus, Answer.later]
  rfl

/-- A WRITE of one entry: what the entry's write does, then its answer. -/
theorem colWrite_one {s u : State} {rx : Rx} {i : Nat} (tag : Nat) {e : WriteEntry} {a : Answer} (hin : InOrder false s rx i)
    (hw : ∀ k, (writeEntry rx.sid e k).run (s.hears false i rx) = (k a).run u) (hu : Answers u i) :
    exec (.colWrite rx tag [e]) s = .next (u.answered i rx.seq 0x12 (2 * boolNat a.pending) (respBody tag 1 (respEntry e.idx e.sub a 0 []))) :=
  calc exec (.colWrite rx tag [e]) s
    _ = ((writeGo i rx.sid rx.seq tag [e] 0 false []).andThen sakEvents).run (s.hears false i rx) := receiveCol_run hin _
    _ = _ := Prog.run_andThen_congr _ (hw _)
    _ = _ := by simpa [writeGo] using respond_ends hu rx.seq 0x12 (2 * boolNat a.pending) (respBody tag 1 (respEntry e.idx e.sub a 0 []))

end Sys2Proof.Machine
end

section
/-! PROOF. READs and WRITEs of one entry, from the frame to the answer. -/

namespace Sys2Proof.Machine

/-- A device that hears a message of COL is served by M4 (R291, R384). -/
theorem InOrder.writes {s : State} {rx : Rx} {i : Nat} (hin : InOrder false s rx i) (h3 : s.reg 0x4000 ≠ 3) : Writes s rx.sid i := by
  obtain ⟨⟨-, hserved, -, -, hsid, -⟩, -⟩ := hin
  have hm : s.mcore 4 = 0 ∧ 4 ≤ s.reg 0x4002 := by simpa [State.served, State.running] using hserved
  exact ⟨hsid, hm.1, hm.2, h3⟩

theorem hears_writes {s : State} {rx : Rx} {i : Nat} (hin : InOrder false s rx i) (h3 : s.reg 0x4000 ≠ 3) : Writes (s.hears false i rx) rx.sid i := by
  obtain ⟨hsid, hm, hstep, -⟩ := hin.writes h3
  exact ⟨colSid_congr hsid (by rw [State.hears_session]; rfl) (by rw [State.hears_session]; rfl), hm, hstep, h3⟩

/-- Hearing a message does not change what the session negotiated. -/
theorem hears_visibleRow {s : State} {rx : Rx} {i idx sub : Nat} {r : RegRow} (hr : visibleRow (s.session false i).features idx sub = some r) :
    visibleRow ((s.hears false i rx).session false i).features idx sub = some r := by
  rw [State.hears_session]
  exact hr

theorem sameBut_dict {s t : State} (h : State.sameBut sendParts s t) : t.dict = s.dict := h .dict (by decide)

/-- Two elements of the dictionary at sub-indexes below 65 536 are apart where their indexes are (R12). -/
theorem regKey_ne {idx jdx sub : Nat} (hsub : sub < 65536) (h : jdx ≠ idx) : regKey jdx sub ≠ regKey idx 0 := by
  simp only [regKey]; omega

/-- A stored number leaves every element of another entry alone. -/
theorem State.reg_apply_reg_ne (s : State) {idx jdx sub : Nat} (v : Nat) (hsub : sub < 65536) (h : jdx ≠ idx) :
    (s.apply (.reg (regKey idx 0) v)).reg jdx sub = s.reg jdx sub := AMap.get_put_ne 0 _ _ _ _ (regKey_ne hsub h)

/-- Answering asks only for the sessions, the dictionary and the ports. -/
theorem Answers.congr {s t : State} {i : Nat} (h : Answers s i) (hcol : t.col = s.col) (hdict : t.dict = s.dict) (hports : t.ports = s.ports) : Answers t i := by
  have hsession : t.session false i = s.session false i := congrArg (AMap.get Session.closed · i) hcol
  have hreg : ∀ e, t.reg 0x1410 (e + 1) = s.reg 0x1410 (e + 1) := fun e => congrArg (AMap.get 0 · (regKey 0x1410 (e + 1))) hdict
  exact ⟨hsession ▸ h.usable, hsession ▸ h.room, hsession ▸ h.port, hports ▸ h.quiet.1, fun e he => hreg e ▸ h.quiet.2 e he⟩

/-- A device that stores a number in another entry than MACSEC_MODE answers as before. -/
theorem Answers.apply_reg {s : State} {i idx : Nat} (h : Answers s i) (v : Nat) (hidx : idx ≠ 0x1410) : Answers (s.apply (.reg (regKey idx 0) v)) i where
  usable := h.usable
  room := h.room
  port := h.port
  quiet := by
    refine ⟨h.quiet.1, fun e he => ?_⟩
    rw [State.reg_apply_reg_ne s v (by omega) (Ne.symm hidx)]
    exact h.quiet.2 e he

/-- Such a READ touches nothing but its session and what is sent. -/
theorem colRead_one_answer {s : State} {rx : Rx} {i : Nat} (tag : Nat) {e : ReadEntry} (hin : InOrder false s rx i) (hroom : Room false s rx i)
    (hlog : e.idx ≠ 0x8022) (hsamples : e.idx ≠ 0x600C) (hcard : e.idx = 0x5011 → s.damaged = []) (hresp : 12 ≤ respRoom (s.hears false i rx) i) :
    ∃ t, exec (.colRead rx tag [e]) s = .next t ∧ State.sameBut sendParts s t ∧
      t.session false i = ((s.session false i).accepted rx s.now).responds s.now rx.seq 0x12 0 (respBody tag 1 (respEntry e.idx e.sub (readAnswer (s.hears false i rx) i e).1
        (readAnswer (s.hears false i rx) i e).2.1 (cutTo (respRoom (s.hears false i rx) i - 12) (readAnswer (s.hears false i rx) i e).2.2))) := by
  have hsame := State.sameBut_trans (State.hears_sameBut s i rx) (State.answered_sameBut (s.hears false i rx) i rx.seq 0x12 0 (respBody tag 1
    (respEntry e.idx e.sub (readAnswer (s.hears false i rx) i e).1 (readAnswer (s.hears false i rx) i e).2.1
      (cutTo (respRoom (s.hears false i rx) i - 12) (readAnswer (s.hears false i rx) i e).2.2))))
  refine ⟨_, colRead_one tag hin hroom hlog hsamples hcard hresp, hsame, ?_⟩
  rw [State.answered_session, State.hears_session]
  rfl

/-- An owner's WRITE of a number without a rule of its own. -/
theorem colWrite_num {s : State} {rx : Rx} {i idx : Nat} (tag : Nat) {v : List Byte} {r : RegRow} (hin : InOrder false s rx i) (hroom : Room false s rx i)
    (h3 : s.reg 0x4000 ≠ 3) (ho : s.owns rx.sid = true) (hr : visibleRow (s.session false i).features idx 0 = some r) (ha : r.access = .rwo) (hk : r.kind = .num)
    (hidx : idx ∉ ruledNumbers) (hlen : v.length = r.bytes) :
    ∃ t, exec (.colWrite rx tag [⟨idx, 0, v⟩]) s = .next t ∧ t.reg idx = elt idx 0 (leNat v) ∧ regsBut s t [idx] ∧ State.sameBut (.dict :: sendParts) s t ∧
      t.session false i = ((s.session false i).accepted rx s.now).responds s.now rx.seq 0x12 0 (respBody tag 1 (respEntry idx 0 .ok 0 [])) := by
  have hidx' : idx ≠ 0x1410 := by
    rintro rfl
    exact hidx (by decide)
  let u := (s.hears false i rx).apply (.reg (regKey idx 0) (leNat v))
  have hexec := colWrite_one (u := u) (e := ⟨idx, 0, v⟩) (a := .ok) tag hin
    (writeEntry_num (hears_writes hin h3) ho (hears_visibleRow hr) ha hk hidx hlen) ((hears_answers hin hroom).apply_reg _ hidx')
  have hsend := State.answered_sameBut u i rx.seq 0x12 (2 * boolNat Answer.ok.pending) (respBody tag 1 (respEntry idx 0 .ok 0 []))
  have hreg : ∀ jdx sub, State.reg _ jdx sub = u.reg jdx sub := fun jdx sub => congrArg (AMap.get 0 · (regKey jdx sub)) (sameBut_dict hsend)
  refine ⟨_, hexec, ?_, fun jdx sub hsub hne => ?_, ?_, ?_⟩
  · rw [hreg]
    exact AMap.get_put_self 0 _ _ _
  · rw [hreg]
    exact State.reg_apply_reg_ne _ _ hsub (by simpa using hne)
  · have hparts : ∀ p ∈ sendParts, p ∈ Part.dict :: sendParts := fun p hp => List.mem_cons_of_mem _ hp
    exact State.sameBut_trans (State.sameBut_trans (State.sameBut_mono hparts (State.hears_sameBut s i rx))
      (State.sameBut_apply _ _ (by simp [Update.parts]))) (State.sameBut_mono hparts hsend)
  · rw [State.answered_session]
    exact congrArg (fun x : Session => x.responds s.now rx.seq 0x12 0 _) (State.hears_session s i rx)

/-- Another client's WRITE of an owner-only entry is answered NOT_OWNER, and nothing but the message's own traffic changes (R14). -/
theorem colWrite_notOwner {s : State} {rx : Rx} {i : Nat} (tag : Nat) {e : WriteEntry} {r : RegRow} (hin : InOrder false s rx i) (hroom : Room false s rx i)
    (h3 : s.reg 0x4000 ≠ 3) (ho : s.owns rx.sid = false) (hr : visibleRow (s.session false i).features e.idx e.sub = some r)
    (ha : r.access = .ro ∨ r.access = .rwo ∨ r.access = .cmd) :
    ∃ t, exec (.colWrite rx tag [e]) s = .next t ∧ t.dict = s.dict ∧ State.sameBut sendParts s t ∧
      t.session false i = ((s.session false i).accepted rx s.now).responds s.now rx.seq 0x12 0 (respBody tag 1 (respEntry e.idx e.sub .notOwner 0 [])) := by
  have hexec := colWrite_one tag hin (writeEntry_notOwner (hears_writes hin h3) ho (hears_visibleRow hr) ha) (hears_answers hin hroom)
  have hsame := State.sameBut_trans (State.hears_sameBut s i rx)
    (State.answered_sameBut (s.hears false i rx) i rx.seq 0x12 (2 * boolNat Answer.notOwner.pending) (respBody tag 1 (respEntry e.idx e.sub .notOwner 0 [])))
  have hdict := sameBut_dict hsame
  refine ⟨_, hexec, hdict, hsame, ?_⟩
  rw [State.answered_session, State.hears_session]
  rfl

theorem State.baselineDropped_sameBut (s : State) (sid : Nat) : State.sameBut [.thermal, .cmds] s (s.baselineDropped sid) := by
  refine State.sameBut_trans (State.sameBut_apply s _ ?_) (State.sameBut_apply _ _ ?_) <;> simp [Update.parts]
@[simp] theorem State.baselineDropped_thermal (s : State) (sid : Nat) : (s.baselineDropped sid).thermal = { s.thermal with baseline := 0 } := rfl
@[simp] theorem State.baselineDropped_cmds (s : State) (sid : Nat) : (s.baselineDropped sid).cmds = AMap.put [] s.cmds 0x3893 (AMap.get [] s.cmds 0x3893 ++ [sid]) := rfl

/-- The owner's WRITE of COOLING_BASELINE is answered with PENDING set (R294). -/
theorem colWrite_coolingBaseline {s : State} {rx : Rx} {i : Nat} (tag : Nat) (hin : InOrder false s rx i) (hroom : Room false s rx i)
    (h3 : s.reg 0x4000 ≠ 3) (ho : s.owns rx.sid = true) :
    ∃ t, exec (.colWrite rx tag [⟨0x3893, 0, []⟩]) s = .next t ∧ t.thermal = { s.thermal with baseline := 0 } ∧
      AMap.get [] t.cmds 0x3893 = AMap.get [] s.cmds 0x3893 ++ [rx.sid] ∧
      t.session false i = ((s.session false i).accepted rx s.now).responds s.now rx.seq 0x12 2 (respBody tag 1 (respEntry 0x3893 0 .later 0 [])) := by
  have hheard := State.hears_sameBut s i rx
  have hdropped := (s.hears false i rx).baselineDropped_sameBut rx.sid
  have hu := (hears_answers hin hroom).congr (hdropped .col (by decide)) (hdropped .dict (by decide)) (hdropped .ports (by decide))
  have hexec := colWrite_one tag hin (writeEntry_coolingBaseline (hears_writes hin h3) ho) hu
  have hsend := State.answered_sameBut ((s.hears false i rx).baselineDropped rx.sid) i rx.seq 0x12 (2 * boolNat Answer.later.pending)
    (respBody tag 1 (respEntry 0x3893 0 .later 0 []))
  have hnow : ((s.hears false i rx).baselineDropped rx.sid).now = s.now := (hdropped .now (by decide)).trans (hheard .now (by decide))
  have hsession : ((s.hears false i rx).baselineDropped rx.sid).session false i = (s.session false i).accepted rx s.now :=
    (congrArg (AMap.get Session.closed · i) (hdropped .col (by decide))).trans (State.hears_session s i rx)
  have hthermal := (hsend .thermal (by decide)).trans ((s.hears false i rx).baselineDropped_thermal rx.sid)
  have hcmds := (hsend .cmds (by decide)).trans ((s.hears false i rx).baselineDropped_cmds rx.sid)
  refine ⟨_, hexec, ?_, ?_, ?_⟩
  · rw [hthermal, show (s.hears false i rx).thermal = s.thermal from hheard .thermal (by decide)]
  · rw [hcmds, AMap.get_put_self, show (s.hears false i rx).cmds = s.cmds from hheard .cmds (by decide)]
  · rw [State.answered_session, hsession, hnow]
    rfl

end Sys2Proof.Machine
end

section
/-! PROOF. The programs of a READ are total. -/

namespace Sys2Proof.Machine

/-! ### Total programs

A READ mends what it meets damaged before it answers (R49, R240), so that it is answered rests on every program of the
mending being total.  Each lemma splits a program along its own branches; what it calls is total by the lemmas before. -/

@[simp] theorem Prog.total_done : Prog.done.total := trivial
@[simp] theorem Prog.total_get (k : State → Prog) : (Prog.get k).total ↔ ∀ s, (k s).total := Iff.rfl
@[simp] theorem Prog.total_upd (u : Update) (p : Prog) : (Prog.upd u p).total ↔ p.total := Iff.rfl
@[simp] theorem Prog.total_one (u : Update) : (Prog.one u).total := trivial
@[simp] theorem Prog.total_ups_iff (us : List Update) : (Prog.ups us).total ↔ True := iff_true_intro (Prog.total_ups us)

/-- A sequence is total just when both parts are: every program has a state to run in. -/
@[simp] theorem Prog.total_andThen_iff (p q : Prog) : (p.andThen q).total ↔ p.total ∧ q.total := by
  refine ⟨fun h => ?_, fun h => Prog.total_andThen p q h.1 h.2⟩
  induction p with
  | done => exact ⟨trivial, h⟩
  | get k ih => exact ⟨fun s => (ih s (h s)).1, (ih State.reset (h State.reset)).2⟩
  | upd u k ih => exact ih h
  | fault f => exact h.elim
  | refuse r => exact h.elim

@[simp] theorem Prog.total_when_iff (b : Bool) (p : Prog) : (Prog.when b p).total ↔ (b = true → p.total) := by
  cases b <;> simp

/-- A program for each element is total just when each is. -/
@[simp] theorem Prog.total_each_iff {α : Type} (xs : List α) (f : α → Prog) : (Prog.each xs f).total ↔ ∀ x ∈ xs, (f x).total := by
  induction xs with
  | nil => simp
  | cons x xs ih => simp [ih]

/-! ### Messages and the log -/

@[simp] theorem setReg_total (idx sub v : Nat) : (setReg idx sub v).total := by simp [setReg]
@[simp] theorem addReg_total (idx sub n : Nat) : (addReg idx sub n).total := by simp [addReg]
@[simp] theorem subReg_total (idx n : Nat) : (subReg idx n).total := by simp [subReg]
@[simp] theorem setSession_total (csp : Bool) (i : Nat) (x : Session) : (setSession csp i x).total := by simp [setSession]
@[simp] theorem sendMsg_total (csp : Bool) (i typ flags : Nat) (payload : List Byte) : (sendMsg csp i typ flags payload).total := by
  simp only [sendMsg, Prog.total_get]
  intro s
  (repeat' split) <;> simp
@[simp] theorem eventTo_total (i sev : Nat) (entry : List Byte) : (eventTo i sev entry).total := by
  simp only [eventTo, Prog.total_get]
  intro s
  (repeat' split) <;> simp
@[simp] theorem appendRaw_total (src code sev : Nat) (payload : List Byte) : (appendRaw src code sev payload).total := by simp [appendRaw]
@[simp] theorem appendLog_total (src code sev : Nat) (payload : List Byte) : (appendLog src code sev payload).total := by simp [appendLog]
@[simp] theorem appendOpen_total (src kind : Nat) (payload : Option (List Byte)) : (appendOpen src kind payload).total := by simp [appendOpen]
@[simp] theorem respond_total (i reqSeq typ flags : Nat) (payload : List Byte) : (respond i reqSeq typ flags payload).total := by simp [respond]
@[simp] theorem sakEvents_total : sakEvents.total := by simp [sakEvents]

/-! ### Holds (R39, R74) -/

@[simp] theorem stopStalled_total : stopStalled.total := by simp [stopStalled]
@[simp] theorem countHolds_total (edge n : Nat) : (countHolds edge n).total := by simp [countHolds]
@[simp] theorem countHold_total (edge : Nat) : (countHold edge).total := by simp [countHold]
@[simp] theorem slipToHold_total : slipToHold.total := by
  simp only [slipToHold, Prog.total_get]
  intro s
  (repeat' split) <;> simp
@[simp] theorem requestHold_total (cause : Nat) : (requestHold cause).total := by
  simp only [requestHold, Prog.total_get]
  intro s
  split
  · simp
  · simp
  · simp
  · simp only [Prog.seq_cons, Prog.seq_nil, Prog.total_andThen_iff, Prog.total_one, Prog.total_when_iff, stopStalled_total, Prog.total_done, and_true, true_and]
    intro _
    (repeat' split) <;> simp

/-! ### The dance card and the request rings -/

@[simp] theorem putEnt_total (e off n v : Nat) : (putEnt e off n v).total := by simp [putEnt]
@[simp] theorem setCtrl_total (e : Nat) (f : Nat → Nat) : (setCtrl e f).total := by simp [setCtrl]
@[simp] theorem setServing_total (f : Serving → Serving) : (setServing f).total := by simp [setServing]
@[simp] theorem setReq_total (e : Nat) (f : Req → Req) : (setReq e f).total := by simp [setReq]
@[simp] theorem setRingProd_total (k v : Nat) : (setRingProd k v).total := by simp [setRingProd]
@[simp] theorem pushTx_total (session typ : Nat) (payload : List Byte) : (pushTx session typ payload).total := by
  simp only [pushTx, Prog.total_get]
  intro s
  (repeat' split) <;> simp
@[simp] theorem entryStatus_total (e code detail a0 a1 : Nat) : (entryStatus e code detail a0 a1).total := by simp [entryStatus]
@[simp] theorem countTerm_total (code : Nat) : (countTerm code).total := by
  unfold countTerm
  split <;> simp
@[simp] theorem dropQueued_total (e : Nat) : (dropQueued e).total := by simp [dropQueued]
@[simp] theorem setState_total (e v : Nat) : (setState e v).total := by simp [setState]
@[simp] theorem freeRun_total (pool start : Nat) : (freeRun pool start).total := by simp [freeRun]
@[simp] theorem setLinks_total (e plist pnode : Nat) : (setLinks e plist pnode).total := by simp [setLinks]

/-! ### Pages and their tree (R154 to R178) -/

@[simp] theorem writeBoth_total (a : Nat) (bs : List Byte) : (writeBoth a bs).total := by simp [writeBoth]
@[simp] theorem mendEntry_total (a : Nat) : (mendEntry a).total := by simp [mendEntry]
@[simp] theorem putDir_total (lead : Bool) (f : Nat) (g : DirEnt → DirEnt) : (putDir lead f g).total := by simp [putDir]
@[simp] theorem setStack_total (lead : Bool) (w : Nat) (l : List Nat) : (setStack lead w l).total := by simp [setStack]
@[simp] theorem giveSlot_total (lead : Bool) (w x : Nat) : (giveSlot lead w x).total := by simp [giveSlot]
@[simp] theorem dropSlot_total (lead : Bool) (f : Nat) : (dropSlot lead f).total := by simp [dropSlot]
@[simp] theorem dropFetch_total (lead : Bool) (f : Nat) : (dropFetch lead f).total := by simp [dropFetch]
@[simp] theorem clearPage_total (lead : Bool) (f : Nat) : (clearPage lead f).total := by simp [clearPage]
@[simp] theorem unchain_total (off target k ptr : Nat) : (unchain off target k ptr).total := by
  induction k generalizing ptr with
  | zero => exact Prog.total_done
  | succ k ih =>
    simp only [unchain, Prog.total_get]
    intro s
    (repeat' split) <;> simp [ih]
@[simp] theorem unlinkNode_total (n : Nat) : (unlinkNode n).total := by simp [unlinkNode]
@[simp] theorem removeNode_total (n : Nat) : (removeNode n).total := by simp [removeNode]
@[simp] theorem freeIdle_total (lead : Bool) (f : Nat) : (freeIdle lead f).total := by
  simp only [freeIdle, Prog.total_get]
  intro s
  (repeat' split) <;> simp
@[simp] theorem releasePage_total (lead : Bool) (f : Nat) : (releasePage lead f).total := by simp [releasePage]
@[simp] theorem setNode_total (n off k v : Nat) : (setNode n off k v).total := by simp [setNode]
@[simp] theorem quarantine_total (n : Nat) : (quarantine n).total := by
  simp only [quarantine, Prog.total_get, Prog.total_when_iff]
  intro s _
  split <;> simp
@[simp] theorem rebuildBucket_total (b : Nat) : (rebuildBucket b).total := by
  simp only [rebuildBucket, Prog.total_get, Prog.total_ups_iff, implies_true]

/-! ### The end of a request (R222, R231) -/

@[simp] theorem setImage_total (f : ImageCh → ImageCh) : (setImage f).total := by simp [setImage]
@[simp] theorem cmdEvent_total (sid : Nat) (payload : List Byte) : (cmdEvent sid payload).total := by
  simp only [cmdEvent, Prog.total_get]
  intro s
  (repeat' split) <;> simp
@[simp] theorem finishCmdAt_total (key idx status : Nat) : (finishCmdAt key idx status).total := by
  simp only [finishCmdAt, Prog.total_get]
  intro s
  (repeat' split) <;> simp
@[simp] theorem finishImage_total (idx e status : Nat) : (finishImage idx e status).total := by simp [finishImage]
@[simp] theorem releaseAll_total (e : Nat) : (releaseAll e).total := by simp [releaseAll]
@[simp] theorem retireEntry_total (e : Nat) : (retireEntry e).total := by simp [retireEntry]
@[simp] theorem retireIfDone_total (e : Nat) : (retireIfDone e).total := by simp [retireIfDone]
@[simp] theorem discardEntry_total (e code : Nat) : (discardEntry e code).total := by
  simp only [discardEntry, Prog.total_get]
  intro s
  (repeat' split) <;> simp
@[simp] theorem abortEntry_total (e : Nat) : (abortEntry e).total := by simp [abortEntry]
@[simp] theorem refuseArrival_total (a : Arrival) (code detail : Nat) : (refuseArrival a code detail).total := by simp [refuseArrival]

/-! ### Uncorrectable words (R49, R169, R177, R240) -/

@[simp] theorem setTables_total (f : Tables → Tables) : (setTables f).total := by simp [setTables]
@[simp] theorem storeTable_total (kind id : Nat) (body : List Byte) : (storeTable kind id body).total := by simp [storeTable]
@[simp] theorem setXfer_total (x : Xfer) : (setXfer x).total := by simp [setXfer]
@[simp] theorem askMissing_total (xid : Nat) : (askMissing xid).total := by
  simp only [askMissing, Prog.total_get]
  intro s
  (repeat' split) <;> simp
@[simp] theorem startXfer_total (kind : Nat) (digest : List Byte) (num len : Nat) : (startXfer kind digest num len).total := by simp [startXfer]
@[simp] theorem refetchTable_total (kind id : Nat) : (refetchTable kind id).total := by
  simp only [refetchTable, Prog.total_get]
  intro s
  (repeat' split) <;> simp
@[simp] theorem recomputePage_total (lead : Bool) (f : Nat) : (recomputePage lead f).total := by
  simp only [recomputePage, Prog.total_get]
  intro s
  (repeat' split) <;> simp
@[simp] theorem loseEntry_total (e : Nat) : (loseEntry e).total := by simp [loseEntry]
@[simp] theorem damagedRequest_total (a : Nat) : (damagedRequest a).total := by
  simp only [damagedRequest, Prog.total_get]
  intro s
  (repeat' split) <;> simp
@[simp] theorem mirrorWord_total (a : Nat) : (mirrorWord a).total := by
  simp only [mirrorWord, Prog.total_get]
  intro s
  (repeat' split) <;> simp
@[simp] theorem rebuildDir_total (a b : Nat) : (rebuildDir a b).total := by
  simp only [rebuildDir, Prog.total_get]
  intro s
  (repeat' split) <;> simp
@[simp] theorem mendPrefix_total (w : Nat) : (mendPrefix w).total := by
  simp only [mendPrefix, Prog.total_get]
  intro s
  (repeat' split) <;> simp
@[simp] theorem drawFree_total {k : Nat → Prog} (h : ∀ n, (k n).total) : (drawFree k).total := by simp [drawFree, h]
@[simp] theorem bothBad_total (a b : Nat) : (bothBad a b).total := by
  simp only [bothBad]
  (repeat' split) <;> simp
@[simp] theorem mendWord_total (w : Nat) : (mendWord w).total := by
  simp only [mendWord, Prog.total_get]
  intro s
  (repeat' split) <;> simp
@[simp] theorem mendNow_total : mendNow.total := by simp [mendNow]
@[simp] theorem served_total {p : Prog} (h : p.total) : (served p).total := by
  simp only [served, Prog.total_get]
  intro s
  split <;> simp [h]

/-! ### Views of the log and of the samples (R49, R319) -/

@[simp] theorem logBadWords_total (src a n : Nat) : (logBadWords src a n).total := by simp [logBadWords]
@[simp] theorem dropSamples_total (sel : Nat) : (dropSamples sel).total := by simp [dropSamples]
@[simp] theorem rewriteEntry_total (seq : Nat) : (rewriteEntry seq).total := by simp [rewriteEntry]
@[simp] theorem rewriteLost_total (sel : Nat) : (rewriteLost sel).total := by simp [rewriteLost]

end Sys2Proof.Machine
end

section
/-! PROOF. Every READ is answered; the dictionary on COL. -/

namespace Sys2Proof.Machine

/-- A READ is never stuck: it mends, it rewrites, it answers. -/
@[simp] theorem readGo_total (i reqSeq tag : Nat) (es : List ReadEntry) (n room : Nat) (acc : List Byte) : (readGo i reqSeq tag es n room acc).total := by
  induction es generalizing n room acc with
  | nil => simp [readGo]
  | cons e es ih =>
    simp only [readGo]
    split <;> simp [ih]

/-! ### The responses that sessions keep (R290) -/

/-- Every session of COL keeps the responses it kept. -/
def SameResponses (s t : State) : Prop := ∀ j, (t.session false j).responses = (s.session false j).responses

/-- A program after which every session keeps the responses it kept. -/
def Prog.KeepsResponses (p : Prog) : Prop := ∀ s t, p.run s = .next t → SameResponses s t

theorem SameResponses.refl (s : State) : SameResponses s s := fun _ => rfl
theorem SameResponses.trans {s t u : State} (h : SameResponses s t) (h' : SameResponses t u) : SameResponses s u := fun j => (h' j).trans (h j)

/-- A program that ran before another ended somewhere. -/
theorem Prog.next_of_andThen {p q : Prog} {s t : State} (h : (p.andThen q).run s = .next t) : ∃ u, p.run s = .next u ∧ q.run u = .next t := by
  rw [Prog.run_andThen] at h
  split at h
  · next u hu => exact ⟨u, hu, h⟩
  · cases h
  · cases h

theorem keepsResponses_andThen {p q : Prog} (hp : p.KeepsResponses) (hq : q.KeepsResponses) : (p.andThen q).KeepsResponses := by
  intro s t h
  obtain ⟨u, hu, ht⟩ := Prog.next_of_andThen h
  exact (hp s u hu).trans (hq u t ht)

theorem keepsResponses_done : Prog.done.KeepsResponses := by
  intro s t h
  cases h
  exact SameResponses.refl s

theorem keepsResponses_get {k : State → Prog} (h : ∀ s, (k s).KeepsResponses) : (Prog.get k).KeepsResponses := fun s t ht => h s s t ht

theorem keepsResponses_seq {ps : List Prog} (h : ∀ p ∈ ps, p.KeepsResponses) : (Prog.seq ps).KeepsResponses := by
  induction ps with
  | nil => exact keepsResponses_done
  | cons p ps ih => exact keepsResponses_andThen (h p (List.mem_cons_self ..)) (ih fun q hq => h q (List.mem_cons_of_mem _ hq))

theorem keepsResponses_each {α : Type} (xs : List α) {f : α → Prog} (h : ∀ x, (f x).KeepsResponses) : (Prog.each xs f).KeepsResponses :=
  keepsResponses_seq fun p hp => by
    obtain ⟨x, -, rfl⟩ := List.mem_map.1 hp
    exact h x

theorem keepsResponses_when {b : Bool} {p : Prog} (h : p.KeepsResponses) : (Prog.when b p).KeepsResponses := by
  cases b
  · exact keepsResponses_done
  · exact h

/-- A program that does not touch the sessions. -/
theorem keepsResponses_of_uses {p : Prog} (h : p.uses fun u => Part.col ∉ u.parts) : p.KeepsResponses := by
  intro s t ht
  have hcol : t.col = s.col := Prog.run_rel (fun s t => t.col = s.col) _ (fun _ => rfl) (fun _ _ _ h₁ h₂ => h₂.trans h₁) (fun s u hu => State.apply_col s u hu) p h s t ht
  exact fun j => congrArg (fun m => (AMap.get Session.closed m j).responses) hcol

theorem keepsResponses_one {u : Update} (h : Part.col ∉ u.parts) : (Prog.one u).KeepsResponses := keepsResponses_of_uses ⟨h, trivial⟩

/-- A session put back with the responses it kept. -/
theorem sameResponses_put {s : State} {i : Nat} {x : Session} (h : x.responses = (s.session false i).responses) : SameResponses s (s.apply (.col i x)) := by
  intro j
  have : (s.apply (.col i x)).session false j = if j = i then x else s.session false j := AMap.get_put Session.closed s.col i j x
  rw [this]
  split
  · next hj => rw [hj, h]
  · rfl

theorem setSession_keepsResponses {s t : State} {i : Nat} {x : Session} (h : (setSession false i x).run s = .next t) (hx : x.responses = (s.session false i).responses) :
    SameResponses s t := by
  cases h
  exact sameResponses_put hx

/-- Sending keeps what has been answered. -/
theorem sendMsg_keepsResponses (i typ flags : Nat) (payload : List Byte) : (sendMsg false i typ flags payload).KeepsResponses := by
  intro s t h
  simp only [sendMsg, Prog.run_get] at h
  split at h
  · cases h
    exact SameResponses.refl s
  · split at h
    · cases h
      exact SameResponses.trans (t := s.apply (datagram false i (s.session false i) typ flags (((s.session false i).txSeq + 1) % 2 ^ 32) payload))
        (keepsResponses_one (u := datagram ..) (by simp [datagram, Update.parts]) s _ rfl)
        (sameResponses_put (congrArg (fun m => (AMap.get Session.closed m i).responses) (State.apply_col s (datagram ..) (by simp [datagram, Update.parts]))).symm)
    · split at h <;> exact setSession_keepsResponses h rfl

/-- An event for a session changes its counts of events and sends a message, or marks a loss. -/
theorem eventTo_keepsResponses (i sev : Nat) (entry : List Byte) : (eventTo i sev entry).KeepsResponses := by
  intro s t h
  simp only [eventTo, Prog.run_get] at h
  by_cases hon : ((s.session false i).usable && bit (s.session false i).features 6 && decide (sev ≥ (s.session false i).level) && s.mcore 4 == 0) = true
  · rw [if_pos hon] at h
    generalize (if (s.session false i).eventWindow == s.now / 1000000000 then (s.session false i).eventCount else 0) = n at h
    by_cases hn : n < 1000
    · rw [if_pos hn] at h
      obtain ⟨u, hu, ht⟩ := Prog.next_of_andThen h
      have hput : SameResponses s u := setSession_keepsResponses hu rfl
      exact hput.trans (sendMsg_keepsResponses _ _ _ _ u t ht)
    · rw [if_neg hn] at h
      exact setSession_keepsResponses h rfl
  · rw [if_neg hon] at h
    cases h
    exact SameResponses.refl s

/-- A log entry is told to the sessions, and touches none otherwise (R318, R319). -/
theorem appendLog_keepsResponses (src code sev : Nat) (payload : List Byte) : (appendLog src code sev payload).KeepsResponses := by
  refine keepsResponses_get fun s => keepsResponses_when (keepsResponses_get fun s => keepsResponses_seq fun p hp => ?_)
  simp only [List.mem_cons, List.not_mem_nil, or_false] at hp
  obtain rfl | rfl | rfl | rfl | rfl := hp
  · exact keepsResponses_one (by simp [Update.parts])
  · exact keepsResponses_one (by simp [Update.parts])
  · exact keepsResponses_of_uses (Prog.uses_ups _ _ (by simp [Update.parts]))
  · exact keepsResponses_when (keepsResponses_one (by simp [Update.parts]))
  · exact keepsResponses_each _ fun j => eventTo_keepsResponses j sev _

theorem appendOpen_keepsResponses (src kind : Nat) (payload : Option (List Byte)) : (appendOpen src kind payload).KeepsResponses :=
  appendLog_keepsResponses _ _ _ _

/-- The key events that are due are logged and told, and keep what has been answered. -/
theorem sakEvents_keepsResponses : sakEvents.KeepsResponses :=
  keepsResponses_get fun _ => keepsResponses_each _ fun _ => keepsResponses_andThen
    (keepsResponses_get fun _ => keepsResponses_one (by simp [Update.parts])) (appendOpen_keepsResponses _ _ _)

/-- The response that a session gave last is the one to this request. -/
def AnsweredLast (s : State) (i reqSeq : Nat) : Prop := ∃ w p, (s.session false i).responses.head? = some (reqSeq, w, p)

theorem respond_answers {s t : State} {i reqSeq typ flags : Nat} {payload : List Byte} (h : (respond i reqSeq typ flags payload).run s = .next t) : AnsweredLast t i reqSeq := by
  have hkept := sendMsg_keepsResponses i typ flags payload (s.apply (.col i ((s.session false i).keeping reqSeq typ flags payload))) t h i
  rw [State.session_apply_col] at hkept
  exact ⟨_, _, by rw [hkept]; rfl⟩

/-- Whatever a READ mends on the way, it ends with its answer. -/
theorem readGo_answers {i reqSeq tag : Nat} (es : List ReadEntry) {n room : Nat} {acc : List Byte} {s t : State}
    (h : (readGo i reqSeq tag es n room acc).run s = .next t) : AnsweredLast t i reqSeq := by
  induction es generalizing n room acc s with
  | nil => exact respond_answers h
  | cons e es ih =>
    simp only [readGo] at h
    split at h
    · exact respond_answers h
    · obtain ⟨s₁, -, h⟩ := Prog.next_of_andThen h
      obtain ⟨s₂, -, h⟩ := Prog.next_of_andThen h
      simp only [Prog.run_get, Prog.seq_cons, Prog.seq_nil, Prog.andThen_done_right] at h
      obtain ⟨s₃, -, h⟩ := Prog.next_of_andThen h
      exact ih h

/-- A READ of 1 to 32 entries is answered. -/
theorem colRead_answered {s : State} {rx : Rx} {i : Nat} (tag : Nat) {es : List ReadEntry} (hin : InOrder false s rx i) (h1 : 1 ≤ es.length) (h32 : es.length ≤ 32) :
    ∃ t w p, exec (.colRead rx tag es) s = .next t ∧ (t.session false i).responses.head? = some (rx.seq, w, p) := by
  have hexec : exec (.colRead rx tag es) s = ((readGo i rx.seq tag es 0 (respRoom (s.hears false i rx) i) []).andThen sakEvents).run (s.hears false i rx) := by
    refine (receiveCol_run hin _).trans ?_
    simp [h1, h32]
  obtain ⟨t, ht⟩ := Prog.run_total _ (Prog.total_andThen _ _ (readGo_total i rx.seq tag es 0 (respRoom (s.hears false i rx) i) []) sakEvents_total) (s.hears false i rx)
  obtain ⟨u, hu, hlast⟩ := Prog.next_of_andThen ht
  obtain ⟨w, p, hw⟩ := readGo_answers es hu
  exact ⟨t, w, p, hexec.trans ht, by rw [sakEvents_keepsResponses u t hlast i, hw]⟩

/-- Settles O51: the body of a COL message runs in the state that has heard it, and a device without MACsec's mode 1 has nothing to do after its answer. -/
theorem dictionaryAccess : Obligations.DictionaryAccess := by
  intro s rx i tag hin hroom
  refine ⟨fun e hlog hsamples hcard hresp => colRead_one_answer tag hin hroom hlog hsamples hcard hresp, fun es h1 h32 => colRead_answered tag hin h1 h32,
    fun idx n r hr hk hf hidx => readAnswer_num s i n hr hk hf hidx, fun e r _ h3 ho hr ha => colWrite_notOwner tag hin hroom h3 ho hr ha,
    fun e r _ h3 ho hr ha => writeEntry_notOwner (hin.writes h3) ho hr ha fun _ => .done,
    fun idx v r _ h3 ho hr ha hk hidx => ⟨fun hlen => ?_, fun hlen => ?_, fun hlen => colWrite_num tag hin hroom h3 ho hr ha hk hidx hlen⟩,
    fun _ h3 ho => colWrite_coolingBaseline tag hin hroom h3 ho⟩
  · exact writeEntry_num (hin.writes h3) ho hr ha hk hidx hlen fun _ => .done
  · exact writeEntry_badLength (hin.writes h3) ho hr ha hk hlen fun _ => .done

end Sys2Proof.Machine
end

section
/-! PROOF. The state after reset. -/

namespace Sys2Proof.Machine

/-- The Default column lists its keys in rising order, none of them with the value zero. -/
theorem dictReset_wf : AMap.wf 0 dictReset = true := by decide +kernel

/-- Every value of the Default column fits its element. -/
theorem dictReset_fits : dictFits dictReset := by
  unfold dictFits
  decide +kernel

/-- After reset every map and memory but the dictionary is empty. -/
theorem reset_canonical : State.reset.Canonical where
  dict := dictReset_wf
  fits := dictReset_fits
  spad := by simp [State.reset]
  blobs := rfl
  cores := rfl
  spads := rfl
  sm := rfl
  smBad := rfl
  hbm := rfl
  hbmBad := rfl
  qps := rfl
  objects := rfl
  hubs := rfl
  fieldClamps := rfl
  exitBase := rfl
  exits := rfl
  arb := rfl
  models := rfl
  ticks := rfl
  deferred := rfl
  cmds := rfl
  col := rfl
  csp := rfl

/-- The queue limits of the eight priorities (R241). -/
theorem reset_queueLimits : ∀ k < 9, 1 ≤ k → State.reset.reg 0x5001 k = 2048 := by decide +kernel

/-- Settles O2: the dictionary is its Default column, and everything else is empty. -/
theorem resetState : Obligations.ResetState := by
  exact ⟨reset_canonical, rfl, rfl, by decide +kernel, fun k h1 h8 => reset_queueLimits k (by omega) h1, by decide +kernel⟩

end Sys2Proof.Machine
end

section
/-! PROOF. The admission scan takes over a page tail where the statement has it compute the whole prompt. -/

namespace Sys2Proof.Machine

/-! ### The scan (R222, R225) -/

/-- What a state that a program leaves reads as; none where the program stops. -/
def Prog.leaves {α : Type} (f : State → α) (p : Prog) (s : State) : Option α :=
  match p.run s with
  | .next t => some (f t)
  | _ => none

theorem Prog.leaves_of_run {α : Type} {f : State → α} {p : Prog} {s t : State} (h : p.run s = .next t) : p.leaves f s = some (f t) := by
  simp only [Prog.leaves, h]

/-- When the scan comes: 16 beats after the last one. -/
def State.scanTime (s : State) : Nat := max s.now (AMap.get 0 s.ticks tkAdmission + 16 * s.period)

/-- The state in which a scan looks at the requests. -/
def State.scans (s : State) : State := (s.apply (.time s.scanTime)).apply (.tick tkAdmission s.scanTime)

/-- With no word to mend, a scan ends the late requests and then admits in order. -/
theorem admissionScan_run {s : State} (h : s.damaged = []) : exec .admissionScan s =
    ((Prog.each s.scans.entries endLate).andThen (.get fun t => .when ((t.model 0).running) (scanOrder t.admissionOrder))).run s.scans := by
  show (served _).run s = _
  simp only [served, Prog.run_get, h, List.isEmpty_nil, if_true, Prog.seq_cons, Prog.seq_nil, Prog.andThen_one, Prog.run_upd, Prog.andThen_get,
    Prog.andThen_done_right, State.scans, State.scanTime]

/-- A queued request without a deadline is not late. -/
theorem endLate_queued {s : State} {e : Nat} (hq : s.est e = stQueued) (ht : s.ttftDl e = 0) (he : s.endDl e = 0) : (endLate e).run s = .next s := by
  simp [endLate, hq, ht, he, State.pastEnd]

/-- A queued request at the head of the order is admitted when its reservation can be made. -/
theorem scanOrder_admits {s : State} {e : Nat} (es : List Nat) (hq : s.est e = stQueued) (hr : reserves s e (planOf s e) = true) :
    (scanOrder (e :: es)).run s = ((admitEntry e (planOf s e)).andThen (scanOrder es)).run s := by
  simp [scanOrder, State.resumable, hq, hr]

/-- A plan fits where every way has the page ids and hot slots free: nothing has to be removed or evicted. -/
theorem planFits_of_free {s : State} {p : Plan} (hn : p.nodes = [])
    (h : ∀ w < s.ways false, resvTotal s false w + inWay (s.ways false) w p.need ≤ (s.wayPages false w fun d => d.state == pgFree).length ∧
      resvTotal s false w + inWay (s.ways false) w p.need ≤ (s.freeSlots false w).length) (hot ids : Nat → Nat) : planFits s p hot ids = true := by
  simp only [planFits, hn, List.map_nil, List.countP_nil, Nat.add_zero, List.all_eq_true, List.mem_range, Bool.and_eq_true, decide_eq_true_eq]
  intro w hw
  obtain ⟨hpages, hslots⟩ := h w hw
  omega

/-! ### A prompt that starts as a shared page does (R174)

Where a prompt leaves the tree of shared pages, the child that shares the longest run d with it is sought among all live children
of the divergence node, whatever the request's PMODE is; with d at or above PREFIX_COPY_MIN the request gets a copy
of that child's page, and its prefill goes on behind the run. -/

/-- A device that runs a model of one way and two pages.  Page 1 is COLD and belongs to node 0, the one node of the tree: 64 tokens 0 at depth 0.
Page 0 and its way's hot slot are free.  Entry 0 is queued with a prompt of 20 tokens 0, no deadline and PMODE 0. -/
def sharedStart : State := { State.reset with
  models := [(0, { Model.none with digest := [1], running := true })]
  hbm := memOf [(stagedAddr 0 104, leBytes 4 2)]
  sm := memOf [(cardA 0, leBytes 8 (stQueued * 2 ^ 60)), (cardA 0 + 32, leBytes 8 (20 * 2 ^ 45 + 1 * 2 ^ 7)),
    (rootChild, leBytes 4 1), (nodeAddr 0 + ndPage, leBytes 4 1), (nodeAddr 0 + ndState, leBytes 1 1),
    (0x1800000 + 32, DirEnt.bytes ⟨0xFFFF, pgCold, 1, 0, 64, 1, 1, 1, 0, 0⟩)]
  serving := { Serving.reset with
    reqs := [(0, { Req.none with live := true })], hotFree := [(wayKey false 0, [0])], dirBase := [(0, 0x1800000)] } }

/-- The way has the page id and the hot slot that the request needs. -/
theorem sharedStart_free : ∀ w < sharedStart.scans.ways false,
    resvTotal sharedStart.scans false w + inWay (sharedStart.scans.ways false) w (planOf sharedStart.scans 0).need ≤
      (sharedStart.scans.wayPages false w fun d => d.state == pgFree).length ∧
    resvTotal sharedStart.scans false w + inWay (sharedStart.scans.ways false) w (planOf sharedStart.scans 0).need ≤ (sharedStart.scans.freeSlots false w).length := by
  decide +kernel

/-- The reservation can be made. -/
theorem sharedStart_reserves : reserves sharedStart.scans 0 (planOf sharedStart.scans 0) = true := by
  have hfits := planFits_of_free (by decide +kernel) sharedStart_free (fun _ => 0) fun _ => 0
  have hactive : sharedStart.scans.activeCount < sharedStart.scans.activeMax := by decide +kernel
  have hareas : areasFit sharedStart.scans 0 = true := by decide +kernel
  have hlead : (planOf sharedStart.scans 0).lead = false := by decide +kernel
  simp [reserves, hactive, hareas, hfits, hlead]

/-- The scan does nothing but admit the request. -/
theorem sharedStart_scan : exec .admissionScan sharedStart = (admitEntry 0 (planOf sharedStart.scans 0)).run sharedStart.scans := by
  have hq : sharedStart.scans.est 0 = stQueued := by decide +kernel
  have horder : sharedStart.scans.admissionOrder = [0] := by decide +kernel
  have hrun : (sharedStart.scans.model 0).running = true := rfl
  have hlate : (Prog.each sharedStart.scans.entries endLate).run sharedStart.scans = .next sharedStart.scans := by
    show ((endLate 0).andThen .done).run _ = _
    rw [Prog.andThen_done_right]
    exact endLate_queued hq (by decide +kernel) (by decide +kernel)
  rw [admissionScan_run rfl, Prog.run_andThen_next _ _ _ _ hlate, Prog.run_get, hrun, Prog.when_true, horder, scanOrder_admits [] hq sharedStart_reserves]
  simp only [scanOrder, Prog.andThen_done_right]

/-- The request is admitted with 19 positions taken over, all but the last of its prompt. -/
theorem sharedStart_issued_19 : (admitEntry 0 (planOf sharedStart.scans 0)).leaves (fun t => (t.req 0).issued) sharedStart.scans = some 19 := by decide +kernel

/-- Refutes O59: a request that needs nothing but free pages is admitted with positions of a shared page taken over (R174), so its prefill does not begin at 0. -/
theorem not_admission : ¬ Obligations.Admission := by
  intro h
  obtain ⟨-, scan, -⟩ := h sharedStart
  obtain ⟨-, entry⟩ := scan sharedStart.scanTime sharedStart.scans rfl rfl
  obtain ⟨-, admits⟩ := entry 0 (by decide) rfl (by decide +kernel)
  obtain ⟨t, ht, -, -, hissued, -⟩ := admits rfl (by decide +kernel) (by decide +kernel) rfl (by decide +kernel) sharedStart_reserves sharedStart_free rfl
  have hread := Prog.leaves_of_run (f := fun t => (t.req 0).issued) (sharedStart_scan.symm.trans ht)
  rw [sharedStart_issued_19, hissued] at hread
  exact absurd hread (by decide)

end Sys2Proof.Machine
end

section
/-! PROOF. A PAUSE_EXPORT whose XID has come round to that of another push. -/

namespace Sys2Proof.Machine

/-! ### XIDs that come round (R304)

A PAUSE_EXPORT takes the XID after the last one, modulo 2^32, and its first PUSH notes the port it took with every push of that
XID.  Nothing in the statement keeps another push under way from having that XID. -/

/-- Session 0 has every feature and owns a device that serves, with port 0 up.  Entry 5 is paused, its image of two rows in HBM.
The last XID is 2^32 - 1, and the push of entry 6, which went out on port 1, has XID 0. -/
def xidComeRound : State := { State.reset with
  dict := [(regKey 0x1400 1, 1), (regKey 0x1407 0, 9000), (regKey 0x4002 0, 0xFF)]
  col := [(0, { Session.closed with live := true, gen := 1, features := deviceFeatures, paths := [(0, some (10, 47810))] })]
  owner := { Owner.none with sid := 65536 }
  sm := memOf [(cardA 5, leBytes 8 (stPaused * 2 ^ 60)), (cardA 5 + 40, leBytes 8 (0x20000 * 2 ^ 42)), (64 * 0x20000 + 9, leBytes 1 1), (64 * 0x20000 + 16, leBytes 4 2)]
  image := { ImageCh.reset with xid := 2 ^ 32 - 1, pushes := [⟨0, 6, 0, 8192, 0, 0, 0, 1⟩] } }

/-- The push of entry 5 writes its port over that of the push of entry 6. -/
theorem xidComeRound_port_0 : leavesAt (fun t => t.image.pushes.head?.map Push.port) (.pauseExport 65536 5) xidComeRound = some (some 0) := by decide +kernel

theorem xidComeRound_owner : OwnerServed xidComeRound 65536 := by
  unfold OwnerServed Served
  decide +kernel

theorem xidComeRound_featured : Featured xidComeRound 65536 4 := by
  intro i hi
  have hsid : xidComeRound.colSid 65536 = some 0 := by decide +kernel
  cases hsid.symm.trans hi
  decide +kernel

/-- Refutes O55: a PAUSE_EXPORT changes another push that has its XID, where the statement has the earlier pushes kept. -/
theorem not_pausing : ¬ Obligations.Pausing := by
  intro h
  obtain ⟨-, -, -, moves, -⟩ := h xidComeRound
  obtain ⟨exports, -⟩ := moves 65536 xidComeRound_owner xidComeRound_featured 5 (by decide) (by decide +kernel) (by decide +kernel)
  obtain ⟨t, q, ht, hpushes, -⟩ := exports rfl (by decide +kernel) rfl
  have hread := leavesAt_of_exec (f := fun t => t.image.pushes.head?.map Push.port) ht
  rw [xidComeRound_port_0, hpushes] at hread
  have hport : some (some 0) = some (some 1) := hread
  exact absurd hport (by decide)

end Sys2Proof.Machine
end

section
/-! PROOF. A failed load whose list of fields names no field writes over its own result. -/

namespace Sys2Proof.Machine

/-! ### A load whose distributed fields are out of range (R206, R366)

A load that fails lets the fields that it had distributed run at step 6 again: FIELD_STEP_LIMITS (0x3006) is written at the physical
field that FIELD_MAP (0x4007) names for each of them.  FIELD_MAP has 80 elements and FIELD_STEP_LIMITS has 88, but nothing in the
type of the state bounds the field numbers that a load keeps.  For one far past 80 the element of FIELD_MAP is another entry's, and
where that entry holds a number far past 88 the element of FIELD_STEP_LIMITS is another entry's too: here LOAD_RESULT (0xA004),
which the load has set just before. -/

/-- A field number whose element of FIELD_MAP is SHARD_RETRIES_TOTAL (0xA006). -/
def strayField : Nat := (0xA006 - 0x4007) * 65536 - 1

/-- A physical field number whose element of FIELD_STEP_LIMITS is LOAD_RESULT (0xA004). -/
def strayPhys : Nat := (0xA004 - 0x3006) * 65536 - 1

/-- Shard 0, asked for at time 0. -/
def lateShard : Xfer := ⟨1, 2, [], 0, 8192, 0, none, 0, 0, 0, [], []⟩

/-- A device that fetches shard 0 for a load into main and has distributed the stray field; SHARD_RETRIES_TOTAL holds the stray physical field. -/
def strayLoad : State := { State.reset with
  dict := [(regKey 0xA006 0, strayPhys)]
  image := { ImageCh.reset with xfers := [lateShard] }
  load := { Load.none with op := 1, fields := [strayField] } }

/-- The missing shard leaves LOAD_RESULT with the RAMP limit of step 6 written into it. -/
theorem strayLoad_result_limited : leavesAt (fun t => t.reg 0xA004) .shardTimeout strayLoad = some (withLimit (packResult 0x44 0 lateShard.num) srcRamp 6) := by
  decide +kernel

/-- Refutes O54: its clause on a missing shard asks nothing of the fields that the load keeps, and giving them back writes over the LOAD_RESULT that names the shard. -/
theorem not_loading : ¬ Obligations.Loading := by
  intro h
  obtain ⟨-, -, -, -, -, missing, -⟩ := h strayLoad 0
  obtain ⟨t, ht, -, -, hresult, -⟩ := missing lateShard rfl (by decide +kernel) rfl rfl
  have hread := leavesAt_of_exec (f := fun t => t.reg 0xA004) ht
  rw [strayLoad_result_limited, hresult] at hread
  exact absurd hread (by decide +kernel)

end Sys2Proof.Machine
end

section
/-! PROOF. A missing slot of a candidate sorter whose void is counted into an element that a slip mark then writes over. -/

namespace Sys2Proof.Machine

/-! ### CANDIDATE_MISSING under a stray slip mark (R39, R190, R243)

The void of a missing slot is counted before its hold is requested, and the hold turns a slip counted for the coming edge into a
hold beat, which writes the old values of the slip mark back.  A mark that names a field far past 88 reaches another entry than
FIELD_SLIPS: here the count of voids, VOIDS_TOTAL (0x400C). -/

/-- A pass of main at beat 0 with one position and no drafts. -/
def latePass : Pass := ⟨9, false, 0, 0, 5, 0, 1, true, false, [], false, [], [], none, 0, false, false, 0, none⟩

/-- Its slot, which has had no row. -/
def lateSlot : SortSlot := ⟨9, 0, 0, [], none⟩

/-- Slot 3 of tumbler core 23 is that slot, three beats later, and the stray mark names VOIDS_TOTAL. -/
def missingMiscounted : State :=
  let s := straySlip (regKey 0x400C 0) 5 Core.fresh
  { s with
    beat := { s.beat with taken := [(0, 3)] }
    serving := { Serving.reset with passes := [latePass], sorter := [(sorterKey 23 3, some lateSlot)] } }

theorem missingMiscounted_missing : slotMissing missingMiscounted lateSlot latePass = true := by decide +kernel

/-- The hold that the missing slot requests writes the stray mark's value over the count of its void. -/
theorem missingMiscounted_counts_5 : leavesAt (fun t => t.reg 0x400C) (.candidateMissing 23 3) missingMiscounted = some 5 := by decide +kernel

theorem missingMiscounted_next : elt 0x400C 0 (missingMiscounted.reg 0x400C + 1) = 1 := by decide +kernel

/-- Refutes O57: its clause on a missing slot asks nothing of the slip mark, whose values reach the count of voids after the void is counted. -/
theorem not_candidateRows : ¬ Obligations.CandidateRows := by
  intro h
  obtain ⟨-, missing⟩ := h missingMiscounted 23 (by decide)
  obtain ⟨t, ht, hcount, -⟩ := missing 3 (by decide) lateSlot latePass rfl rfl missingMiscounted_missing (fun _ hv => absurd hv List.not_mem_nil) rfl
  have hread := leavesAt_of_exec (f := fun t => t.reg 0x400C) ht
  rw [missingMiscounted_counts_5, hcount, missingMiscounted_next] at hread
  exact absurd hread (by decide)

end Sys2Proof.Machine
end
